-- ==== Sys2Proof/Word.lean ====
section
/-! DEFINITION. The word types of the machine (02 R16) and the register numbers of 05 R84. -/

namespace Sys2Proof

/-- A scalar register, an address, a special register (R16). -/
abbrev Word := BitVec 64

/-- The smallest addressable unit (R3). -/
abbrev Byte := BitVec 8

/-- A vector register (R16). -/
abbrev Vec := BitVec 512

/-- Register numbers; the widths leave no number outside its kind's range (R84). -/
abbrev SReg := BitVec 5
abbrev VReg := BitVec 5
abbrev PReg := BitVec 3
abbrev KReg := BitVec 4
abbrev AReg := BitVec 2

/-- The 4-bit guard field g: bit 3 negates, bits [2:0] name the predicate (R99). -/
abbrev Guard := BitVec 4

end Sys2Proof
end

