-- ==== Sys2Proof/Config.lean ====
section
/-! DEFINITION. What one implementation fixes, and the free values: constants with no body, so that no
proof can see their value. -/

namespace Sys2Proof.Config

/-- The byte that the decryption of a line under another key than the one it was written with shows
(21 R315: an unpredictable value), by the counter or label of the free value. Free value, log 9. -/
opaque freeByte : Nat → Byte

/-- What the power governor measures and settles on (22 R330: frequency, voltage offset, energy), by the counter of the
free values. Free value, log 9. -/
opaque freeNat : Nat → Nat

/-- The step above 300 mV of a clock's nominal LDO voltage (22 R325, R330 give no table). Free value, log 9. -/
opaque nominalStep : Nat → Nat

/-- The byte an encoder puts at a place of its output bitstream (08 R177 gives no bytes). Free value, log 15. -/
opaque bitstreamByte : Nat → Byte

/-- The size in bytes of an encoded frame, by the frame's label (08 R177). Free value, log 15. -/
opaque bitstreamSize : Nat → Nat

/-- The root security core's signature bytes of an attestation report (22 R338). Free value, log 16. -/
opaque signatureByte : Nat → Byte

/-- This package's id in the fabric (21 R322 names packages by it and gives none). Each implementation decides, log 30. -/
opaque fabricId : Nat

/-- The device identity's public key in an attestation report (22 R338). Free value, log 16. -/
opaque identityByte : Nat → Byte

/-- Tiles of the package mesh: 64 columns and 48 rows (00). -/
def meshCols : Nat := 64
def meshRows : Nat := 48

/-- Dies of the package, and tile positions along one edge of a die (00; 22 R337: 256 positions per die). -/
def dieCount : Nat := 12
def dieEdge : Nat := 16

/-- Capacity of one L1 data cache in 64-byte lines: 64 KiB (00, 03 R50). -/
def l1Lines : Nat := 1024

/-- Capacity of a store buffer in aligned 8-byte units: 4 KiB (02 R37). -/
def storeBufferUnits : Nat := 512

end Sys2Proof.Config
end

