-- ==== Sys2Proof/Machine/Bits.lean ====
section
/-! DEFINITION. Bit fields, byte order, integer square root and sorted keyed lists: the helpers every unit uses. -/

namespace Sys2Proof.Machine

/-- x[hi:lo] as a bit vector of width n, from bit lo (00 R3). -/
abbrev bits {w : Nat} (x : BitVec w) (lo n : Nat) : BitVec n := x.extractLsb' lo n

/-- x[hi:lo] as a number. -/
def fld {w : Nat} (x : BitVec w) (lo n : Nat) : Nat := (bits x lo n).toNat

/-- Field [lo+n-1 : lo] of x replaced by the low n bits of y. -/
def setBits {w : Nat} (x : BitVec w) (lo n : Nat) (y : Nat) : BitVec w :=
  (x &&& ~~~ (BitVec.ofNat w ((2 ^ n - 1) * 2 ^ lo))) ||| BitVec.ofNat w ((y % 2 ^ n) * 2 ^ lo)

/-- sext(x, n): sign extension from bit n-1 to 64 bits (00 R6). -/
def sext {n : Nat} (x : BitVec n) : Word := x.signExtend 64

/-- zext(x, n) (00 R6). -/
def zext {n : Nat} (x : BitVec n) : Word := x.zeroExtend 64

def boolWord (b : Bool) : Word := if b then 1 else 0

/-- All 64 bits of a predicate from a truth value (01 R9). -/
def allOnes (b : Bool) : Word := if b then BitVec.allOnes 64 else 0

/-- Byte i of a value of any width. -/
def byteAt {w : Nat} (x : BitVec w) (i : Nat) : Byte := bits x (8 * i) 8

/-- The first n bytes of x, little-endian (00 R3). -/
def bytesOf {w : Nat} (x : BitVec w) (n : Nat) : List Byte := (List.range n).map (byteAt x)

/-- The number a list of bytes holds, little-endian (00 R3). -/
def leNat : List Byte → Nat
  | [] => 0
  | b :: bs => b.toNat + 256 * leNat bs

def leWord (l : List Byte) : Word := BitVec.ofNat 64 (leNat l)

def natBytes (n k : Nat) : List Byte := (List.range k).map (fun i => BitVec.ofNat 8 (n / 256 ^ i))

/-- Number of ones among the first n bits. -/
def popFrom {w : Nat} (x : BitVec w) : Nat → Nat
  | 0 => 0
  | n + 1 => popFrom x n + (x.getLsbD n).toNat

def popCount {w : Nat} (x : BitVec w) : Nat := popFrom x w

/-- Leading zeros below bit n. -/
def clzFrom {w : Nat} (x : BitVec w) : Nat → Nat
  | 0 => 0
  | n + 1 => if x.getLsbD n then 0 else 1 + clzFrom x n

def clz64 (x : Word) : Nat := clzFrom x 64

/-- Trailing zeros: the fuel is the number of bits still to look at. -/
def ctzFrom {w : Nat} (x : BitVec w) (i : Nat) : Nat → Nat
  | 0 => 0
  | n + 1 => if x.getLsbD i then 0 else 1 + ctzFrom x (i + 1) n

def ctz64 (x : Word) : Nat := ctzFrom x 0 64

/-- The bytes of a word in reverse order. -/
def bswap64 (x : Word) : Word := leWord (bytesOf x 8).reverse

/-- A vector from its byte list. -/
def vecOfBytes (l : List Byte) : Vec := BitVec.ofNat 512 (leNat l)

/-- A vector built byte by byte. -/
def vecOfFn (f : Nat → Byte) : Vec := vecOfBytes ((List.range 64).map f)

/-- ⌊√n⌋ by one bit a turn, from bit k-1 down; r is the root found so far. -/
def isqrtFrom (n : Nat) : Nat → Nat → Nat
  | 0, r => r
  | k + 1, r => if (r + 2 ^ k) * (r + 2 ^ k) ≤ n then isqrtFrom n k (r + 2 ^ k) else isqrtFrom n k r

def isqrt (n : Nat) : Nat := isqrtFrom n (n.log2 / 2 + 1) 0

/-- ⌈a / b⌉ for b > 0. -/
def ceilDiv (a b : Nat) : Nat := (a + b - 1) / b

/-- The least power of two that is at least n (n > 0). -/
def roundPow2 (n : Nat) : Nat := if n ≤ 1 then 1 else 2 ^ ((n - 1).log2 + 1)

/-- Elements with their places, counted from n. -/
def numberedFrom {α : Type} (n : Nat) : List α → List (Nat × α)
  | [] => []
  | x :: r => (n, x) :: numberedFrom (n + 1) r

/-! ### Keyed lists, keys rising -/

/-- The value listed under key k. -/
def lookupKey {α : Type} (l : List (Nat × α)) (k : Nat) : Option α :=
  match l with
  | [] => none
  | (j, x) :: r => if j = k then some x else if k < j then none else lookupKey r k

/-- Puts x under key k, keeping the keys rising. -/
def putKey {α : Type} (l : List (Nat × α)) (k : Nat) (x : α) : List (Nat × α) :=
  match l with
  | [] => [(k, x)]
  | (j, y) :: r => if j = k then (k, x) :: r else if k < j then (k, x) :: (j, y) :: r else (j, y) :: putKey r k x

/-- Drops key k. -/
def dropKey {α : Type} (l : List (Nat × α)) (k : Nat) : List (Nat × α) :=
  match l with
  | [] => []
  | (j, y) :: r => if j = k then r else if k < j then (j, y) :: r else (j, y) :: dropKey r k

/-- Set of numbers as a rising list. -/
def addNum (l : List Nat) (k : Nat) : List Nat :=
  match l with
  | [] => [k]
  | j :: r => if j = k then j :: r else if k < j then k :: j :: r else j :: addNum r k

def delNum (l : List Nat) (k : Nat) : List Nat :=
  match l with
  | [] => []
  | j :: r => if j = k then r else if k < j then j :: r else j :: delNum r k

def hasNum (l : List Nat) (k : Nat) : Bool :=
  match l with
  | [] => false
  | j :: r => if j = k then true else if k < j then false else hasNum r k

/-- The element at place n, and the list without it. -/
def takeAt {α : Type} : List α → Nat → Option (α × List α)
  | [], _ => none
  | x :: r, 0 => some (x, r)
  | x :: r, n + 1 => (takeAt r n).map (fun p => (p.1, x :: p.2))

/-- The list with place n replaced. -/
def setAt {α : Type} : List α → Nat → α → List α
  | [], _, _ => []
  | _ :: r, 0, y => y :: r
  | x :: r, n + 1, y => x :: setAt r n y

/-- The first place whose element satisfies p. -/
def findAt {α : Type} (p : α → Bool) : List α → Option Nat
  | [] => none
  | x :: r => if p x then some 0 else (findAt p r).map (· + 1)

end Sys2Proof.Machine
end

