-- ==== Sys2Proof/Syntax.lean ====
section
/-! DEFINITION. The instructions: one constructor per row of spec/opcode_table.json. The first part are the encoded
words (05 R82-R98); the second part are the rows without an encoding, the steps of the machine's other agents (95). -/

namespace Sys2Proof

/-- The mutable fields of a region control block, as a DEFSET names them (19 R282, R283). -/
inductive RcbField where
  | prio | debug | scopetrap | rhome | agek | runlim | drainlim | kphase | fhandler | bwdog | quota | wotab
deriving DecidableEq, Repr

/-- One partition of a partitioning (21 R310, R311), with the address of its default block (19 R283). -/
structure PartCfg where
  pid : Nat
  dies : List Nat
  ports : BitVec 16
  kbase : Nat
  kcount : Nat
  block : Word
deriving DecidableEq, Repr

/-- A fabric launch: the fabric id of its origin, none where it is this package, and the origin's generation (21 R322). -/
structure LaunchId where
  origin : Option Nat
  gen : Nat
deriving DecidableEq, Repr

/-- A launch packet of another package as it arrives: whether its sender's attestation report verified (22 R338), and its bytes. -/
structure FabricPacket where
  verified : Bool
  bytes : List Byte
deriving DecidableEq, Repr

/-- What the governor sets in a period (22 R325, R328, R330): a budget in mA for each enabled tile in order, and points of cores
(core, clock, voltage). -/
structure Governed where
  budgets : List Nat
  points : List (Nat × Nat × Nat)
deriving DecidableEq, Repr

/-- A configuration record (22 R337): its bytes as they are signed and measured, and what they say. -/
structure ConfigRecord where
  image : List Byte
  /-- HBM channels that the channel map turns off: die and channel -/
  channelsOff : List (Nat × Nat)
  /-- tile positions that are not enabled -/
  disabled : List Nat
  ports : BitVec 16
  parts : List PartCfg
  coreLimit : Nat
  power : Nat
  sprintSlots : Nat
  sprintMax : Nat
  version : Nat
deriving DecidableEq, Repr

/-- A soft error by the structure it meets (20 R308). -/
inductive SoftErr where
  | corrected (die : Nat)                       -- corrected and counted
  | memUnit (pa : Nat)                          -- HBM or memory-side cache, not corrected
  | spadUnit (tile off : Nat)                   -- scratchpad, not corrected
  | weightBlock (core block : Nat)              -- weight buffer, not corrected
  | l1Line (core line : Nat)                    -- L1 data: the line is dropped and refilled
  | sReg (sid : Nat) (r : SReg)                 -- registers: the second failure
  | vReg (sid : Nat) (r : VReg) (unit : BitVec 3)
  | pReg (sid : Nat) (r : PReg)
  | kReg (sid : Nat) (r : KReg)
  | accElem (sid : Nat) (r : AReg) (elem : Nat)
  | storeUnit (sid idx : Nat)                   -- store buffer, not corrected
  | stateEntry (die rid kind : Nat)             -- mailboxes, deques, ... of a die: kind is the detail code of R306
deriving DecidableEq, Repr

/-- The instructions and steps of the machine. -/
inductive Instr where
  -- Register-register integer operations (05 R88, 06 R111)
  | add (g : Guard) (d a b : SReg)
  | sub (g : Guard) (d a b : SReg)
  | mul (g : Guard) (d a b : SReg)
  | mulh (g : Guard) (d a b : SReg)
  | mulhz (g : Guard) (d a b : SReg)
  | div (g : Guard) (d a b : SReg)
  | divz (g : Guard) (d a b : SReg)
  | rem (g : Guard) (d a b : SReg)
  | remz (g : Guard) (d a b : SReg)
  | and (g : Guard) (d a b : SReg)
  | or (g : Guard) (d a b : SReg)
  | xor (g : Guard) (d a b : SReg)
  | andn (g : Guard) (d a b : SReg)
  | orn (g : Guard) (d a b : SReg)
  | shl (g : Guard) (d a b : SReg)
  | shr (g : Guard) (d a b : SReg)
  | sra (g : Guard) (d a b : SReg)
  | rol (g : Guard) (d a b : SReg)
  | clz (g : Guard) (d a : SReg)
  | ctz (g : Guard) (d a : SReg)
  | popc (g : Guard) (d a : SReg)
  | bswap (g : Guard) (d a : SReg)
  | min (g : Guard) (d a b : SReg)
  | max (g : Guard) (d a b : SReg)
  | minz (g : Guard) (d a b : SReg)
  | maxz (g : Guard) (d a b : SReg)
  | sextB (g : Guard) (d a : SReg)
  | sextH (g : Guard) (d a : SReg)
  | sextW (g : Guard) (d a : SReg)
  | zextB (g : Guard) (d a : SReg)
  | zextH (g : Guard) (d a : SReg)
  | zextW (g : Guard) (d a : SReg)
  | sel (g : Guard) (d a b : SReg) (n : PReg)
  | cmp (g : Guard) (d : PReg) (a b : SReg) (cc : BitVec 4)
  -- Immediate forms (05 R89, 06 R112, R113)
  | addi (g : Guard) (d a : SReg) (imm : BitVec 12)
  | andi (g : Guard) (d a : SReg) (imm : BitVec 12)
  | ori (g : Guard) (d a : SReg) (imm : BitVec 12)
  | xori (g : Guard) (d a : SReg) (imm : BitVec 12)
  | shli (g : Guard) (d a : SReg) (n : BitVec 6)
  | shri (g : Guard) (d a : SReg) (n : BitVec 6)
  | srai (g : Guard) (d a : SReg) (n : BitVec 6)
  | roli (g : Guard) (d a : SReg) (n : BitVec 6)
  | cmpi (g : Guard) (d : PReg) (cc : BitVec 4) (a : SReg) (imm : BitVec 10)
  | lui (d : SReg) (imm : BitVec 21)
  | addpc (d : SReg) (imm : BitVec 21)
  -- Loads and stores with a scaled offset (06 R123); indexed and modified (05 R91, 06 R124)
  | ldB (g : Guard) (d a : SReg) (k : BitVec 12)
  | ldBz (g : Guard) (d a : SReg) (k : BitVec 12)
  | ldH (g : Guard) (d a : SReg) (k : BitVec 12)
  | ldHz (g : Guard) (d a : SReg) (k : BitVec 12)
  | ldW (g : Guard) (d a : SReg) (k : BitVec 12)
  | ldWz (g : Guard) (d a : SReg) (k : BitVec 12)
  | ldD (g : Guard) (d a : SReg) (k : BitVec 12)
  | stB (g : Guard) (d a : SReg) (k : BitVec 12)
  | stH (g : Guard) (d a : SReg) (k : BitVec 12)
  | stW (g : Guard) (d a : SReg) (k : BitVec 12)
  | stD (g : Guard) (d a : SReg) (k : BitVec 12)
  | ldIndexed (g : Guard) (d a b : SReg) (size mod : BitVec 3)
  | stIndexed (g : Guard) (d a b : SReg) (size mod : BitVec 3)
  -- Branches and jumps (06 R115-R117)
  | bCc (cc : BitVec 4) (a b : SReg) (off : BitVec 12)
  | biCc (cc : BitVec 4) (a : SReg) (imm : BitVec 5) (off : BitVec 12)
  | j (imm : BitVec 21)
  | jal (d : SReg) (imm : BitVec 21)
  | jalr (g : Guard) (d a : SReg) (imm : BitVec 12)
  -- Predicates (05 R90, 06 R114)
  | pand (g : Guard) (d a b : PReg)
  | por (g : Guard) (d a b : PReg)
  | pxor (g : Guard) (d a b : PReg)
  | pnot (g : Guard) (d a : PReg)
  | pmovPP (g : Guard) (d a : PReg)
  | pmovPS (g : Guard) (d : PReg) (a : SReg)
  | pmovSP (g : Guard) (d : SReg) (a : PReg)
  | pcount (g : Guard) (d : SReg) (a : PReg)
  -- Scalar floating point; q is 0 for .f64 and 1 for .f32 (05 R90, 06 R119-R122)
  | fadd (g : Guard) (d a b : SReg) (q : BitVec 1)
  | fsub (g : Guard) (d a b : SReg) (q : BitVec 1)
  | fmul (g : Guard) (d a b : SReg) (q : BitVec 1)
  | fdiv (g : Guard) (d a b : SReg) (q : BitVec 1)
  | fsqrt (g : Guard) (d a : SReg) (q : BitVec 1)
  | fma (g : Guard) (d a b : SReg) (q : BitVec 1)
  | fmin (g : Guard) (d a b : SReg) (q : BitVec 1)
  | fmax (g : Guard) (d a b : SReg) (q : BitVec 1)
  | fclass (g : Guard) (d a : SReg) (q : BitVec 1)
  | fcmp (g : Guard) (d : PReg) (a b : SReg) (cc : BitVec 3) (q : BitVec 1)
  | fcvt (g : Guard) (d a : SReg) (src tgt : BitVec 4)
  -- Atomics and exact accumulation; o is the ordering code (05 R91, 06 R125-R129)
  | amoAdd (g : Guard) (d a b : SReg) (o : BitVec 3)
  | amoAnd (g : Guard) (d a b : SReg) (o : BitVec 3)
  | amoOr (g : Guard) (d a b : SReg) (o : BitVec 3)
  | amoXor (g : Guard) (d a b : SReg) (o : BitVec 3)
  | amoMin (g : Guard) (d a b : SReg) (o : BitVec 3)
  | amoMax (g : Guard) (d a b : SReg) (o : BitVec 3)
  | amoMinz (g : Guard) (d a b : SReg) (o : BitVec 3)
  | amoMaxz (g : Guard) (d a b : SReg) (o : BitVec 3)
  | amoSwap (g : Guard) (d a b : SReg) (o : BitVec 3)
  | cas (g : Guard) (d a b : SReg) (o : BitVec 3)
  | xaddF32 (g : Guard) (a b : SReg) (o : BitVec 3)
  | xaddF64 (g : Guard) (a b : SReg) (o : BitVec 3)
  | xmerge (g : Guard) (a b : SReg) (o : BitVec 3)
  -- Fences, waits, special registers (05 R92, 06 R118, R130-R133)
  | fenceAcq (sc : BitVec 2)
  | fenceRel (sc : BitVec 2)
  | fenceAr (sc : BitVec 2)
  | fenceP
  | waitc (l s : BitVec 6) (c m : BitVec 5)
  | pause (a : SReg)
  | srd (g : Guard) (d : SReg) (sel : BitVec 11)
  | swr (g : Guard) (a : SReg) (sel : BitVec 11)
  -- Vector memory (05 R93, 07 R137-R139); w is the element width code
  | vld (g : Guard) (d : VReg) (a : SReg) (k : BitVec 9)
  | vst (g : Guard) (d : VReg) (a : SReg) (k : BitVec 9)
  | vlds (g : Guard) (d : VReg) (a s : SReg) (w : BitVec 2)
  | vldx (g : Guard) (d : VReg) (a : SReg) (x : VReg) (w : BitVec 2)
  | vstx (g : Guard) (d : VReg) (a : SReg) (x : VReg) (w : BitVec 2)
  | vldVol (g : Guard) (d : VReg) (a : SReg) (k : BitVec 9)
  | vldFg (g : Guard) (d : VReg) (a : SReg) (k : BitVec 9)
  -- Vector integer (05 R94, 07 R141, R142)
  | vaddInt (g : Guard) (d a b : VReg) (w : BitVec 2)
  | vsubInt (g : Guard) (d a b : VReg) (w : BitVec 2)
  | vmulInt (g : Guard) (d a b : VReg) (w : BitVec 2)
  | vmulh (g : Guard) (d a b : VReg) (w : BitVec 2)
  | vmulhz (g : Guard) (d a b : VReg) (w : BitVec 2)
  | vand (g : Guard) (d a b : VReg) (w : BitVec 2)
  | vor (g : Guard) (d a b : VReg) (w : BitVec 2)
  | vxor (g : Guard) (d a b : VReg) (w : BitVec 2)
  | vshl (g : Guard) (d a b : VReg) (w : BitVec 2)
  | vshr (g : Guard) (d a b : VReg) (w : BitVec 2)
  | vsra (g : Guard) (d a b : VReg) (w : BitVec 2)
  | vminInt (g : Guard) (d a b : VReg) (w : BitVec 2)
  | vmaxInt (g : Guard) (d a b : VReg) (w : BitVec 2)
  | vminz (g : Guard) (d a b : VReg) (w : BitVec 2)
  | vmaxz (g : Guard) (d a b : VReg) (w : BitVec 2)
  | vcmpInt (g : Guard) (d : PReg) (a b : VReg) (cc : BitVec 4) (w : BitVec 2)
  -- Vector floating point; t is the type of 05 R94 (07 R143-R146)
  | vaddFp (g : Guard) (d a b : VReg) (t : BitVec 2)
  | vsubFp (g : Guard) (d a b : VReg) (t : BitVec 2)
  | vmulFp (g : Guard) (d a b : VReg) (t : BitVec 2)
  | vdiv (g : Guard) (d a b : VReg) (t : BitVec 2)
  | vsqrt (g : Guard) (d a : VReg) (t : BitVec 2)
  | vfma (g : Guard) (d a b : VReg) (t : BitVec 2)
  | vminFp (g : Guard) (d a b : VReg) (t : BitVec 2)
  | vmaxFp (g : Guard) (d a b : VReg) (t : BitVec 2)
  | vfrsqe (g : Guard) (d a : VReg) (t : BitVec 2)
  | vabs (g : Guard) (d a : VReg) (t : BitVec 2)
  | vcmpFp (g : Guard) (d : PReg) (a b : VReg) (cc : BitVec 3) (t : BitVec 2)
  | vcvt (g : Guard) (d a : VReg) (src tgt : BitVec 4)
  -- Vector movement and reductions (05 R95, 07 R147-R150)
  | vsel (g : Guard) (d a b : VReg) (n : PReg)
  | vbcast (g : Guard) (d : VReg) (a : SReg) (w : BitVec 2)
  | vperm (g : Guard) (d a b : VReg) (w : BitVec 2)
  | vslide (g : Guard) (d a : VReg) (b : SReg) (w : BitVec 2)
  | vredInt (g : Guard) (d : SReg) (a : VReg) (n : PReg) (op : BitVec 3) (w : BitVec 2)
  | vredFp (g : Guard) (d : SReg) (a : VReg) (n : PReg) (op : BitVec 2) (t : BitVec 2)
  | vscan (g : Guard) (d a : VReg) (n : PReg) (w : BitVec 2)
  | vcompact (g : Guard) (d a : VReg) (n : PReg) (w : BitVec 2)
  | vext (g : Guard) (d : SReg) (a : VReg) (b : SReg) (w : BitVec 2)
  | vins (g : Guard) (d : VReg) (a b : SReg) (w : BitVec 2)
  | vdotI8 (g : Guard) (d a b : VReg)
  | vdotF16 (g : Guard) (d a b : VReg)
  | vdotBf16 (g : Guard) (d a b : VReg)
  | vdotE4m3 (g : Guard) (d a b : VReg)
  -- Tasks, messages, deque, barriers (05 R96, 08 R156-R168)
  | spawn (g : Guard) (pd : PReg) (a : SReg)
  | spawnj (g : Guard) (pd : PReg) (a : SReg)
  | join (g : Guard) (a : SReg)
  | tend (g : Guard)
  | launch (g : Guard) (t a : SReg)
  | send (g : Guard) (sc : BitVec 2) (t a b : SReg) (rel : BitVec 1)
  | dqpush (g : Guard) (pd : PReg) (a : SReg)
  | dqpop (g : Guard) (pd : PReg) (d : SReg)
  | dqsplit (g : Guard) (pd : PReg) (d : SReg)
  | dqsteal (g : Guard) (pd : PReg) (d b : SReg)
  | balloc (g : Guard) (sc : BitVec 2) (d : SReg) (pd : PReg) (b : SReg)
  | bexpect (g : Guard) (a b : SReg)
  | barrive (g : Guard) (d a : SReg)
  | bwait (g : Guard) (pd : PReg) (a b : SReg)
  | bfree (g : Guard) (a : SReg)
  -- Copy engine and encoder (08 R175-R177)
  | copy (g : Guard) (acq : BitVec 1) (sc : BitVec 2) (t a b : SReg) (rel : BitVec 1)
  | put (g : Guard) (acq : BitVec 1) (sc : BitVec 2) (t a b : SReg) (rel : BitVec 1)
  | putO (g : Guard) (acq : BitVec 1) (sc : BitVec 2) (t a b : SReg) (rel : BitVec 1)
  | gather (g : Guard) (acq : BitVec 1) (sc : BitVec 2) (t a b : SReg) (rel : BitVec 1)
  | copyw (g : Guard) (acq : BitVec 1) (sc : BitVec 2) (t a b : SReg)
  | venc (g : Guard) (acq : BitVec 1) (sc : BitVec 2) (t a : SReg) (rel : BitVec 1)
  -- Matrix unit (09 R192-R197), exact slots (06 R128, R129)
  | mma (g : Guard) (d : AReg) (a b : SReg)
  | mmas (g : Guard) (d : AReg) (a b : SReg)
  | mmal (g : Guard) (d : AReg) (a b : SReg)
  | mzero (g : Guard) (d : AReg)
  | mld (g : Guard) (d : AReg) (a : SReg)
  | mst (g : Guard) (d : AReg) (a : SReg)
  | prune (g : Guard) (d a : VReg)
  | ctld (g : Guard) (a : SReg)
  | xrnd (g : Guard) (d a b : SReg) (mode : BitVec 2) (q : BitVec 1)
  | xclr (g : Guard) (a : SReg)
  -- Trees (10 R210-R215) and relay (11 R233-R236)
  | build (g : Guard) (acq : BitVec 1) (sc : BitVec 2) (t a : SReg) (rel : BitVec 1)
  | refit (g : Guard) (acq : BitVec 1) (sc : BitVec 2) (t a : SReg) (rel : BitVec 1)
  | rebal (g : Guard) (acq : BitVec 1) (sc : BitVec 2) (t a b : SReg) (rel : BitVec 1)
  | gpin (g : Guard) (t a : SReg)
  | gunpin (g : Guard) (t a b : SReg)
  | bquery (g : Guard) (t a b : SReg)
  | pairgo (g : Guard) (acq : BitVec 1) (sc : BitVec 2) (t a : SReg) (rel : BitVec 1)
  | raygo (g : Guard) (acq : BitVec 1) (sc : BitVec 2) (t a : SReg) (rel : BitVec 1)
  | nld (g : Guard) (d : VReg) (a b : SReg)
  | verdict (g : Guard) (a b : SReg)
  -- Pacer streams (12 R243-R252)
  | sgen (g : Guard) (d : KReg) (a b : SReg)
  | sand (g : Guard) (d a b : KReg)
  | sxnor (g : Guard) (d a b : KReg)
  | sor (g : Guard) (d a b : KReg)
  | snot (g : Guard) (d a : KReg)
  | scnt (g : Guard) (d : SReg) (a : KReg)
  | scntp (g : Guard) (d : SReg) (a : KReg) (b : SReg)
  | scvt (g : Guard) (d a b : SReg)
  | sregen (g : Guard) (d a : KReg) (b : SReg)
  | sdelay (g : Guard) (d a : KReg) (b : SReg)
  | sld (g : Guard) (d : KReg) (a : SReg)
  | sst (g : Guard) (d : KReg) (a : SReg)
  | smux (g : Guard) (d a b n : KReg)
  -- Prefixes (05 R102-R105) and system words (05 R98)
  | fmt (rm : BitVec 2) (af bf df : BitVec 4) (scm : BitVec 3) (acc : BitVec 1)
  | immx (hi : BitVec 22)
  | hint (kind : BitVec 4)
  | trap (imm : BitVec 10)
  | syscall (imm : BitVec 10)
  | rfe
  | tlbinv (a b : SReg) (kind : BitVec 2)
  | replay (a : SReg)
  | lease (a d : SReg) (kind : BitVec 10)
  | opmark (a : SReg) (kind : BitVec 10)
  | idle (a : SReg)
  -- A reserved or illegal word (05 R108)
  | reservedEncoding (w : BitVec 32)
  -- `swr` to the selectors that have rows of their own (19 R279, 20 R294, R309); the three effects of FATE (19 R280)
  | preempt (g : Guard) (a : SReg)
  | resume (g : Guard) (a : SReg)
  | kill (g : Guard) (a : SReg)
  | rcbsync (g : Guard) (a : SReg)
  | fateRequeue
  | fateEnd
  | fateKill
  | stackbase (g : Guard) (a : SReg)
  | ptroot (g : Guard) (a : SReg)
  | lastue (g : Guard) (a : SReg)
  -- Steps of the strands and home units (95); sid names a strand, idx a place in the list of what is in flight
  | dispatch (sid : Nat)
  | pauseEnd (sid : Nat)
  | loadCompletion (sid idx : Nat)
  | storeDrain (sid : Nat)
  | homeAtomic (idx : Nat)
  | messageArrival (idx : Nat)
  -- Steps of the engines
  | putArrival (tile idx : Nat)
  | putAck (tile idx : Nat)
  | copyCompletion (tile idx : Nat)
  | vencCompletion (die idx : Nat)
  | barrierWatchdog (die idx : Nat)
  | runWatchdog (sid : Nat)
  | remoteHomeMigration (sid : Nat)
  | matrixAccept (sid : Nat)
  | matrixComplete (core : Nat)
  | builderLock (die idx : Nat)
  | builderStep (die idx : Nat)
  | publish (die idx : Nat)
  | relayCommandTake (tile : Nat)
  | pairTest (tile : Nat)
  | relaySteal (tile : Nat)
  | rayStep (tile idx : Nat)
  | relayQueuePlace (tile : Nat)
  | traversalEnd (tile : Nat)
  -- Steps of the scheduler; rid names a region
  | tilesPlaced (rid : Nat) (tiles : List Nat)
  | preemptDrained (rid : Nat)
  | drainLimit (rid : Nat)
  | regionEnd (rid : Nat)
  | quotaWindow
  | leaseExpiry (rid : Nat)
  -- The host link and the fabric (21); pid names a partition
  | mrd (pid queue len : Nat) (tag : BitVec 32) (addr : Word)
  | mwr (pid queue : Nat) (tag : BitVec 32) (addr : Word) (data : List Byte)
  | fence (pid queue : Nat) (tag : BitVec 32)
  | notifyLaunch (pid queue : Nat) (tag : BitVec 32) (payload : List Byte)
  | notifyFabricLaunch (pid queue : Nat) (tag : BitVec 32) (payload : List Byte)
  | fabricLaunchPacket (pid port : Nat) (id : LaunchId) (place count : Nat) (packet : FabricPacket)
  | startBarrier (id : LaunchId)
  | packageUnreachable (id : LaunchId) (place : Nat)
  | linkDown
  | linkTrained
  -- Management requests and the root security core (19 R283, 21 R313, R314, 22 R334-R338)
  | keygen (pid k : Nat)
  | keyclr (pid k : Nat)
  | defset (pid : Nat) (field : RcbField) (value : Nat)
  | lattol (pid ns : Nat)
  | attestation (pid : Nat) (nonce : List Byte)
  | partitioningChange (parts : List PartCfg)
  -- Power, errors and bring-up (20 R308, 22)
  | governorPeriod (shares : Governed)
  | sensorSample (die : Nat) (readings : List Int) (currents : List Nat)
  | timingError (core : Nat)
  | stretchEnd (core : Nat)
  | tileIdle (tile : Nat)
  | tileWake (tile : Nat)
  | softError (e : SoftErr)
  | packageReset
  | bootStage (image : List Byte) (verified : Bool)
  | configurationRecord (r : ConfigRecord) (verified : Bool)
  | coreReset (core : Nat)
  | packageRefused (id : LaunchId) (place : Nat)
deriving DecidableEq, Repr

end Sys2Proof
end

