-- ==== Sys2Proof/WellFormed.lean ====
section
/-! DEFINITION. Which instructions can be encoded (05 R84-R98, R108), and which inputs from outside have the shape
their rules give. What depends on the machine (a pairing with a prefix, the mode, the operands) is in the meanings. -/

namespace Sys2Proof

/-- Special-register selectors assigned in some chapter (05 R92; 02 R19, 06 R133, 19 R279, 20 R294, R309, 22 R328). -/
def selKnown (n : Nat) : Bool :=
  n == 0x000 || n == 0x001 || (0x010 ≤ n && n ≤ 0x015) || n == 0x020 || n == 0x030 || n == 0x031 ||
  (0x400 ≤ n && n ≤ 0x403) || n == 0x405 || n == 0x406 || n == 0x408 || n == 0x409 || n == 0x410 ||
  (0x420 ≤ n && n ≤ 0x424) || n == 0x430 || n == 0x431 || (0x440 ≤ n && n ≤ 0x442) || n == 0x450 ||
  (0x461 ≤ n && n ≤ 0x463)

/-- Selectors whose write is a row of its own: STACKBASE, PREEMPT, RESUME, KILL, RCBSYNC, PTROOT, LASTUE. -/
def ownRow (n : Nat) : Bool :=
  n == 0x410 || (0x420 ≤ n && n ≤ 0x423) || n == 0x430 || n == 0x442

def isFloatCode (c : BitVec 4) : Bool := c.toNat ≤ 5
def isIntCode (c : BitVec 4) : Bool := 8 ≤ c.toNat

/-- The pairs `fcvt` lists (06 R122, 05 R90). -/
def fcvtOk (src tgt : BitVec 4) : Bool :=
  (isFloatCode src && isFloatCode tgt) || (isFloatCode src && isIntCode tgt) || (isIntCode src && isFloatCode tgt) ||
  ((src == 1 || src == 2) && tgt == 6) || (src == 6 && isFloatCode tgt)

/-- The pairs `vcvt` lists: those of `fcvt`, integer to integer, and c4 to i8 (07 R146). -/
def vcvtOk (src tgt : BitVec 4) : Bool :=
  fcvtOk src tgt || (isIntCode src && isIntCode tgt) || (src == 7 && tgt == 8)

/-- SCOPE is reserved when ACQ and REL are both 0 (05 R96). -/
def scOk (acq : BitVec 1) (sc : BitVec 2) (rel : BitVec 1) : Bool := acq == 1 || rel == 1 || sc == 0

/-- The guard field, 0 for a format without one (05 R99). -/
def Instr.guard : Instr → Guard
  | .add g .. | .sub g .. | .mul g .. | .mulh g .. | .mulhz g .. | .div g .. | .divz g .. | .rem g ..
    | .remz g .. | .and g .. | .or g .. | .xor g .. | .andn g .. | .orn g .. | .shl g .. | .shr g ..
    | .sra g .. | .rol g .. | .clz g .. | .ctz g .. | .popc g .. | .bswap g .. | .min g .. | .max g ..
    | .minz g .. | .maxz g .. | .sextB g .. | .sextH g .. | .sextW g .. | .zextB g .. | .zextH g ..
    | .zextW g .. | .sel g .. | .cmp g .. | .addi g .. | .andi g .. | .ori g .. | .xori g .. | .shli g ..
    | .shri g .. | .srai g .. | .roli g .. | .cmpi g .. | .ldB g .. | .ldBz g .. | .ldH g .. | .ldHz g ..
    | .ldW g .. | .ldWz g .. | .ldD g .. | .stB g .. | .stH g .. | .stW g .. | .stD g .. | .ldIndexed g ..
    | .stIndexed g .. | .jalr g .. | .pand g .. | .por g .. | .pxor g .. | .pnot g .. | .pmovPP g ..
    | .pmovPS g .. | .pmovSP g .. | .pcount g .. | .fadd g .. | .fsub g .. | .fmul g .. | .fdiv g ..
    | .fsqrt g .. | .fma g .. | .fmin g .. | .fmax g .. | .fclass g .. | .fcmp g .. | .fcvt g .. | .amoAdd g ..
    | .amoAnd g .. | .amoOr g .. | .amoXor g .. | .amoMin g .. | .amoMax g .. | .amoMinz g .. | .amoMaxz g ..
    | .amoSwap g .. | .cas g .. | .xaddF32 g .. | .xaddF64 g .. | .xmerge g .. | .srd g .. | .swr g ..
    | .vld g .. | .vst g .. | .vlds g .. | .vldx g .. | .vstx g .. | .vldVol g .. | .vldFg g .. | .vaddInt g ..
    | .vsubInt g .. | .vmulInt g .. | .vmulh g .. | .vmulhz g .. | .vand g .. | .vor g .. | .vxor g ..
    | .vshl g .. | .vshr g .. | .vsra g .. | .vminInt g .. | .vmaxInt g .. | .vminz g .. | .vmaxz g ..
    | .vcmpInt g .. | .vaddFp g .. | .vsubFp g .. | .vmulFp g .. | .vdiv g .. | .vsqrt g .. | .vfma g ..
    | .vminFp g .. | .vmaxFp g .. | .vfrsqe g .. | .vabs g .. | .vcmpFp g .. | .vcvt g .. | .vsel g ..
    | .vbcast g .. | .vperm g .. | .vslide g .. | .vredInt g .. | .vredFp g .. | .vscan g .. | .vcompact g ..
    | .vext g .. | .vins g .. | .vdotI8 g .. | .vdotF16 g .. | .vdotBf16 g .. | .vdotE4m3 g .. | .spawn g ..
    | .spawnj g .. | .join g .. | .tend g .. | .launch g .. | .send g .. | .dqpush g .. | .dqpop g ..
    | .dqsplit g .. | .dqsteal g .. | .balloc g .. | .bexpect g .. | .barrive g .. | .bwait g .. | .bfree g ..
    | .copy g .. | .put g .. | .putO g .. | .gather g .. | .copyw g .. | .venc g .. | .mma g .. | .mmas g ..
    | .mmal g .. | .mzero g .. | .mld g .. | .mst g .. | .prune g .. | .ctld g .. | .xrnd g .. | .xclr g ..
    | .build g .. | .refit g .. | .rebal g .. | .gpin g .. | .gunpin g .. | .bquery g .. | .pairgo g ..
    | .raygo g .. | .nld g .. | .verdict g .. | .sgen g .. | .sand g .. | .sxnor g .. | .sor g .. | .snot g ..
    | .scnt g .. | .scntp g .. | .scvt g .. | .sregen g .. | .sdelay g .. | .sld g .. | .sst g .. | .smux g ..
    | .preempt g .. | .resume g .. | .kill g .. | .rcbsync g .. | .stackbase g .. | .ptroot g .. | .lastue g .. => g
  | .lui .. | .addpc .. | .bCc .. | .biCc .. | .j .. | .jal .. | .fenceAcq .. | .fenceRel .. | .fenceAr ..
    | .fenceP | .waitc .. | .pause .. | .fmt .. | .immx .. | .hint .. | .trap .. | .syscall .. | .rfe
    | .tlbinv .. | .replay .. | .lease .. | .opmark .. | .idle .. | .reservedEncoding .. | .fateRequeue
    | .fateEnd | .fateKill | .dispatch .. | .pauseEnd .. | .loadCompletion .. | .storeDrain .. | .homeAtomic ..
    | .messageArrival .. | .putArrival .. | .putAck .. | .copyCompletion .. | .vencCompletion ..
    | .barrierWatchdog .. | .runWatchdog .. | .remoteHomeMigration .. | .matrixAccept .. | .matrixComplete ..
    | .builderLock .. | .builderStep .. | .publish .. | .relayCommandTake .. | .pairTest .. | .relaySteal ..
    | .rayStep .. | .relayQueuePlace .. | .traversalEnd .. | .tilesPlaced .. | .preemptDrained ..
    | .drainLimit .. | .regionEnd .. | .quotaWindow | .leaseExpiry .. | .mrd .. | .mwr .. | .fence ..
    | .notifyLaunch .. | .notifyFabricLaunch .. | .fabricLaunchPacket .. | .startBarrier ..
    | .packageUnreachable .. | .linkDown | .linkTrained | .keygen .. | .keyclr .. | .defset .. | .lattol ..
    | .attestation .. | .partitioningChange .. | .governorPeriod .. | .sensorSample .. | .timingError ..
    | .stretchEnd .. | .tileIdle .. | .tileWake .. | .softError .. | .packageReset | .bootStage ..
    | .configurationRecord .. | .coreReset .. | .packageRefused .. => 0

/-- The limits of the other fields. -/
def Instr.fieldsOk : Instr → Bool
  | .cmp _ _ _ _ cc | .cmpi _ _ cc .. | .bCc cc .. | .biCc cc .. | .vcmpInt _ _ _ _ cc .. => cc.toNat < 10
  | .ldIndexed _ _ _ _ size mod => size.toNat < 7 && mod.toNat ≠ 3
  | .stIndexed _ _ _ _ size mod => size.toNat < 7 && size.toNat % 2 = 0 && decide (mod = 0 ∨ 4 ≤ mod.toNat)
  | .fcmp _ _ _ _ cc .. | .vcmpFp _ _ _ _ cc .. => cc.toNat < 6
  | .fcvt _ _ _ src tgt => fcvtOk src tgt
  | .amoAdd _ _ _ _ o | .amoAnd _ _ _ _ o | .amoOr _ _ _ _ o | .amoXor _ _ _ _ o | .amoMin _ _ _ _ o
    | .amoMax _ _ _ _ o | .amoMinz _ _ _ _ o | .amoMaxz _ _ _ _ o | .amoSwap _ _ _ _ o | .cas _ _ _ _ o
    | .xaddF32 _ _ _ o | .xaddF64 _ _ _ o | .xmerge _ _ _ o => o.toNat < 7
  | .waitc l s c m => l.toNat ≤ 32 && s.toNat ≤ 32 && c.toNat ≤ 16 && m.toNat ≤ 16
  | .srd _ _ n => selKnown n.toNat
  | .swr _ _ n => selKnown n.toNat && !ownRow n.toNat
  | .vcvt _ _ _ src tgt => vcvtOk src tgt
  | .vredFp _ _ _ _ op .. => op.toNat < 3
  | .spawn _ _ a | .spawnj _ _ a => a.toNat ≤ 28
  | .send _ sc _ a b rel => a.toNat ≤ 30 && b.toNat ≤ 26 && scOk 0 sc rel
  | .dqpush _ _ a | .ctld _ a => a.toNat ≤ 30
  | .dqpop _ _ d | .dqsplit _ _ d | .dqsteal _ _ d .. => d.toNat ≤ 30
  | .copy _ acq sc _ _ _ rel | .put _ acq sc _ _ _ rel | .putO _ acq sc _ _ _ rel | .gather _ acq sc _ _ _ rel
    | .venc _ acq sc _ _ rel | .build _ acq sc _ _ rel | .refit _ acq sc _ _ rel | .rebal _ acq sc _ _ _ rel
    | .pairgo _ acq sc _ _ rel | .raygo _ acq sc _ _ rel => scOk acq sc rel
  | .copyw _ acq sc .. => scOk acq sc 0
  | .mma _ _ a .. | .mmas _ _ a .. | .mmal _ _ a .. => a.toNat ≤ 29
  | .xrnd _ d _ b .. => decide (b ≠ d ∨ b = 0)
  | .hint kind => 1 ≤ kind.toNat && kind.toNat ≤ 5
  | .tlbinv a b kind => kind.toNat < 3 && decide ((kind = 0 → a = 0) ∧ (kind.toNat < 2 → b = 0))
  | .lease _ _ kind => kind.toNat < 3
  | .opmark _ kind => kind.toNat < 2
  | .notifyLaunch _ _ _ payload | .notifyFabricLaunch _ _ _ payload => payload.length = 48
  | .fabricLaunchPacket _ port id place count packet =>
    port < 16 && id.origin.isSome && 0 < id.gen && id.gen < 2 ^ 32 && place < count && count ≤ 64 && packet.bytes.length = 128
  | .attestation _ nonce => nonce.length = 32
  | .sensorSample _ readings currents => readings.length = 256 && currents.length = 256
  | .add .. | .sub .. | .mul .. | .mulh .. | .mulhz .. | .div .. | .divz .. | .rem .. | .remz .. | .and ..
    | .or .. | .xor .. | .andn .. | .orn .. | .shl .. | .shr .. | .sra .. | .rol .. | .clz .. | .ctz ..
    | .popc .. | .bswap .. | .min .. | .max .. | .minz .. | .maxz .. | .sextB .. | .sextH .. | .sextW ..
    | .zextB .. | .zextH .. | .zextW .. | .sel .. | .addi .. | .andi .. | .ori .. | .xori .. | .shli ..
    | .shri .. | .srai .. | .roli .. | .lui .. | .addpc .. | .ldB .. | .ldBz .. | .ldH .. | .ldHz .. | .ldW ..
    | .ldWz .. | .ldD .. | .stB .. | .stH .. | .stW .. | .stD .. | .j .. | .jal .. | .jalr .. | .pand ..
    | .por .. | .pxor .. | .pnot .. | .pmovPP .. | .pmovPS .. | .pmovSP .. | .pcount .. | .fadd .. | .fsub ..
    | .fmul .. | .fdiv .. | .fsqrt .. | .fma .. | .fmin .. | .fmax .. | .fclass .. | .fenceAcq ..
    | .fenceRel .. | .fenceAr .. | .fenceP | .pause .. | .vld .. | .vst .. | .vlds .. | .vldx .. | .vstx ..
    | .vldVol .. | .vldFg .. | .vaddInt .. | .vsubInt .. | .vmulInt .. | .vmulh .. | .vmulhz .. | .vand ..
    | .vor .. | .vxor .. | .vshl .. | .vshr .. | .vsra .. | .vminInt .. | .vmaxInt .. | .vminz .. | .vmaxz ..
    | .vaddFp .. | .vsubFp .. | .vmulFp .. | .vdiv .. | .vsqrt .. | .vfma .. | .vminFp .. | .vmaxFp ..
    | .vfrsqe .. | .vabs .. | .vsel .. | .vbcast .. | .vperm .. | .vslide .. | .vredInt .. | .vscan ..
    | .vcompact .. | .vext .. | .vins .. | .vdotI8 .. | .vdotF16 .. | .vdotBf16 .. | .vdotE4m3 .. | .join ..
    | .tend .. | .launch .. | .balloc .. | .bexpect .. | .barrive .. | .bwait .. | .bfree .. | .mzero ..
    | .mld .. | .mst .. | .prune .. | .xclr .. | .gpin .. | .gunpin .. | .bquery .. | .nld .. | .verdict ..
    | .sgen .. | .sand .. | .sxnor .. | .sor .. | .snot .. | .scnt .. | .scntp .. | .scvt .. | .sregen ..
    | .sdelay .. | .sld .. | .sst .. | .smux .. | .fmt .. | .immx .. | .trap .. | .syscall .. | .rfe
    | .replay .. | .idle .. | .reservedEncoding .. | .preempt .. | .resume .. | .kill .. | .rcbsync ..
    | .fateRequeue | .fateEnd | .fateKill | .stackbase .. | .ptroot .. | .lastue .. | .dispatch ..
    | .pauseEnd .. | .loadCompletion .. | .storeDrain .. | .homeAtomic .. | .messageArrival .. | .putArrival ..
    | .putAck .. | .copyCompletion .. | .vencCompletion .. | .barrierWatchdog .. | .runWatchdog ..
    | .remoteHomeMigration .. | .matrixAccept .. | .matrixComplete .. | .builderLock .. | .builderStep ..
    | .publish .. | .relayCommandTake .. | .pairTest .. | .relaySteal .. | .rayStep .. | .relayQueuePlace ..
    | .traversalEnd .. | .tilesPlaced .. | .preemptDrained .. | .drainLimit .. | .regionEnd .. | .quotaWindow
    | .leaseExpiry .. | .mrd .. | .mwr .. | .fence .. | .startBarrier .. | .packageUnreachable .. | .linkDown
    | .linkTrained | .keygen .. | .keyclr .. | .defset .. | .lattol .. | .partitioningChange ..
    | .governorPeriod .. | .timingError .. | .stretchEnd .. | .tileIdle .. | .tileWake .. | .softError ..
    | .packageReset | .bootStage .. | .configurationRecord .. | .coreReset .. | .packageRefused .. => true

/-- An instruction the formats can hold and no rule reserves: guard 0b1000 is reserved (05 R99), and the fields keep
their limits. -/
def Instr.wf (i : Instr) : Bool := i.guard != 8 && i.fieldsOk

end Sys2Proof
end

