-- ==== Sys2Proof/Decode.lean ====
section
/-! DEFINITION. Decoding an instruction word, rejecting every reserved encoding by name, and the encoder: both written
from the formats and tables of 05 R82-R98. -/

namespace Sys2Proof

/-- Why a word is no instruction (05 R108). All of them take the illegal-instruction trap. -/
inductive Reject where
  | major                    -- a major that assigns nothing
  | code                     -- a reserved fn, sub, OP, modifier, ordering or kind
  | field                    -- a reserved field or bit that is not 0
  | guard                    -- guard 0b1000
  | register                 -- a register number outside its kind or limit
  | condition                -- a reserved condition code
  | format                   -- a reserved pair of element formats
  | limit                    -- a limit of `waitc` out of range
  | selector                 -- a selector assigned in no chapter
  | scope                    -- SCOPE without ACQ or REL
  | short                    -- fewer than four bytes
deriving DecidableEq, Repr

/-! ### The formats (05 R82), from the most significant end -/

def wA (op : BitVec 6) (g : Guard) (d a b : BitVec 5) (fn : BitVec 7) : BitVec 32 := op ++ g ++ d ++ a ++ b ++ fn
def wI (op : BitVec 6) (g : Guard) (d a : BitVec 5) (imm : BitVec 12) : BitVec 32 := op ++ g ++ d ++ a ++ imm
def wIC (op : BitVec 6) (g : Guard) (p : BitVec 3) (cc : BitVec 4) (a : BitVec 5) (imm : BitVec 10) : BitVec 32 :=
  op ++ g ++ p ++ cc ++ a ++ imm
def wBR (op : BitVec 6) (cc : BitVec 4) (a b : BitVec 5) (off : BitVec 12) : BitVec 32 := op ++ cc ++ a ++ b ++ off
def wJ (op : BitVec 6) (d : BitVec 5) (imm : BitVec 21) : BitVec 32 := op ++ d ++ imm
def wE (op : BitVec 6) (g : Guard) (o : BitVec 3) (acq : BitVec 1) (sc : BitVec 2) (t a b : BitVec 5)
    (rel : BitVec 1) : BitVec 32 := op ++ g ++ o ++ acq ++ sc ++ t ++ a ++ b ++ rel
def wP (op : BitVec 6) (sub : BitVec 4) (payload : BitVec 22) : BitVec 32 := op ++ sub ++ payload
def wSYS (sub : BitVec 6) (a b : BitVec 5) (imm : BitVec 10) : BitVec 32 := 0x3E#6 ++ sub ++ a ++ b ++ imm

/-- A predicate, stream or accumulator number in a 5-bit field (05 R84). -/
def asP (p : PReg) : BitVec 5 := 0#2 ++ p
def asK (k : KReg) : BitVec 5 := 0#1 ++ k
def asA (r : AReg) : BitVec 5 := 0#3 ++ r

/-! ### The fields of a word -/

def fOp (w : BitVec 32) : BitVec 6 := w.extractLsb' 26 6
def fG (w : BitVec 32) : BitVec 4 := w.extractLsb' 22 4
def fD (w : BitVec 32) : BitVec 5 := w.extractLsb' 17 5
def fA (w : BitVec 32) : BitVec 5 := w.extractLsb' 12 5
def fB (w : BitVec 32) : BitVec 5 := w.extractLsb' 7 5
def fFn (w : BitVec 32) : BitVec 7 := w.extractLsb' 0 7
def fImm12 (w : BitVec 32) : BitVec 12 := w.extractLsb' 0 12
def fImm10 (w : BitVec 32) : BitVec 10 := w.extractLsb' 0 10
def fImm21 (w : BitVec 32) : BitVec 21 := w.extractLsb' 0 21
def fPd (w : BitVec 32) : BitVec 3 := w.extractLsb' 19 3
def fCond (w : BitVec 32) : BitVec 4 := w.extractLsb' 15 4
def fA10 (w : BitVec 32) : BitVec 5 := w.extractLsb' 10 5
def fTop (w : BitVec 32) : BitVec 5 := w.extractLsb' 21 5
def fEo (w : BitVec 32) : BitVec 3 := w.extractLsb' 19 3
def fEacq (w : BitVec 32) : BitVec 1 := w.extractLsb' 18 1
def fEsc (w : BitVec 32) : BitVec 2 := w.extractLsb' 16 2
def fEt (w : BitVec 32) : BitVec 5 := w.extractLsb' 11 5
def fEa (w : BitVec 32) : BitVec 5 := w.extractLsb' 6 5
def fEb (w : BitVec 32) : BitVec 5 := w.extractLsb' 1 5
def fErel (w : BitVec 32) : BitVec 1 := w.extractLsb' 0 1
def fPay (w : BitVec 32) : BitVec 22 := w.extractLsb' 0 22
def fSub6 (w : BitVec 32) : BitVec 6 := w.extractLsb' 20 6
def fSa (w : BitVec 32) : BitVec 5 := w.extractLsb' 15 5

/-- The register number of a 5-bit field that names a predicate, stream or accumulator, and whether its reserved bits
are 0 (05 R84). -/
def toP (x : BitVec 5) : PReg := x.extractLsb' 0 3
def toK (x : BitVec 5) : KReg := x.extractLsb' 0 4
def toA (x : BitVec 5) : AReg := x.extractLsb' 0 2
def okP (x : BitVec 5) : Bool := x.extractLsb' 3 2 == 0
def okK (x : BitVec 5) : Bool := x.extractLsb' 4 1 == 0
def okA (x : BitVec 5) : Bool := x.extractLsb' 2 3 == 0

/-- The instruction where the condition holds. -/
def need (c : Bool) (r : Reject) (i : Except Reject Instr) : Except Reject Instr := if c then i else .error r

/-! ### The majors -/

/-- Major 0x01 (05 R88). -/
def decAlu (g : Guard) (d a b : BitVec 5) (fn : BitVec 7) : Except Reject Instr :=
  if fn.extractLsb' 4 3 = 0b100 then
    need (okP d) .register <| need (decide ((fn.extractLsb' 0 4).toNat < 10)) .condition <|
      .ok (.cmp g (toP d) a b (fn.extractLsb' 0 4))
  else if fn.extractLsb' 3 4 = 0b0111 then .ok (.sel g d a b (fn.extractLsb' 0 3))
  else match fn.toNat with
    | 0x00 => .ok (.add g d a b)
    | 0x01 => .ok (.sub g d a b)
    | 0x02 => .ok (.mul g d a b)
    | 0x03 => .ok (.mulh g d a b)
    | 0x04 => .ok (.mulhz g d a b)
    | 0x05 => .ok (.div g d a b)
    | 0x06 => .ok (.divz g d a b)
    | 0x07 => .ok (.rem g d a b)
    | 0x08 => .ok (.remz g d a b)
    | 0x10 => .ok (.and g d a b)
    | 0x11 => .ok (.or g d a b)
    | 0x12 => .ok (.xor g d a b)
    | 0x13 => .ok (.andn g d a b)
    | 0x14 => .ok (.orn g d a b)
    | 0x18 => .ok (.shl g d a b)
    | 0x19 => .ok (.shr g d a b)
    | 0x1A => .ok (.sra g d a b)
    | 0x1B => .ok (.rol g d a b)
    | 0x20 => need (b == 0) .field (.ok (.clz g d a))
    | 0x21 => need (b == 0) .field (.ok (.ctz g d a))
    | 0x22 => need (b == 0) .field (.ok (.popc g d a))
    | 0x23 => need (b == 0) .field (.ok (.bswap g d a))
    | 0x28 => .ok (.min g d a b)
    | 0x29 => .ok (.max g d a b)
    | 0x2A => .ok (.minz g d a b)
    | 0x2B => .ok (.maxz g d a b)
    | 0x30 => need (b == 0) .field (.ok (.sextB g d a))
    | 0x31 => need (b == 0) .field (.ok (.sextH g d a))
    | 0x32 => need (b == 0) .field (.ok (.sextW g d a))
    | 0x34 => need (b == 0) .field (.ok (.zextB g d a))
    | 0x35 => need (b == 0) .field (.ok (.zextH g d a))
    | 0x36 => need (b == 0) .field (.ok (.zextW g d a))
    | _ => .error .code

/-- Major 0x06 (05 R89): imm [11:8] reserved, [7:6] the operation, [5:0] the amount. -/
def decShift (g : Guard) (d a : BitVec 5) (imm : BitVec 12) : Except Reject Instr :=
  need (imm.extractLsb' 8 4 == 0) .field <|
    match (imm.extractLsb' 6 2).toNat with
    | 0 => .ok (.shli g d a (imm.extractLsb' 0 6))
    | 1 => .ok (.shri g d a (imm.extractLsb' 0 6))
    | 2 => .ok (.srai g d a (imm.extractLsb' 0 6))
    | _ => .ok (.roli g d a (imm.extractLsb' 0 6))

/-- Major 0x15 (05 R91). -/
def decIndexed (g : Guard) (d a b : BitVec 5) (fn : BitVec 7) : Except Reject Instr :=
  let size := fn.extractLsb' 3 3
  let m := fn.extractLsb' 0 3
  if fn.extractLsb' 6 1 = 0 then
    need (decide (size.toNat < 7 ∧ m.toNat ≠ 3)) .code (.ok (.ldIndexed g d a b size m))
  else
    need (decide (size.toNat < 7 ∧ size.toNat % 2 = 0 ∧ (m = 0 ∨ 4 ≤ m.toNat))) .code
      (.ok (.stIndexed g d a b size m))

/-- Major 0x1B (05 R90). -/
def decPred (g : Guard) (d a b : BitVec 5) (fn : BitVec 7) : Except Reject Instr :=
  match fn.toNat with
  | 0 => need (okP d && okP a && okP b) .register (.ok (.pand g (toP d) (toP a) (toP b)))
  | 1 => need (okP d && okP a && okP b) .register (.ok (.por g (toP d) (toP a) (toP b)))
  | 2 => need (okP d && okP a && okP b) .register (.ok (.pxor g (toP d) (toP a) (toP b)))
  | 3 => need (okP d && okP a) .register <| need (b == 0) .field (.ok (.pnot g (toP d) (toP a)))
  | 4 => need (okP d && okP a) .register <| need (b == 0) .field (.ok (.pmovPP g (toP d) (toP a)))
  | 5 => need (okP d) .register <| need (b == 0) .field (.ok (.pmovPS g (toP d) a))
  | 6 => need (okP a) .register <| need (b == 0) .field (.ok (.pmovSP g d (toP a)))
  | 7 => need (okP a) .register <| need (b == 0) .field (.ok (.pcount g d (toP a)))
  | _ => .error .code

/-- Major 0x1C (05 R90). -/
def decFp (g : Guard) (d a b : BitVec 5) (fn : BitVec 7) : Except Reject Instr :=
  let q := fn.extractLsb' 0 1
  match (fn.extractLsb' 4 3).toNat with
  | 2 =>
    need (okP d) .register <| need (decide ((fn.extractLsb' 1 3).toNat < 6)) .condition <|
      .ok (.fcmp g (toP d) a b (fn.extractLsb' 1 3) q)
  | 4 =>
    need (b.extractLsb' 4 1 == 0) .field <| need (fcvtOk (b.extractLsb' 0 4) (fn.extractLsb' 0 4)) .format <|
      .ok (.fcvt g d a (b.extractLsb' 0 4) (fn.extractLsb' 0 4))
  | _ =>
    match (fn.extractLsb' 1 6).toNat with
    | 0 => .ok (.fadd g d a b q)
    | 1 => .ok (.fsub g d a b q)
    | 2 => .ok (.fmul g d a b q)
    | 3 => .ok (.fdiv g d a b q)
    | 4 => need (b == 0) .field (.ok (.fsqrt g d a q))
    | 5 => .ok (.fma g d a b q)
    | 6 => .ok (.fmin g d a b q)
    | 7 => .ok (.fmax g d a b q)
    | 8 => need (b == 0) .field (.ok (.fclass g d a q))
    | _ => .error .code

/-- Major 0x1D (05 R91): the operation and the ordering, whose code 7 is reserved. -/
def decAtomic (g : Guard) (d a b : BitVec 5) (fn : BitVec 7) : Except Reject Instr :=
  let o := fn.extractLsb' 0 3
  need (decide (o.toNat < 7)) .code <|
    match (fn.extractLsb' 3 4).toNat with
    | 0 => .ok (.amoAdd g d a b o)
    | 1 => .ok (.amoAnd g d a b o)
    | 2 => .ok (.amoOr g d a b o)
    | 3 => .ok (.amoXor g d a b o)
    | 4 => .ok (.amoMin g d a b o)
    | 5 => .ok (.amoMax g d a b o)
    | 6 => .ok (.amoMinz g d a b o)
    | 7 => .ok (.amoMaxz g d a b o)
    | 8 => .ok (.amoSwap g d a b o)
    | 9 => .ok (.cas g d a b o)
    | 10 => need (d == 0) .field (.ok (.xaddF32 g a b o))
    | 11 => need (d == 0) .field (.ok (.xaddF64 g a b o))
    | 12 => need (d == 0) .field (.ok (.xmerge g a b o))
    | _ => .error .code

/-- Major 0x1E (05 R92). -/
def decFence (sub : BitVec 4) (p : BitVec 22) : Except Reject Instr :=
  match sub.toNat with
  | 0 =>
    need (p.extractLsb' 4 18 == 0) .field <|
      match (p.extractLsb' 2 2).toNat with
      | 1 => .ok (.fenceAcq (p.extractLsb' 0 2))
      | 2 => .ok (.fenceRel (p.extractLsb' 0 2))
      | 3 => .ok (.fenceAr (p.extractLsb' 0 2))
      | _ => .error .code
  | 1 => need (p == 0) .field (.ok .fenceP)
  | 2 =>
    let l := p.extractLsb' 16 6
    let s := p.extractLsb' 10 6
    let c := p.extractLsb' 5 5
    let m := p.extractLsb' 0 5
    need (decide (l.toNat ≤ 32 ∧ s.toNat ≤ 32 ∧ c.toNat ≤ 16 ∧ m.toNat ≤ 16)) .limit (.ok (.waitc l s c m))
  | 3 => need (p.extractLsb' 17 5 == 0 && p.extractLsb' 0 12 == 0) .field (.ok (.pause (p.extractLsb' 12 5)))
  | _ => .error .code

/-- Major 0x1F (05 R92); `swr` to a selector with a row of its own is that row's instruction. -/
def decSpecial (g : Guard) (d a : BitVec 5) (imm : BitVec 12) : Except Reject Instr :=
  let n := imm.extractLsb' 0 11
  if imm.extractLsb' 11 1 = 0 then
    need (a == 0) .field <| need (selKnown n.toNat) .selector (.ok (.srd g d n))
  else
    need (d == 0) .field <|
      match n.toNat with
      | 0x410 => .ok (.stackbase g a)
      | 0x420 => .ok (.preempt g a)
      | 0x421 => .ok (.resume g a)
      | 0x422 => .ok (.kill g a)
      | 0x423 => .ok (.rcbsync g a)
      | 0x430 => .ok (.ptroot g a)
      | 0x442 => .ok (.lastue g a)
      | _ => need (selKnown n.toNat) .selector (.ok (.swr g a n))

/-- Major 0x20 (05 R93). -/
def decVm (g : Guard) (d a : BitVec 5) (imm : BitVec 12) : Except Reject Instr :=
  let k := imm.extractLsb' 0 9
  let x := imm.extractLsb' 4 5
  let wd := imm.extractLsb' 2 2
  let z := imm.extractLsb' 0 2
  match (imm.extractLsb' 9 3).toNat with
  | 0 => .ok (.vld g d a k)
  | 1 => .ok (.vst g d a k)
  | 2 => need (z == 0) .field (.ok (.vlds g d a x wd))
  | 3 => need (z == 0) .field (.ok (.vldx g d a x wd))
  | 4 => need (z == 0) .field (.ok (.vstx g d a x wd))
  | 5 => .ok (.vldVol g d a k)
  | 6 => .ok (.vldFg g d a k)
  | _ => .error .code

/-- Major 0x21 (05 R94). -/
def decVint (g : Guard) (d a b : BitVec 5) (fn : BitVec 7) : Except Reject Instr :=
  let wd := fn.extractLsb' 0 2
  if fn.extractLsb' 6 1 = 1 then
    need (okP d) .register <| need (decide ((fn.extractLsb' 2 4).toNat < 10)) .condition <|
      .ok (.vcmpInt g (toP d) a b (fn.extractLsb' 2 4) wd)
  else match (fn.extractLsb' 2 5).toNat with
    | 0 => .ok (.vaddInt g d a b wd)
    | 1 => .ok (.vsubInt g d a b wd)
    | 2 => .ok (.vmulInt g d a b wd)
    | 3 => .ok (.vmulh g d a b wd)
    | 4 => .ok (.vmulhz g d a b wd)
    | 5 => .ok (.vand g d a b wd)
    | 6 => .ok (.vor g d a b wd)
    | 7 => .ok (.vxor g d a b wd)
    | 8 => .ok (.vshl g d a b wd)
    | 9 => .ok (.vshr g d a b wd)
    | 10 => .ok (.vsra g d a b wd)
    | 11 => .ok (.vminInt g d a b wd)
    | 12 => .ok (.vmaxInt g d a b wd)
    | 13 => .ok (.vminz g d a b wd)
    | 14 => .ok (.vmaxz g d a b wd)
    | _ => .error .code

/-- Major 0x22 (05 R94): fn = 0x50 + 4 × cc + t is a compare, so fn [6:2] = 0x14 + cc. -/
def decVfp (g : Guard) (d a b : BitVec 5) (fn : BitVec 7) : Except Reject Instr :=
  let t := fn.extractLsb' 0 2
  if fn.extractLsb' 4 3 = 0b111 then
    need (b.extractLsb' 4 1 == 0) .field <| need (vcvtOk (b.extractLsb' 0 4) (fn.extractLsb' 0 4)) .format <|
      .ok (.vcvt g d a (b.extractLsb' 0 4) (fn.extractLsb' 0 4))
  else match (fn.extractLsb' 2 5).toNat with
    | 0x00 => .ok (.vaddFp g d a b t)
    | 0x02 => .ok (.vsubFp g d a b t)
    | 0x04 => .ok (.vmulFp g d a b t)
    | 0x06 => .ok (.vdiv g d a b t)
    | 0x08 => need (b == 0) .field (.ok (.vsqrt g d a t))
    | 0x0A => .ok (.vfma g d a b t)
    | 0x0C => .ok (.vminFp g d a b t)
    | 0x0E => .ok (.vmaxFp g d a b t)
    | 0x10 => need (b == 0) .field (.ok (.vfrsqe g d a t))
    | 0x12 => need (b == 0) .field (.ok (.vabs g d a t))
    | 0x14 => need (okP d) .register (.ok (.vcmpFp g (toP d) a b 0 t))
    | 0x15 => need (okP d) .register (.ok (.vcmpFp g (toP d) a b 1 t))
    | 0x16 => need (okP d) .register (.ok (.vcmpFp g (toP d) a b 2 t))
    | 0x17 => need (okP d) .register (.ok (.vcmpFp g (toP d) a b 3 t))
    | 0x18 => need (okP d) .register (.ok (.vcmpFp g (toP d) a b 4 t))
    | 0x19 => need (okP d) .register (.ok (.vcmpFp g (toP d) a b 5 t))
    | _ => .error .code

/-- Major 0x23 (05 R95). -/
def decVmisc (g : Guard) (d a b : BitVec 5) (fn : BitVec 7) : Except Reject Instr :=
  let wd := fn.extractLsb' 0 2
  let n := toP b
  if fn.extractLsb' 5 2 = 0b01 then
    need (okP b) .register (.ok (.vredInt g d a n (fn.extractLsb' 2 3) wd))
  else if fn.extractLsb' 4 3 = 0b100 then
    need (okP b) .register <|
      if (fn.extractLsb' 2 2).toNat < 3 then .ok (.vredFp g d a n (fn.extractLsb' 2 2) wd)
      else .ok (.vscan g d a n wd)
  else if fn.extractLsb' 3 4 = 0 then .ok (.vsel g d a b (fn.extractLsb' 0 3))
  else match (fn.extractLsb' 2 5).toNat with
    | 0x02 => need (b == 0) .field (.ok (.vbcast g d a wd))
    | 0x03 => .ok (.vperm g d a b wd)
    | 0x04 => .ok (.vslide g d a b wd)
    | 0x14 => need (okP b) .register (.ok (.vcompact g d a n wd))
    | 0x15 => .ok (.vext g d a b wd)
    | 0x16 => .ok (.vins g d a b wd)
    | 0x17 =>
      match wd.toNat with
      | 0 => .ok (.vdotI8 g d a b)
      | 1 => .ok (.vdotF16 g d a b)
      | 2 => .ok (.vdotBf16 g d a b)
      | _ => .ok (.vdotE4m3 g d a b)
    | _ => .error .code

/-- Major 0x29 (05 R97). -/
def decMatrix (g : Guard) (d a b : BitVec 5) (fn : BitVec 7) : Except Reject Instr :=
  match fn.toNat with
  | 0 => need (okA d && decide (a.toNat ≤ 29)) .register (.ok (.mma g (toA d) a b))
  | 1 => need (okA d && decide (a.toNat ≤ 29)) .register (.ok (.mmas g (toA d) a b))
  | 2 => need (okA d && decide (a.toNat ≤ 29)) .register (.ok (.mmal g (toA d) a b))
  | 3 => need (okA d) .register <| need (a == 0 && b == 0) .field (.ok (.mzero g (toA d)))
  | 4 => need (okA d) .register <| need (b == 0) .field (.ok (.mld g (toA d) a))
  | 5 => need (okA d) .register <| need (b == 0) .field (.ok (.mst g (toA d) a))
  | 6 => need (b == 0) .field (.ok (.prune g d a))
  | 7 => need (decide (a.toNat ≤ 30)) .register <| need (d == 0 && b == 0) .field (.ok (.ctld g a))
  | _ => .error .code

/-- Major 0x2A (05 R97, 06 R128). -/
def decExact (g : Guard) (d a b : BitVec 5) (fn : BitVec 7) : Except Reject Instr :=
  if fn.extractLsb' 3 4 = 0 then
    need (decide (b ≠ d ∨ b = 0)) .register (.ok (.xrnd g d a b (fn.extractLsb' 1 2) (fn.extractLsb' 0 1)))
  else need (fn == 8) .code <| need (d == 0 && b == 0) .field (.ok (.xclr g a))

/-- Major 0x2D (05 R97). -/
def decPacer (g : Guard) (d a b : BitVec 5) (fn : BitVec 7) : Except Reject Instr :=
  if fn.extractLsb' 4 3 = 1 then
    need (okK d && okK a && okK b) .register (.ok (.smux g (toK d) (toK a) (toK b) (fn.extractLsb' 0 4)))
  else match fn.toNat with
    | 0 => need (okK d) .register (.ok (.sgen g (toK d) a b))
    | 1 => need (okK d && okK a && okK b) .register (.ok (.sand g (toK d) (toK a) (toK b)))
    | 2 => need (okK d && okK a && okK b) .register (.ok (.sxnor g (toK d) (toK a) (toK b)))
    | 3 => need (okK d && okK a && okK b) .register (.ok (.sor g (toK d) (toK a) (toK b)))
    | 4 => need (okK d && okK a) .register <| need (b == 0) .field (.ok (.snot g (toK d) (toK a)))
    | 5 => need (okK a) .register <| need (b == 0) .field (.ok (.scnt g d (toK a)))
    | 6 => need (okK a) .register (.ok (.scntp g d (toK a) b))
    | 7 => .ok (.scvt g d a b)
    | 8 => need (okK d && okK a) .register (.ok (.sregen g (toK d) (toK a) b))
    | 9 => need (okK d && okK a) .register (.ok (.sdelay g (toK d) (toK a) b))
    | 10 => need (okK d) .register <| need (b == 0) .field (.ok (.sld g (toK d) a))
    | 11 => need (okK d) .register <| need (b == 0) .field (.ok (.sst g (toK d) a))
    | _ => .error .code

/-- Major 0x24 (05 R96, 08 R156-R159). -/
def decTask (g : Guard) (o : BitVec 3) (acq : BitVec 1) (sc : BitVec 2) (t a b : BitVec 5) (rel : BitVec 1) :
    Except Reject Instr :=
  need (acq == 0 && sc == 0 && rel == 0 && b == 0) .field <|
    match o.toNat with
    | 0 => need (okP t && decide (a.toNat ≤ 28)) .register (.ok (.spawn g (toP t) a))
    | 1 => need (okP t && decide (a.toNat ≤ 28)) .register (.ok (.spawnj g (toP t) a))
    | 2 => need (t == 0) .field (.ok (.join g a))
    | 3 => need (t == 0 && a == 0) .field (.ok (.tend g))
    | 4 => .ok (.launch g t a)
    | _ => .error .code

/-- Major 0x25 (05 R96, 08 R160). -/
def decMessage (g : Guard) (o : BitVec 3) (acq : BitVec 1) (sc : BitVec 2) (t a b : BitVec 5) (rel : BitVec 1) :
    Except Reject Instr :=
  need (o == 0) .code <| need (acq == 0) .field <| need (scOk 0 sc rel) .scope <|
    need (decide (a.toNat ≤ 30 ∧ b.toNat ≤ 26)) .register (.ok (.send g sc t a b rel))

/-- Major 0x26 (05 R96, 08 R162). -/
def decDeque (g : Guard) (o : BitVec 3) (acq : BitVec 1) (sc : BitVec 2) (t a b : BitVec 5) (rel : BitVec 1) :
    Except Reject Instr :=
  need (acq == 0 && sc == 0 && rel == 0) .field <| need (okP t && decide (a.toNat ≤ 30)) .register <|
    match o.toNat with
    | 0 => need (b == 0) .field (.ok (.dqpush g (toP t) a))
    | 1 => need (b == 0) .field (.ok (.dqpop g (toP t) a))
    | 2 => need (b == 0) .field (.ok (.dqsplit g (toP t) a))
    | 3 => .ok (.dqsteal g (toP t) a b)
    | _ => .error .code

/-- Major 0x27 (05 R96, 08 R164-R168); SCOPE is the barrier's on `balloc`. -/
def decBarrier (g : Guard) (o : BitVec 3) (acq : BitVec 1) (sc : BitVec 2) (t a b : BitVec 5) (rel : BitVec 1) :
    Except Reject Instr :=
  need (acq == 0 && rel == 0 && (sc == 0 || o == 0)) .field <|
    match o.toNat with
    | 0 => need (okP a) .register (.ok (.balloc g sc t (toP a) b))
    | 1 => need (t == 0) .field (.ok (.bexpect g a b))
    | 2 => need (b == 0) .field (.ok (.barrive g t a))
    | 3 => need (okP t) .register (.ok (.bwait g (toP t) a b))
    | 4 => need (t == 0 && b == 0) .field (.ok (.bfree g a))
    | _ => .error .code

/-- Major 0x28 (05 R96, 08 R175-R177). -/
def decCopy (g : Guard) (o : BitVec 3) (acq : BitVec 1) (sc : BitVec 2) (t a b : BitVec 5) (rel : BitVec 1) :
    Except Reject Instr :=
  need (scOk acq sc rel) .scope <|
    match o.toNat with
    | 0 => .ok (.copy g acq sc t a b rel)
    | 1 => .ok (.put g acq sc t a b rel)
    | 2 => .ok (.putO g acq sc t a b rel)
    | 3 => .ok (.gather g acq sc t a b rel)
    | 4 => need (rel == 0) .field (.ok (.copyw g acq sc t a b))
    | 5 => need (b == 0) .field (.ok (.venc g acq sc t a rel))
    | _ => .error .code

/-- Major 0x2B (05 R96, 10 R210-R215). -/
def decTree (g : Guard) (o : BitVec 3) (acq : BitVec 1) (sc : BitVec 2) (t a b : BitVec 5) (rel : BitVec 1) :
    Except Reject Instr :=
  need (scOk acq sc rel) .scope <|
    match o.toNat with
    | 0 => need (b == 0) .field (.ok (.build g acq sc t a rel))
    | 1 => need (b == 0) .field (.ok (.refit g acq sc t a rel))
    | 2 => .ok (.rebal g acq sc t a b rel)
    | 3 => need (acq == 0 && sc == 0 && rel == 0 && b == 0) .field (.ok (.gpin g t a))
    | 4 => need (acq == 0 && sc == 0 && rel == 0) .field (.ok (.gunpin g t a b))
    | 5 => need (acq == 0 && sc == 0 && rel == 0) .field (.ok (.bquery g t a b))
    | _ => .error .code

/-- Major 0x2C (05 R96, 11 R233-R236). -/
def decRelay (g : Guard) (o : BitVec 3) (acq : BitVec 1) (sc : BitVec 2) (t a b : BitVec 5) (rel : BitVec 1) :
    Except Reject Instr :=
  need (scOk acq sc rel) .scope <|
    match o.toNat with
    | 0 => need (b == 0) .field (.ok (.pairgo g acq sc t a rel))
    | 1 => need (b == 0) .field (.ok (.raygo g acq sc t a rel))
    | 2 => need (acq == 0 && sc == 0 && rel == 0) .field (.ok (.nld g t a b))
    | 3 => need (acq == 0 && sc == 0 && rel == 0 && t == 0) .field (.ok (.verdict g a b))
    | _ => .error .code

/-- Major 0x3D (05 R103-R105). -/
def decPrefix (sub : BitVec 4) (p : BitVec 22) : Except Reject Instr :=
  match sub.toNat with
  | 0 =>
    need (p.extractLsb' 0 4 == 0) .field <|
      .ok (.fmt (p.extractLsb' 20 2) (p.extractLsb' 16 4) (p.extractLsb' 12 4) (p.extractLsb' 8 4)
        (p.extractLsb' 5 3) (p.extractLsb' 4 1))
  | 1 => .ok (.immx p)
  | 2 =>
    let kind := p.extractLsb' 0 4
    need (p.extractLsb' 4 18 == 0) .field <| need (decide (1 ≤ kind.toNat ∧ kind.toNat ≤ 5)) .code (.ok (.hint kind))
  | _ => .error .code

/-- Major 0x3E (05 R98, 19 R280, R288, 20 R297, R304). The a field of a `lease` of kind 1 or 2, which does not read it, may hold
any register (DESIGN CHOICE, log 60). -/
def decSystem (sub : BitVec 6) (a b : BitVec 5) (imm : BitVec 10) : Except Reject Instr :=
  match sub.toNat with
  | 0x00 => need (a == 0 && b == 0) .field (.ok (.trap imm))
  | 0x01 => need (a == 0 && b == 0) .field (.ok (.syscall imm))
  | 0x10 => need (a == 0 && b == 0 && imm == 0) .field (.ok .rfe)
  | 0x11 =>
    let kind := imm.extractLsb' 0 2
    need (imm.extractLsb' 2 8 == 0) .field <| need (decide (kind.toNat < 3)) .code <|
      need (decide ((kind = 0 → a = 0) ∧ (kind.toNat < 2 → b = 0))) .field (.ok (.tlbinv a b kind))
  | 0x12 => need (b == 0 && imm == 0) .field (.ok (.replay a))
  | 0x13 => need (decide (imm.toNat < 3)) .code (.ok (.lease a b imm))
  | 0x14 => need (b == 0) .field <| need (decide (imm.toNat < 2)) .code (.ok (.opmark a imm))
  | 0x15 => need (b == 0 && imm == 0) .field (.ok (.idle a))
  | _ => .error .code

/-- Formats A, I, M and VM after their guard. -/
def decGuarded (op : BitVec 6) (g : Guard) (d a b : BitVec 5) (fn : BitVec 7) (imm : BitVec 12) :
    Except Reject Instr :=
  match op.toNat with
  | 0x01 => decAlu g d a b fn
  | 0x02 => .ok (.addi g d a imm)
  | 0x03 => .ok (.andi g d a imm)
  | 0x04 => .ok (.ori g d a imm)
  | 0x05 => .ok (.xori g d a imm)
  | 0x06 => decShift g d a imm
  | 0x0A => .ok (.ldB g d a imm)
  | 0x0B => .ok (.ldBz g d a imm)
  | 0x0C => .ok (.ldH g d a imm)
  | 0x0D => .ok (.ldHz g d a imm)
  | 0x0E => .ok (.ldW g d a imm)
  | 0x0F => .ok (.ldWz g d a imm)
  | 0x10 => .ok (.ldD g d a imm)
  | 0x11 => .ok (.stB g d a imm)
  | 0x12 => .ok (.stH g d a imm)
  | 0x13 => .ok (.stW g d a imm)
  | 0x14 => .ok (.stD g d a imm)
  | 0x15 => decIndexed g d a b fn
  | 0x1A => .ok (.jalr g d a imm)
  | 0x1B => decPred g d a b fn
  | 0x1C => decFp g d a b fn
  | 0x1D => decAtomic g d a b fn
  | 0x1F => decSpecial g d a imm
  | 0x20 => decVm g d a imm
  | 0x21 => decVint g d a b fn
  | 0x22 => decVfp g d a b fn
  | 0x23 => decVmisc g d a b fn
  | 0x29 => decMatrix g d a b fn
  | 0x2A => decExact g d a b fn
  | 0x2D => decPacer g d a b fn
  | _ => .error .major

/-- Format E after its guard. -/
def decEngine (op : BitVec 6) (g : Guard) (o : BitVec 3) (acq : BitVec 1) (sc : BitVec 2) (t a b : BitVec 5)
    (rel : BitVec 1) : Except Reject Instr :=
  match op.toNat with
  | 0x24 => decTask g o acq sc t a b rel
  | 0x25 => decMessage g o acq sc t a b rel
  | 0x26 => decDeque g o acq sc t a b rel
  | 0x27 => decBarrier g o acq sc t a b rel
  | 0x28 => decCopy g o acq sc t a b rel
  | 0x2B => decTree g o acq sc t a b rel
  | _ => decRelay g o acq sc t a b rel

/-- The format a major chooses (05 R82). -/
inductive Format where
  | guarded | ic | br | bi | jump | engine | fenceP | prefixP | sys | none
deriving DecidableEq, Repr

/-- The format of a major (05 R82, R85). -/
def formatOf (op : BitVec 6) : Format :=
  match op.toNat with
  | 0x00 => .none
  | 0x07 => .ic
  | 0x08 | 0x09 | 0x18 | 0x19 => .jump
  | 0x16 => .br
  | 0x17 => .bi
  | 0x1E => .fenceP
  | 0x24 | 0x25 | 0x26 | 0x27 | 0x28 | 0x2B | 0x2C => .engine
  | 0x3D => .prefixP
  | 0x3E => .sys
  | 0x3F => .none
  | n => if 0x2E ≤ n then .none else .guarded

/-- The instruction a word holds (05 R82-R98), or why it holds none (R108). -/
def decode (w : BitVec 32) : Except Reject Instr :=
  match formatOf (fOp w) with
  | .none => .error .major
  | .guarded =>
    need (fG w != 8) .guard (decGuarded (fOp w) (fG w) (fD w) (fA w) (fB w) (fFn w) (fImm12 w))
  | .ic =>
    need (fG w != 8) .guard <| need (decide ((fCond w).toNat < 10)) .condition <|
      .ok (.cmpi (fG w) (fPd w) (fCond w) (fA10 w) (fImm10 w))
  | .br => need (decide ((fG w).toNat < 10)) .condition (.ok (.bCc (fG w) (fD w) (fA w) (fImm12 w)))
  | .bi => need (decide ((fG w).toNat < 10)) .condition (.ok (.biCc (fG w) (fD w) (fA w) (fImm12 w)))
  | .jump =>
    match (fOp w).toNat with
    | 0x08 => .ok (.lui (fTop w) (fImm21 w))
    | 0x09 => .ok (.addpc (fTop w) (fImm21 w))
    | 0x18 => need (fTop w == 0) .field (.ok (.j (fImm21 w)))
    | _ => .ok (.jal (fTop w) (fImm21 w))
  | .engine =>
    need (fG w != 8) .guard (decEngine (fOp w) (fG w) (fEo w) (fEacq w) (fEsc w) (fEt w) (fEa w) (fEb w) (fErel w))
  | .fenceP => decFence (fG w) (fPay w)
  | .prefixP => decPrefix (fG w) (fPay w)
  | .sys => decSystem (fSub6 w) (fSa w) (fA10 w) (fImm10 w)

/-- Decoding from bytes: one little-endian word (05, 00 R3) and the rest. -/
def decodeBytes : List Byte → Except Reject (Instr × List Byte)
  | b0 :: b1 :: b2 :: b3 :: rest => (decode (b3 ++ b2 ++ b1 ++ b0)).map (fun i => (i, rest))
  | _ => .error .short

/-! ### Encoding -/

/-- The word of an instruction; none for the steps of other agents, the effects of FATE (a value written, 19 R280)
and a reserved word. -/
def encode : Instr → Option (BitVec 32)
  | .add g d a b => some (wA 0x01 g d a b 0x00)
  | .sub g d a b => some (wA 0x01 g d a b 0x01)
  | .mul g d a b => some (wA 0x01 g d a b 0x02)
  | .mulh g d a b => some (wA 0x01 g d a b 0x03)
  | .mulhz g d a b => some (wA 0x01 g d a b 0x04)
  | .div g d a b => some (wA 0x01 g d a b 0x05)
  | .divz g d a b => some (wA 0x01 g d a b 0x06)
  | .rem g d a b => some (wA 0x01 g d a b 0x07)
  | .remz g d a b => some (wA 0x01 g d a b 0x08)
  | .and g d a b => some (wA 0x01 g d a b 0x10)
  | .or g d a b => some (wA 0x01 g d a b 0x11)
  | .xor g d a b => some (wA 0x01 g d a b 0x12)
  | .andn g d a b => some (wA 0x01 g d a b 0x13)
  | .orn g d a b => some (wA 0x01 g d a b 0x14)
  | .shl g d a b => some (wA 0x01 g d a b 0x18)
  | .shr g d a b => some (wA 0x01 g d a b 0x19)
  | .sra g d a b => some (wA 0x01 g d a b 0x1A)
  | .rol g d a b => some (wA 0x01 g d a b 0x1B)
  | .clz g d a => some (wA 0x01 g d a 0 0x20)
  | .ctz g d a => some (wA 0x01 g d a 0 0x21)
  | .popc g d a => some (wA 0x01 g d a 0 0x22)
  | .bswap g d a => some (wA 0x01 g d a 0 0x23)
  | .min g d a b => some (wA 0x01 g d a b 0x28)
  | .max g d a b => some (wA 0x01 g d a b 0x29)
  | .minz g d a b => some (wA 0x01 g d a b 0x2A)
  | .maxz g d a b => some (wA 0x01 g d a b 0x2B)
  | .sextB g d a => some (wA 0x01 g d a 0 0x30)
  | .sextH g d a => some (wA 0x01 g d a 0 0x31)
  | .sextW g d a => some (wA 0x01 g d a 0 0x32)
  | .zextB g d a => some (wA 0x01 g d a 0 0x34)
  | .zextH g d a => some (wA 0x01 g d a 0 0x35)
  | .zextW g d a => some (wA 0x01 g d a 0 0x36)
  | .sel g d a b n => some (wA 0x01 g d a b (0b0111#4 ++ n))
  | .cmp g d a b cc => some (wA 0x01 g (asP d) a b (0b100#3 ++ cc))
  | .addi g d a imm => some (wI 0x02 g d a imm)
  | .andi g d a imm => some (wI 0x03 g d a imm)
  | .ori g d a imm => some (wI 0x04 g d a imm)
  | .xori g d a imm => some (wI 0x05 g d a imm)
  | .shli g d a n => some (wI 0x06 g d a (0b000000#6 ++ n))
  | .shri g d a n => some (wI 0x06 g d a (0b000001#6 ++ n))
  | .srai g d a n => some (wI 0x06 g d a (0b000010#6 ++ n))
  | .roli g d a n => some (wI 0x06 g d a (0b000011#6 ++ n))
  | .cmpi g d cc a imm => some (wIC 0x07 g d cc a imm)
  | .lui d imm => some (wJ 0x08 d imm)
  | .addpc d imm => some (wJ 0x09 d imm)
  | .ldB g d a k => some (wI 0x0A g d a k)
  | .ldBz g d a k => some (wI 0x0B g d a k)
  | .ldH g d a k => some (wI 0x0C g d a k)
  | .ldHz g d a k => some (wI 0x0D g d a k)
  | .ldW g d a k => some (wI 0x0E g d a k)
  | .ldWz g d a k => some (wI 0x0F g d a k)
  | .ldD g d a k => some (wI 0x10 g d a k)
  | .stB g d a k => some (wI 0x11 g d a k)
  | .stH g d a k => some (wI 0x12 g d a k)
  | .stW g d a k => some (wI 0x13 g d a k)
  | .stD g d a k => some (wI 0x14 g d a k)
  | .ldIndexed g d a b size mod => some (wA 0x15 g d a b (0#1 ++ size ++ mod))
  | .stIndexed g d a b size mod => some (wA 0x15 g d a b (1#1 ++ size ++ mod))
  | .bCc cc a b off => some (wBR 0x16 cc a b off)
  | .biCc cc a imm off => some (wBR 0x17 cc a imm off)
  | .j imm => some (wJ 0x18 0 imm)
  | .jal d imm => some (wJ 0x19 d imm)
  | .jalr g d a imm => some (wI 0x1A g d a imm)
  | .pand g d a b => some (wA 0x1B g (asP d) (asP a) (asP b) 0)
  | .por g d a b => some (wA 0x1B g (asP d) (asP a) (asP b) 1)
  | .pxor g d a b => some (wA 0x1B g (asP d) (asP a) (asP b) 2)
  | .pnot g d a => some (wA 0x1B g (asP d) (asP a) 0 3)
  | .pmovPP g d a => some (wA 0x1B g (asP d) (asP a) 0 4)
  | .pmovPS g d a => some (wA 0x1B g (asP d) a 0 5)
  | .pmovSP g d a => some (wA 0x1B g d (asP a) 0 6)
  | .pcount g d a => some (wA 0x1B g d (asP a) 0 7)
  | .fadd g d a b q => some (wA 0x1C g d a b (0#6 ++ q))
  | .fsub g d a b q => some (wA 0x1C g d a b (1#6 ++ q))
  | .fmul g d a b q => some (wA 0x1C g d a b (2#6 ++ q))
  | .fdiv g d a b q => some (wA 0x1C g d a b (3#6 ++ q))
  | .fsqrt g d a q => some (wA 0x1C g d a 0 (4#6 ++ q))
  | .fma g d a b q => some (wA 0x1C g d a b (5#6 ++ q))
  | .fmin g d a b q => some (wA 0x1C g d a b (6#6 ++ q))
  | .fmax g d a b q => some (wA 0x1C g d a b (7#6 ++ q))
  | .fclass g d a q => some (wA 0x1C g d a 0 (8#6 ++ q))
  | .fcmp g d a b cc q => some (wA 0x1C g (asP d) a b (0b010#3 ++ cc ++ q))
  | .fcvt g d a src tgt => some (wA 0x1C g d a (0#1 ++ src) (0b100#3 ++ tgt))
  | .amoAdd g d a b o => some (wA 0x1D g d a b (0#4 ++ o))
  | .amoAnd g d a b o => some (wA 0x1D g d a b (1#4 ++ o))
  | .amoOr g d a b o => some (wA 0x1D g d a b (2#4 ++ o))
  | .amoXor g d a b o => some (wA 0x1D g d a b (3#4 ++ o))
  | .amoMin g d a b o => some (wA 0x1D g d a b (4#4 ++ o))
  | .amoMax g d a b o => some (wA 0x1D g d a b (5#4 ++ o))
  | .amoMinz g d a b o => some (wA 0x1D g d a b (6#4 ++ o))
  | .amoMaxz g d a b o => some (wA 0x1D g d a b (7#4 ++ o))
  | .amoSwap g d a b o => some (wA 0x1D g d a b (8#4 ++ o))
  | .cas g d a b o => some (wA 0x1D g d a b (9#4 ++ o))
  | .xaddF32 g a b o => some (wA 0x1D g 0 a b (10#4 ++ o))
  | .xaddF64 g a b o => some (wA 0x1D g 0 a b (11#4 ++ o))
  | .xmerge g a b o => some (wA 0x1D g 0 a b (12#4 ++ o))
  | .fenceAcq sc => some (wP 0x1E 0 (1#20 ++ sc))
  | .fenceRel sc => some (wP 0x1E 0 (2#20 ++ sc))
  | .fenceAr sc => some (wP 0x1E 0 (3#20 ++ sc))
  | .fenceP => some (wP 0x1E 1 0)
  | .waitc l s c m => some (wP 0x1E 2 (l ++ s ++ c ++ m))
  | .pause a => some (wP 0x1E 3 (0#5 ++ a ++ 0#12))
  | .srd g d n => some (wI 0x1F g d 0 (0#1 ++ n))
  | .swr g a n => some (wI 0x1F g 0 a (1#1 ++ n))
  | .vld g d a k => some (wI 0x20 g d a (0#3 ++ k))
  | .vst g d a k => some (wI 0x20 g d a (1#3 ++ k))
  | .vlds g d a s w => some (wI 0x20 g d a (2#3 ++ s ++ w ++ 0#2))
  | .vldx g d a x w => some (wI 0x20 g d a (3#3 ++ x ++ w ++ 0#2))
  | .vstx g d a x w => some (wI 0x20 g d a (4#3 ++ x ++ w ++ 0#2))
  | .vldVol g d a k => some (wI 0x20 g d a (5#3 ++ k))
  | .vldFg g d a k => some (wI 0x20 g d a (6#3 ++ k))
  | .vaddInt g d a b w => some (wA 0x21 g d a b (0#5 ++ w))
  | .vsubInt g d a b w => some (wA 0x21 g d a b (1#5 ++ w))
  | .vmulInt g d a b w => some (wA 0x21 g d a b (2#5 ++ w))
  | .vmulh g d a b w => some (wA 0x21 g d a b (3#5 ++ w))
  | .vmulhz g d a b w => some (wA 0x21 g d a b (4#5 ++ w))
  | .vand g d a b w => some (wA 0x21 g d a b (5#5 ++ w))
  | .vor g d a b w => some (wA 0x21 g d a b (6#5 ++ w))
  | .vxor g d a b w => some (wA 0x21 g d a b (7#5 ++ w))
  | .vshl g d a b w => some (wA 0x21 g d a b (8#5 ++ w))
  | .vshr g d a b w => some (wA 0x21 g d a b (9#5 ++ w))
  | .vsra g d a b w => some (wA 0x21 g d a b (10#5 ++ w))
  | .vminInt g d a b w => some (wA 0x21 g d a b (11#5 ++ w))
  | .vmaxInt g d a b w => some (wA 0x21 g d a b (12#5 ++ w))
  | .vminz g d a b w => some (wA 0x21 g d a b (13#5 ++ w))
  | .vmaxz g d a b w => some (wA 0x21 g d a b (14#5 ++ w))
  | .vcmpInt g d a b cc w => some (wA 0x21 g (asP d) a b (1#1 ++ cc ++ w))
  | .vaddFp g d a b t => some (wA 0x22 g d a b (0x00#5 ++ t))
  | .vsubFp g d a b t => some (wA 0x22 g d a b (0x02#5 ++ t))
  | .vmulFp g d a b t => some (wA 0x22 g d a b (0x04#5 ++ t))
  | .vdiv g d a b t => some (wA 0x22 g d a b (0x06#5 ++ t))
  | .vsqrt g d a t => some (wA 0x22 g d a 0 (0x08#5 ++ t))
  | .vfma g d a b t => some (wA 0x22 g d a b (0x0A#5 ++ t))
  | .vminFp g d a b t => some (wA 0x22 g d a b (0x0C#5 ++ t))
  | .vmaxFp g d a b t => some (wA 0x22 g d a b (0x0E#5 ++ t))
  | .vfrsqe g d a t => some (wA 0x22 g d a 0 (0x10#5 ++ t))
  | .vabs g d a t => some (wA 0x22 g d a 0 (0x12#5 ++ t))
  | .vcmpFp g d a b cc t => some (wA 0x22 g (asP d) a b ((0x14#5 + (0#2 ++ cc)) ++ t))
  | .vcvt g d a src tgt => some (wA 0x22 g d a (0#1 ++ src) (0b111#3 ++ tgt))
  | .vsel g d a b n => some (wA 0x23 g d a b (0#4 ++ n))
  | .vbcast g d a w => some (wA 0x23 g d a 0 (0x02#5 ++ w))
  | .vperm g d a b w => some (wA 0x23 g d a b (0x03#5 ++ w))
  | .vslide g d a b w => some (wA 0x23 g d a b (0x04#5 ++ w))
  | .vredInt g d a n op w => some (wA 0x23 g d a (asP n) (0b01#2 ++ op ++ w))
  | .vredFp g d a n op t => some (wA 0x23 g d a (asP n) (0b100#3 ++ op ++ t))
  | .vscan g d a n w => some (wA 0x23 g d a (asP n) (0b100#3 ++ 3#2 ++ w))
  | .vcompact g d a n w => some (wA 0x23 g d a (asP n) (0x14#5 ++ w))
  | .vext g d a b w => some (wA 0x23 g d a b (0x15#5 ++ w))
  | .vins g d a b w => some (wA 0x23 g d a b (0x16#5 ++ w))
  | .vdotI8 g d a b => some (wA 0x23 g d a b 0x5C)
  | .vdotF16 g d a b => some (wA 0x23 g d a b 0x5D)
  | .vdotBf16 g d a b => some (wA 0x23 g d a b 0x5E)
  | .vdotE4m3 g d a b => some (wA 0x23 g d a b 0x5F)
  | .spawn g pd a => some (wE 0x24 g 0 0 0 (asP pd) a 0 0)
  | .spawnj g pd a => some (wE 0x24 g 1 0 0 (asP pd) a 0 0)
  | .join g a => some (wE 0x24 g 2 0 0 0 a 0 0)
  | .tend g => some (wE 0x24 g 3 0 0 0 0 0 0)
  | .launch g t a => some (wE 0x24 g 4 0 0 t a 0 0)
  | .send g sc t a b rel => some (wE 0x25 g 0 0 sc t a b rel)
  | .dqpush g pd a => some (wE 0x26 g 0 0 0 (asP pd) a 0 0)
  | .dqpop g pd d => some (wE 0x26 g 1 0 0 (asP pd) d 0 0)
  | .dqsplit g pd d => some (wE 0x26 g 2 0 0 (asP pd) d 0 0)
  | .dqsteal g pd d b => some (wE 0x26 g 3 0 0 (asP pd) d b 0)
  | .balloc g sc d pd b => some (wE 0x27 g 0 0 sc d (asP pd) b 0)
  | .bexpect g a b => some (wE 0x27 g 1 0 0 0 a b 0)
  | .barrive g d a => some (wE 0x27 g 2 0 0 d a 0 0)
  | .bwait g pd a b => some (wE 0x27 g 3 0 0 (asP pd) a b 0)
  | .bfree g a => some (wE 0x27 g 4 0 0 0 a 0 0)
  | .copy g acq sc t a b rel => some (wE 0x28 g 0 acq sc t a b rel)
  | .put g acq sc t a b rel => some (wE 0x28 g 1 acq sc t a b rel)
  | .putO g acq sc t a b rel => some (wE 0x28 g 2 acq sc t a b rel)
  | .gather g acq sc t a b rel => some (wE 0x28 g 3 acq sc t a b rel)
  | .copyw g acq sc t a b => some (wE 0x28 g 4 acq sc t a b 0)
  | .venc g acq sc t a rel => some (wE 0x28 g 5 acq sc t a 0 rel)
  | .mma g d a b => some (wA 0x29 g (asA d) a b 0)
  | .mmas g d a b => some (wA 0x29 g (asA d) a b 1)
  | .mmal g d a b => some (wA 0x29 g (asA d) a b 2)
  | .mzero g d => some (wA 0x29 g (asA d) 0 0 3)
  | .mld g d a => some (wA 0x29 g (asA d) a 0 4)
  | .mst g d a => some (wA 0x29 g (asA d) a 0 5)
  | .prune g d a => some (wA 0x29 g d a 0 6)
  | .ctld g a => some (wA 0x29 g 0 a 0 7)
  | .xrnd g d a b mode q => some (wA 0x2A g d a b (0#4 ++ mode ++ q))
  | .xclr g a => some (wA 0x2A g 0 a 0 8)
  | .build g acq sc t a rel => some (wE 0x2B g 0 acq sc t a 0 rel)
  | .refit g acq sc t a rel => some (wE 0x2B g 1 acq sc t a 0 rel)
  | .rebal g acq sc t a b rel => some (wE 0x2B g 2 acq sc t a b rel)
  | .gpin g t a => some (wE 0x2B g 3 0 0 t a 0 0)
  | .gunpin g t a b => some (wE 0x2B g 4 0 0 t a b 0)
  | .bquery g t a b => some (wE 0x2B g 5 0 0 t a b 0)
  | .pairgo g acq sc t a rel => some (wE 0x2C g 0 acq sc t a 0 rel)
  | .raygo g acq sc t a rel => some (wE 0x2C g 1 acq sc t a 0 rel)
  | .nld g d a b => some (wE 0x2C g 2 0 0 d a b 0)
  | .verdict g a b => some (wE 0x2C g 3 0 0 0 a b 0)
  | .sgen g d a b => some (wA 0x2D g (asK d) a b 0)
  | .sand g d a b => some (wA 0x2D g (asK d) (asK a) (asK b) 1)
  | .sxnor g d a b => some (wA 0x2D g (asK d) (asK a) (asK b) 2)
  | .sor g d a b => some (wA 0x2D g (asK d) (asK a) (asK b) 3)
  | .snot g d a => some (wA 0x2D g (asK d) (asK a) 0 4)
  | .scnt g d a => some (wA 0x2D g d (asK a) 0 5)
  | .scntp g d a b => some (wA 0x2D g d (asK a) b 6)
  | .scvt g d a b => some (wA 0x2D g d a b 7)
  | .sregen g d a b => some (wA 0x2D g (asK d) (asK a) b 8)
  | .sdelay g d a b => some (wA 0x2D g (asK d) (asK a) b 9)
  | .sld g d a => some (wA 0x2D g (asK d) a 0 10)
  | .sst g d a => some (wA 0x2D g (asK d) a 0 11)
  | .smux g d a b n => some (wA 0x2D g (asK d) (asK a) (asK b) (1#3 ++ n))
  | .fmt rm af bf df scm acc => some (wP 0x3D 0 (rm ++ af ++ bf ++ df ++ scm ++ acc ++ 0#4))
  | .immx hi => some (wP 0x3D 1 hi)
  | .hint kind => some (wP 0x3D 2 (0#18 ++ kind))
  | .trap imm => some (wSYS 0x00 0 0 imm)
  | .syscall imm => some (wSYS 0x01 0 0 imm)
  | .rfe => some (wSYS 0x10 0 0 0)
  | .tlbinv a b kind => some (wSYS 0x11 a b (0#8 ++ kind))
  | .replay a => some (wSYS 0x12 a 0 0)
  | .lease a d kind => some (wSYS 0x13 a d kind)
  | .opmark a kind => some (wSYS 0x14 a 0 kind)
  | .idle a => some (wSYS 0x15 a 0 0)
  | .stackbase g a => some (wI 0x1F g 0 a (1#1 ++ 0x410#11))
  | .preempt g a => some (wI 0x1F g 0 a (1#1 ++ 0x420#11))
  | .resume g a => some (wI 0x1F g 0 a (1#1 ++ 0x421#11))
  | .kill g a => some (wI 0x1F g 0 a (1#1 ++ 0x422#11))
  | .rcbsync g a => some (wI 0x1F g 0 a (1#1 ++ 0x423#11))
  | .ptroot g a => some (wI 0x1F g 0 a (1#1 ++ 0x430#11))
  | .lastue g a => some (wI 0x1F g 0 a (1#1 ++ 0x442#11))
  | .reservedEncoding .. | .fateRequeue | .fateEnd | .fateKill | .dispatch .. | .pauseEnd ..
    | .loadCompletion .. | .storeDrain .. | .homeAtomic .. | .messageArrival .. | .putArrival ..
    | .putAck .. | .copyCompletion .. | .vencCompletion .. | .barrierWatchdog .. | .runWatchdog ..
    | .remoteHomeMigration .. | .matrixAccept .. | .matrixComplete .. | .builderLock .. | .builderStep ..
    | .publish .. | .relayCommandTake .. | .pairTest .. | .relaySteal .. | .rayStep ..
    | .relayQueuePlace .. | .traversalEnd .. | .tilesPlaced .. | .preemptDrained .. | .drainLimit ..
    | .regionEnd .. | .quotaWindow | .leaseExpiry .. | .mrd .. | .mwr .. | .fence .. | .notifyLaunch ..
    | .notifyFabricLaunch .. | .fabricLaunchPacket .. | .startBarrier .. | .packageUnreachable ..
    | .linkDown | .linkTrained | .keygen .. | .keyclr .. | .defset .. | .lattol .. | .attestation ..
    | .partitioningChange .. | .governorPeriod .. | .sensorSample .. | .timingError .. | .stretchEnd ..
    | .tileIdle .. | .tileWake .. | .softError .. | .packageReset | .bootStage .. | .configurationRecord ..
    | .coreReset .. | .packageRefused .. => none

/-- The instruction the decoder reads from an instruction whose bits are w, numbered as spec/opcode_table.json numbers
them: one 32-bit word, stored little-endian (05, 00 R3). -/
def decodeTableWord (nbits w : Nat) : Option Instr :=
  match decodeBytes (Machine.natBytes (w % 2 ^ nbits) 4) with
  | .ok (i, _) => some i
  | .error _ => none

end Sys2Proof
end

