-- ==== Sys2Proof/Machine/Float.lean ====
section
/-! DEFINITION. The number formats of 04: floating point (R63-R67), the logarithmic format l6 (R70-R72), and the
exact results that are rounded once. Values are exact rationals until the one rounding. -/

namespace Sys2Proof.Machine

/-- The rounding modes of `fmt` RM (05 R103). -/
inductive RMode where
  | rne | rtz | rup | rdn
deriving DecidableEq, Repr

def RMode.ofBits (x : BitVec 2) : RMode :=
  if x = 0 then .rne else if x = 1 then .rtz else if x = 2 then .rup else .rdn

/-- A floating-point format of R63. -/
structure FFmt where
  ebits : Nat
  fbits : Nat
  bias : Nat
  /-- E4M3: the top exponent field holds finite values and one NaN, no infinity. -/
  e4m3 : Bool
deriving DecidableEq, Repr

def FFmt.f64 : FFmt := ⟨11, 52, 1023, false⟩
def FFmt.f32 : FFmt := ⟨8, 23, 127, false⟩
def FFmt.f16 : FFmt := ⟨5, 10, 15, false⟩
def FFmt.bf16 : FFmt := ⟨8, 7, 127, false⟩
def FFmt.fp8 : FFmt := ⟨4, 3, 7, true⟩
def FFmt.e5m2 : FFmt := ⟨5, 2, 15, false⟩

/-- Width in bits. -/
def FFmt.width (f : FFmt) : Nat := 1 + f.ebits + f.fbits

/-- The canonical NaN of R63. -/
def FFmt.nan (f : FFmt) : Nat :=
  if f.e4m3 then 0x7F else (2 ^ f.ebits - 1) * 2 ^ f.fbits + 2 ^ (f.fbits - 1)

/-- The encoding of +Inf (no format but E4M3 lacks it). -/
def FFmt.inf (f : FFmt) : Nat := (2 ^ f.ebits - 1) * 2 ^ f.fbits

/-- The encoding of the largest finite magnitude (R63). -/
def FFmt.maxFinite (f : FFmt) : Nat := if f.e4m3 then 0x7E else f.inf - 1

def FFmt.signBit (f : FFmt) (neg : Bool) : Nat := if neg then 2 ^ (f.ebits + f.fbits) else 0

/-- A decoded value: a NaN, an infinity, or a finite magnitude with its sign (so that -0 is kept). -/
inductive FVal where
  | nan
  | inf (neg : Bool)
  | fin (neg : Bool) (mag : ℚ)
deriving DecidableEq, Repr

/-- n × 2^e. -/
def dyadic (n : Nat) (e : Int) : ℚ :=
  if 0 ≤ e then (n * 2 ^ e.toNat : Nat) else mkRat n (2 ^ (-e).toNat)

/-- R63: the value of an encoding. -/
def FFmt.decode (f : FFmt) (x : Nat) : FVal :=
  let frac := x % 2 ^ f.fbits
  let e := x / 2 ^ f.fbits % 2 ^ f.ebits
  let neg := x / 2 ^ (f.fbits + f.ebits) % 2 == 1
  if e = 2 ^ f.ebits - 1 ∧ ¬ f.e4m3 then (if frac = 0 then .inf neg else .nan)
  else if f.e4m3 ∧ e = 15 ∧ frac = 7 then .nan
  else if e = 0 then .fin neg (dyadic frac (1 - (f.bias : Int) - f.fbits))
  else .fin neg (dyadic (2 ^ f.fbits + frac) ((e : Int) - f.bias - f.fbits))

def FVal.rat : FVal → ℚ
  | .fin neg m => if neg then -m else m
  | _ => 0

def FVal.isNeg : FVal → Bool
  | .nan => false
  | .inf n => n
  | .fin n _ => n

def FVal.isNan : FVal → Bool
  | .nan => true
  | _ => false

def FVal.isInf : FVal → Bool
  | .inf _ => true
  | _ => false

def FVal.isZero : FVal → Bool
  | .fin _ m => m == 0
  | _ => false

/-- ⌊log2 (n / d)⌋ for positive n and d. -/
def ilog2 (n d : Nat) : Int :=
  let k : Int := (n.log2 : Int) - d.log2
  let ge : Bool := if 0 ≤ k then d * 2 ^ k.toNat ≤ n else d ≤ n * 2 ^ (-k).toNat
  if ge then k else k - 1

/-- Whether the integer part q, with remainder r over d, moves away from zero under the mode. -/
def roundsUp (m : RMode) (neg : Bool) (q r d : Nat) : Bool :=
  match m with
  | .rne => 2 * r > d || (2 * r == d && q % 2 == 1)
  | .rtz => false
  | .rup => r != 0 && !neg
  | .rdn => r != 0 && neg

/-- Rounds the magnitude n/d (d > 0) to an integer number of quanta 2^eq under the mode. -/
def roundQuanta (m : RMode) (neg : Bool) (n d : Nat) (eq : Int) : Nat :=
  let num := if 0 ≤ eq then n else n * 2 ^ (-eq).toNat
  let den := if 0 ≤ eq then d * 2 ^ eq.toNat else d
  let q := num / den
  if roundsUp m neg q (num % den) den then q + 1 else q

/-- R66: what a finite value that rounds beyond the largest finite becomes. -/
def FFmt.overflow (f : FFmt) (m : RMode) (neg : Bool) : Nat :=
  if f.e4m3 then f.maxFinite
  else match m with
    | .rne => f.inf
    | .rtz => f.maxFinite
    | .rup => if neg then f.maxFinite else f.inf
    | .rdn => if neg then f.inf else f.maxFinite

/-- R64, R66: the exact nonnegative magnitude n/d with the given sign, rounded once to the format; p is the number of
significant bits (fbits + 1 but for `vfrsqe`, 07 R144). -/
def FFmt.roundMag (f : FFmt) (m : RMode) (p : Nat) (neg : Bool) (n d : Nat) : Nat :=
  f.signBit neg +
    if n = 0 then 0
    else
      let emin : Int := 1 - (f.bias : Int)
      let e := ilog2 n d
      let eq : Int := max (e - ((p : Int) - 1)) (emin - f.fbits)
      let q := roundQuanta m neg n d eq
      -- the quanta of the format itself below 2^eq are zero
      let eq' : Int := max (e - (f.fbits : Int)) (emin - f.fbits)
      let q' := q * 2 ^ (eq - eq').toNat
      let enc := if q' < 2 ^ f.fbits then q'
        else ((eq' - (emin - f.fbits)).toNat + 1) * 2 ^ f.fbits + (q' - 2 ^ f.fbits)
      if enc > f.maxFinite then f.overflow m neg else enc

/-- Rounds an exact rational; zero takes the sign given. -/
def FFmt.round (f : FFmt) (m : RMode) (zeroNeg : Bool) (q : ℚ) : Nat :=
  if q = 0 then f.signBit zeroNeg
  else f.roundMag m (f.fbits + 1) (q < 0) q.num.natAbs q.den

/-- An infinity in the format; E4M3 has none and holds ±448 instead (R66). -/
def FFmt.encInf (f : FFmt) (neg : Bool) : Nat := f.signBit neg + (if f.e4m3 then f.maxFinite else f.inf)

/-- R64: the sign of an exact zero that is the sum of two addends of the signs given. -/
def zeroSumNeg (m : RMode) (xneg yneg : Bool) : Bool :=
  if xneg == yneg then xneg else m == .rdn

/-- Sum of two values, rounded once (R64). -/
def FFmt.addV (f : FFmt) (m : RMode) (x y : FVal) : Nat :=
  match x, y with
  | .nan, _ => f.nan
  | _, .nan => f.nan
  | .inf a, .inf b => if a == b then f.encInf a else f.nan
  | .inf a, .fin _ _ => f.encInf a
  | .fin _ _, .inf b => f.encInf b
  | .fin a p, .fin b q => f.round m (zeroSumNeg m a b) (FVal.rat (.fin a p) + FVal.rat (.fin b q))

def FVal.neg : FVal → FVal
  | .nan => .nan
  | .inf a => .inf (!a)
  | .fin a p => .fin (!a) p

/-- The exact product as a value; 0 × Inf is invalid and gives NaN (R64). -/
def FVal.mul : FVal → FVal → FVal
  | .nan, _ => .nan
  | _, .nan => .nan
  | .inf a, .inf b => .inf (a != b)
  | .inf a, .fin b q => if q = 0 then .nan else .inf (a != b)
  | .fin a p, .inf b => if p = 0 then .nan else .inf (a != b)
  | .fin a p, .fin b q => .fin (a != b) (p * q)

/-- A value rounded to the format; a zero keeps its sign. -/
def FFmt.ofVal (f : FFmt) (m : RMode) (x : FVal) : Nat :=
  match x with
  | .nan => f.nan
  | .inf a => f.encInf a
  | .fin a p => f.round m a (FVal.rat (.fin a p))

def FFmt.add (f : FFmt) (m : RMode) (x y : Nat) : Nat := f.addV m (f.decode x) (f.decode y)
def FFmt.sub (f : FFmt) (m : RMode) (x y : Nat) : Nat := f.addV m (f.decode x) (f.decode y).neg
def FFmt.mul (f : FFmt) (m : RMode) (x y : Nat) : Nat := f.ofVal m ((f.decode x).mul (f.decode y))

/-- S[a] × S[b] + c, rounded once (06 R119). -/
def FFmt.fma (f : FFmt) (m : RMode) (x y z : Nat) : Nat := f.addV m ((f.decode x).mul (f.decode y)) (f.decode z)

/-- Quotient (06 R119): x/0 with x nonzero is an infinity, 0/0 and Inf/Inf the canonical NaN. -/
def FFmt.div (f : FFmt) (m : RMode) (x y : Nat) : Nat :=
  match f.decode x, f.decode y with
  | .nan, _ => f.nan
  | _, .nan => f.nan
  | .inf _, .inf _ => f.nan
  | .inf a, .fin b _ => f.encInf (a != b)
  | .fin a _, .inf b => f.signBit (a != b)
  | .fin a p, .fin b q =>
    if q = 0 then (if p = 0 then f.nan else f.encInf (a != b))
    else f.round m (a != b) (FVal.rat (.fin a p) / FVal.rat (.fin b q))

/-- √(n/d) rounded once to p significant bits: a root with extra bits and a sticky last bit rounds as the exact one. -/
def FFmt.sqrtMag (f : FFmt) (m : RMode) (p n d : Nat) : Nat :=
  let t := 64 + d.log2 + 1        -- enough fraction bits: the root then has more than p + 2 bits
  let num := n * 2 ^ (2 * t) / d
  let r := isqrt num
  let exact : Bool := r * r == num && num * d == n * 2 ^ (2 * t)
  f.roundMag m p false (2 * r + if exact then 0 else 1) (2 ^ (t + 1))

/-- Square root (06 R119); a value below zero is invalid, and the root of either zero is +0, being no sum, product or quotient
(R64, log 17). -/
def FFmt.sqrt (f : FFmt) (m : RMode) (x : Nat) : Nat :=
  match f.decode x with
  | .nan => f.nan
  | .inf a => if a then f.nan else f.encInf false
  | .fin a p => if p = 0 then 0 else if a then f.nan
      else f.sqrtMag m (f.fbits + 1) p.num.natAbs p.den

/-- 07 R144: 1/√x rounded to min(12, precision) significant bits. -/
def FFmt.rsqrt (f : FFmt) (m : RMode) (x : Nat) : Nat :=
  match f.decode x with
  | .nan => f.nan
  | .inf a => if a then f.nan else 0
  | .fin a p => if p = 0 then f.encInf a else if a then f.nan
      else f.sqrtMag m (min 12 (f.fbits + 1)) p.den p.num.natAbs

/-- Order of values for fmin and fmax: -0 is less than +0 (06 R119). -/
def FVal.lessTotal : FVal → FVal → Bool
  | .inf a, .inf b => a && !b
  | .inf a, .fin _ _ => a
  | .fin _ _, .inf b => !b
  | .fin a p, .fin b q =>
    let x := FVal.rat (.fin a p); let y := FVal.rat (.fin b q)
    if x = y then a && !b else x < y
  | _, _ => false

def FFmt.min (f : FFmt) (x y : Nat) : Nat :=
  let a := f.decode x; let b := f.decode y
  if a.isNan || b.isNan then f.nan else if b.lessTotal a then y else x

def FFmt.max (f : FFmt) (x y : Nat) : Nat :=
  let a := f.decode x; let b := f.decode y
  if a.isNan || b.isNan then f.nan else if a.lessTotal b then y else x

/-- `vabs` (07 R143): clears the sign; a NaN gives the canonical NaN. -/
def FFmt.abs (f : FFmt) (x : Nat) : Nat :=
  if (f.decode x).isNan then f.nan else x % 2 ^ (f.ebits + f.fbits)

/-- Numeric less-than of two values that are no NaN; -0 equals +0 (06 R121). -/
def FVal.less (x y : FVal) : Bool :=
  match x, y with
  | .inf a, .inf b => a && !b
  | .inf a, .fin _ _ => a
  | .fin _ _, .inf b => !b
  | .fin a p, .fin b q => FVal.rat (.fin a p) < FVal.rat (.fin b q)
  | _, _ => false

/-- 06 R121: eq, ne, lt, ge, le, gt for codes 0-5; with a NaN only ne holds. -/
def FFmt.cmp (f : FFmt) (cc : Nat) (x y : Nat) : Bool :=
  let a := f.decode x; let b := f.decode y
  if a.isNan || b.isNan then cc == 1
  else
    let lt := a.less b; let gt := b.less a
    match cc with
    | 0 => !lt && !gt
    | 1 => lt || gt
    | 2 => lt
    | 3 => !lt
    | 4 => !gt
    | 5 => gt
    | _ => false

/-- 06 R120: the one-hot class mask. -/
def FFmt.classify (f : FFmt) (x : Nat) : Nat :=
  let frac := x % 2 ^ f.fbits
  let e := x / 2 ^ f.fbits % 2 ^ f.ebits
  let neg := x / 2 ^ (f.fbits + f.ebits) % 2 == 1
  if e = 2 ^ f.ebits - 1 then
    if frac = 0 then (if neg then 1 else 2 ^ 7)
    else if frac < 2 ^ (f.fbits - 1) then 2 ^ 8 else 2 ^ 9
  else if e = 0 then
    if frac = 0 then (if neg then 2 ^ 3 else 2 ^ 4) else (if neg then 2 ^ 2 else 2 ^ 5)
  else (if neg then 2 else 2 ^ 6)

/-- Rounds a rational to an integer under the mode (04 R67). -/
def roundInt (m : RMode) (q : ℚ) : Int :=
  let neg : Bool := q < 0
  let k := roundQuanta m neg q.num.natAbs q.den 0
  if neg then -(k : Int) else k

/-- Saturates an integer to w bits, signed or unsigned, and gives its w-bit pattern (R67). -/
def saturate (signed : Bool) (w : Nat) (x : Int) : Nat :=
  let lo : Int := if signed then -(2 ^ (w - 1) : Nat) else 0
  let hi : Int := if signed then (2 ^ (w - 1) - 1 : Nat) else (2 ^ w - 1 : Nat)
  let y := if x < lo then lo else if hi < x then hi else x
  (y % (2 ^ w : Nat)).toNat

/-- R67: floating point to integer; NaN gives 0 and infinities saturate. -/
def FVal.toInt (m : RMode) (signed : Bool) (w : Nat) : FVal → Nat
  | .nan => 0
  | .inf neg => if neg then (if signed then 2 ^ (w - 1) else 0) else (if signed then 2 ^ (w - 1) - 1 else 2 ^ w - 1)
  | .fin a p => saturate signed w (roundInt m (FVal.rat (.fin a p)))

/-- The integer a w-bit pattern stands for (R67). -/
def intOf (signed : Bool) (w x : Nat) : Int :=
  let y := x % 2 ^ w
  if signed && 2 ^ (w - 1) ≤ y then (y : Int) - (2 ^ w : Nat) else y

/-! ### l6 (R70-R72) -/

/-- The table T of R70 as FP32 encodings. -/
def l6T (i : Nat) : Nat := match i with
  | 0 => 0x3F800000
  | 1 => 0x3F9837F0
  | 2 => 0x3FB504F3
  | _ => 0x3FD744FD

/-- T[q mod 4] × 2^(q >> 2) for an integer q (R70, R71). -/
def l6Mag (q : Int) : ℚ :=
  (FVal.rat (FFmt.f32.decode (l6T (q % 4).toNat))) * dyadic 1 (q / 4)

/-- q of a code: bits [4:0] as two's complement. -/
def l6q (x : Nat) : Int := intOf true 5 (x % 32)

def l6neg (x : Nat) : Bool := x / 32 % 2 == 1

/-- R70: the value of a code; bits above [5:0] are ignored (R68). -/
def l6decode (x : Nat) : FVal :=
  if l6q x = -16 then (if l6neg x then .nan else .fin false 0) else .fin (l6neg x) (l6Mag (l6q x))

/-- R71: the exact linear value of a product. -/
def l6mul (x y : Nat) : FVal :=
  let zx := l6q x = -16; let zy := l6q y = -16
  if (zx ∧ l6neg x) ∨ (zy ∧ l6neg y) then .nan
  else if zx ∨ zy then .fin (l6neg x != l6neg y) 0
  else .fin (l6neg x != l6neg y) (l6Mag (l6q x + l6q y))

/-- The magnitude that q stands for in a conversion: -16 counts as 0 (R72). -/
def l6Step (q : Int) : ℚ := if q = -16 then 0 else l6Mag q

/-- The greatest q whose magnitude is at most m, from q down; the fuel is the number of codes left. -/
def l6Below (m : ℚ) : Nat → Int → Int
  | 0, q => q
  | n + 1, q => if l6Step q ≤ m then q else l6Below m n (q - 1)

/-- R72: conversion to l6. -/
def l6encode (m : RMode) (x : FVal) : Nat :=
  match x with
  | .nan => 0x30
  | .inf neg => (if neg then 32 else 0) + 15
  | .fin neg p =>
    let q : Int :=
      if l6Mag 15 ≤ p then 15
      else
        let lo := l6Below p 32 15
        let dl := p - l6Step lo; let dh := l6Step (lo + 1) - p
        let up : Bool := match m with
          | .rne => dh < dl || (dh == dl && (lo + 1) % 2 == 0)
          | .rtz => false
          | .rup => dl != 0 && !neg
          | .rdn => dl != 0 && neg
        if up then lo + 1 else lo
    if q = -16 then 0x10 else (if neg then 32 else 0) + (q % 32).toNat

/-! ### Formats by their 4-bit code (05 R87) -/

/-- What an element-format code names. -/
inductive ElemFmt where
  | float (f : FFmt)
  | l6
  | c4
  | int (signed : Bool) (w : Nat)
deriving DecidableEq, Repr

def elemFmt (code : BitVec 4) : ElemFmt :=
  match code.toNat with
  | 0 => .float .f64
  | 1 => .float .f32
  | 2 => .float .f16
  | 3 => .float .bf16
  | 4 => .float .fp8
  | 5 => .float .e5m2
  | 6 => .l6
  | 7 => .c4
  | 8 => .int true 8
  | 9 => .int true 16
  | 10 => .int true 32
  | 11 => .int true 64
  | 12 => .int false 8
  | 13 => .int false 16
  | 14 => .int false 32
  | _ => .int false 64

/-- Width in bits of an element; c4 is half a byte (R68). -/
def ElemFmt.width : ElemFmt → Nat
  | .float f => f.width
  | .l6 => 8
  | .c4 => 4
  | .int _ w => w

/-- The floating-point type of 05 R94: 0 f64, 1 f32, 2 f16, 3 bf16. -/
def fpType (t : BitVec 2) : FFmt :=
  if t = 0 then .f64 else if t = 1 then .f32 else if t = 2 then .f16 else .bf16

/-- A value converted to the format under R64: a zero gives +0, being no sum, product or quotient (log 17). -/
def FFmt.cvtVal (f : FFmt) (m : RMode) (x : FVal) : Nat :=
  match x with
  | .fin a p => if p = 0 then 0 else f.ofVal m (.fin a p)
  | x => f.ofVal m x

/-- One conversion from a float, integer or l6 pattern to a float, integer or l6 pattern (06 R122, 07 R146). Pairs the
tables reserve never reach it. -/
def convertElem (m : RMode) (src tgt : ElemFmt) (x : Nat) : Nat :=
  match src, tgt with
  | .float f, .float t =>
    -- to a wider format the conversion is exact, the sign of a zero included (log 17)
    if f.width < t.width then t.ofVal m (f.decode x) else t.cvtVal m (f.decode x)
  | .float f, .int sg w => (f.decode x).toInt m sg w
  | .float f, .l6 => l6encode m (f.decode x)
  | .int sg w, .float t => t.round m false (intOf sg w x : ℚ)
  | .int sg w, .int sg' w' => saturate sg' w' (intOf sg w x)
  | .l6, .float t => t.ofVal m (l6decode x)
  | _, _ => 0

end Sys2Proof.Machine
end

