-- ==== Sys2Proof/Machine/State.lean ====
section
/-! DEFINITION. The state of one package, as plain data; the machine after reset; the reasons to stop. -/

namespace Sys2Proof.Machine

/-- Who raises each fault, and what it means for claims. -/
inductive Fault where
  /-- Raised by `step` when the core to issue stands on a pc whose bits [1:0] are not 0, which only a supervisor
  write of EPC or a handler pointer can bring about; 05 fetches from 4-byte-aligned addresses only and gives no
  effect for another. Safe: the run stops (log 10). -/
  | misalignedFetch
  /-- Raised by a stack access whose STACKBASE names device memory that does not exist (20 R293: PA[39:36] of 12 to
  15 names no memory). Safe: the run stops (log 11). -/
  | noSuchMemory
deriving DecidableEq, Repr

/-- Who raises each refusal. -/
inductive Refusal where
  /-- Raised by an arm of `exec` that has no meaning yet. Safe: the run stops. -/
  | notModelled (mnemonic : String)
deriving DecidableEq, Repr

/-! ### Tasks and what a strand holds -/

/-- A full stream register (12 R237); an empty register is `none`. -/
structure Stream where
  lap : BitVec 2
  bits : BitVec 4096
  mask : BitVec 16
  phase : BitVec 12
  mix : Bool
deriving DecidableEq, Repr

/-- A piece of work with its start state (02 R17, R21, R33, 11 R223, 19 R278). `kind` is STS.KIND; `regs` are the
start values of s3 to s11 and `marks` the poison marks of s0 to s31. `pin` is the tile the work must run on.
firstPins: the tile of the first dispatch becomes the making tile (R21, first record of a launch). first: the first record of
a launch, whose join block is notified when it commits (R29). lastAct: the handler of a dual mismatch of its own region, which
is killed when it ends (19 R289). -/
structure Task where
  kind : BitVec 2
  lane : Nat
  pc : Word
  regs : List Word
  marks : BitVec 32
  pin : Option Nat
  islocal : Bool
  nomig : Bool
  firstPins : Bool
  first : Bool
  lastAct : Bool
  ticket : Option Nat
deriving DecidableEq, Repr

/-- Work that waits: since mesh time t0 at level `level` (19 R286); `page`: waits for a page until `replay` (R38);
`die`: must run on this die (R40). -/
structure Ready where
  task : Task
  t0 : Nat
  level : Nat
  page : Bool
  die : Option Nat
  tileNot : List Nat
deriving DecidableEq, Repr

/-- A message parked in or on the way to a mailbox (02 R33-R35). -/
structure Mail where
  rid : Nat
  tile : Nat
  srcTile : Nat
  seq : BitVec 32
  window : Nat
  ready : Ready
deriving DecidableEq, Repr

/-- A message that waits for its answer (08 R160): the sender's strand, its task, its token. -/
structure Flight where
  rid : Nat
  sid : Nat
  taskNo : Nat
  token : SReg
  srcTile : Nat
  dest : Word
  code : Word
  payload : List Word
  marks : BitVec 32
deriving DecidableEq, Repr

/-- An operation on a barrier or a deque, or a verdict, that waits for the commit (08 R153, 11 R236). -/
inductive Deferred where
  | push (hi lo aux tag : BitVec 32)
  | arrive (handle : Word)
  | expect (handle amount : Word)
  | free (handle : Word)
  | verdict (ticket : Nat) (code : Nat)
deriving DecidableEq, Repr

/-- A deque entry (08 R161) with its region. -/
structure DqEntry where
  rid : Nat
  hi : BitVec 32
  lo : BitVec 32
  aux : BitVec 32
  tag : BitVec 32
deriving DecidableEq, Repr

/-- What an abort undoes (08 R152). -/
inductive Undo where
  | barrier (handle : Word)
  | take (tile : Nat) (e : DqEntry)
deriving DecidableEq, Repr

/-- One write of a register with its poison. -/
inductive RegWrite where
  | s (r : SReg) (x : Word) (mark : Bool)
  | v (r : VReg) (x : Vec) (bytes : BitVec 64) (marks : BitVec 8)
  | k (r : KReg) (x : Option Stream) (mark : Bool)
deriving DecidableEq, Repr

/-- A load under way: the writes it will perform (05 R101). -/
structure OutLoad where
  writes : List RegWrite
deriving DecidableEq, Repr

/-- One aligned 8-byte unit of the store buffer (02 R37): where it goes, which bytes, their values, poison;
va is the virtual address of the unit and size the exponent of its page, for `tlbinv` (20 R304); slot holds the key its line
is encrypted under (21 R314); issued names the store among those in the buffer, for the stores counter (05 R101). -/
structure BufUnit where
  key : Nat
  va : Nat
  size : Nat
  slot : Option Nat
  host : Bool
  mask : BitVec 8
  data : BitVec 64
  poison : Bool
  scope : Option (BitVec 2)
  issued : Nat
deriving DecidableEq, Repr

/-- An aligned 8-byte unit that a load, or the builder for a primitive, has read before its other units (03 R53): its place in
units of 8 bytes, those of the tile's scratchpad counted from the scratchpad window's base, whether past the L1, and its bytes with
their marks. -/
structure UnitRead where
  unit : Nat
  slot : Option Nat
  host : Bool
  past : Bool
  bytes : List (Byte × Bool)
deriving DecidableEq, Repr

/-- One 8-byte unit of a scratchpad store that is not performed yet (03 R49, R53, 14 R257): the offset of the store's first byte,
the unit's bytes from there with their poison; issued names its instruction among the stores of the stores counter (05 R101), elem
the element of a `vstx` (07 R139). -/
structure SpadStore where
  off : Nat
  elem : Nat
  bytes : List (Nat × Byte × Bool)
  issued : Nat
deriving DecidableEq, Repr

/-- A matrix instruction in its check or accepted (09 R186): fn code of R97, operands as read, `fmt` fields. -/
structure MatOp where
  fn : Nat
  d : Nat
  addr : Word
  scales : Word
  mask : Word
  b : Word
  af : BitVec 4
  bf : BitVec 4
  scm : Nat
  z : Bool
  src : Vec
  srcMarks : BitVec 8
deriving DecidableEq, Repr

/-- Why a strand does not issue (02 R20). -/
inductive Wait where
  | no
  | stalled                       -- the instruction at pc is tried again after a completion
  | paused (n : Nat)              -- at most n core cycles more, at least n - 64 (01 R15)
  | parked                        -- an access waits for `replay` (R38); the instruction is tried again
  | check (op : MatOp)            -- a matrix instruction in its check (R186)
  | acquire                       -- an acquiring atomic of a scope-trap region waits until it is performed (03 R61)
  | barrier (pd : PReg) (handle : Word) (phase : BitVec 32)
  | released (pd : PReg) (ok : Bool)   -- a saved waiter that a barrier has released meanwhile: it returns when it goes on
  | compare                       -- a dual run at its `tend` waits for the other (R41)
deriving DecidableEq, Repr

/-- The registers and the state of one strand (02 R16, 19 R279, 08 R151-R153). -/
structure Strand where
  s : Vector Word 32
  v : Vector Vec 32
  p : Vector Word 8
  a : Vector (BitVec 32768) 4
  k : Vector (Option Stream) 16
  sMark : BitVec 32
  vMark : Vector (BitVec 8) 32
  pMark : BitVec 8
  aMark : Vector (BitVec 1024) 4
  aErr : Vector (BitVec 1024) 4      -- elements with a parity error not yet read as C (09 R190)
  kMark : BitVec 16
  pc : Word
  groupPc : Word
  sts : Word
  pfxr : Word
  epc : Word
  ecause : Word
  edetail : Word
  ests : Word
  kscratch : Word
  svsts : Word
  regstat : Word
  stackbase : Word
  cycles : Nat
  smiss : Nat
  pendS : BitVec 32
  pendV : BitVec 32
  pendK : BitVec 16
  loads : List OutLoad
  buf : List BufUnit
  /-- the buffered units before this place take no later store: a release stands after them (06 R124, R130) -/
  closed : Nat
  spadOut : List SpadStore
  /-- units read ahead of the next instruction's load, and those of the instruction under way (03 R53) -/
  ahead : List UnitRead
  seen : List UnitRead
  effects : List Byte
  deferred : List Deferred
  records : List (Task × Bool)
  joins : List (Nat × Int)
  undo : List Undo
  counts : List Nat
  wait : Wait
  /-- the instruction at pc is a matrix instruction whose check waits for an earlier `copyw` (09 R186, R191) -/
  inCheck : Bool
  task : Option Task
  rid : Nat
  taskNo : Nat
  /-- the supervisor has performed an act of R278 that makes the trapped task irrevocable -/
  svIrrev : Bool
  verdictGiven : Bool
  /-- the label of the dual pair this run belongs to (R41) -/
  dual : Option Nat
  /-- the strand is saved and waits for its registers to be restored -/
  saved : Bool
deriving DecidableEq, Repr

/-- The stop of one dual run at its `tend`: its signature and what it would commit (02 R41). -/
structure DualRun where
  label : Nat
  rid : Nat
  ready : Ready
  tiles : List Nat
  cores : List Nat
  running : List Nat
  done : List (List Byte × Nat)
deriving DecidableEq, Repr

/-! ### Cores, tiles, dies -/

/-- A cached leaf translation (20 R298): page base, page size exponent, leaf entry. -/
structure Tlb where
  base : Nat
  size : Nat
  entry : BitVec 64
  pid : Nat
deriving DecidableEq, Repr

/-- One L1 data line with the poison marks of its fill (03 R50). -/
structure L1Line where
  data : BitVec 512
  marks : BitVec 8
deriving DecidableEq, Repr

/-- An accepted matrix instruction (09 R186) with its copy of the code table (R188). -/
structure Accepted where
  op : MatOp
  sid : Nat
  taskNo : Nat
  table : BitVec 128
deriving DecidableEq, Repr

structure Core where
  l1 : List (Nat × L1Line)
  tlb : List Tlb
  weight : BitVec 524288
  form : BitVec 2048            -- 2 bits for each 64-byte block (09 R179)
  wPoison : BitVec 1024
  owner : Option Nat
  table : BitVec 128            -- entry j in byte j (04 R73)
  tableOwner : Option Nat
  mq : List Accepted
  last : Nat
  freq : Nat                    -- MHz
  volt : Nat                    -- LDO, mV (22 R325)
  terr : Nat
  stretch : Nat
deriving DecidableEq, Repr

/-- A command of major 0x28 in the copy engine of its tile (08 R171). op: 0 copy, 1 put, 2 put.o, 3 gather, 4 copyw.
super: issued in supervisor mode; order: its number; status: set when a put has arrived at its target; parked: waits for
`replay`. started: its tests passed, and a `copyw` has taken the buffer (09 R179); listed: the bytes of its list that a `gather`
has read (08 R171); srcs: the element addresses in it;
moved: the 8-byte destination units performed; half: bytes performed ahead of a unit that a page fault cut (08 R171); bad: the
weight blocks that are poisoned since it wrote into them (08 R176). -/
structure CopyCmd where
  op : Nat
  sid : Nat
  taskNo : Nat
  rid : Nat
  token : SReg
  super : Bool
  dst : Word
  src : Word
  len : Word
  acq : Bool
  rel : Bool
  scope : BitVec 2
  order : Nat
  status : Option Word
  parked : Bool
  started : Bool
  listed : List Byte
  srcs : List Nat
  moved : List Nat
  half : List Nat
  bad : List Nat
deriving DecidableEq, Repr

/-- A `venc` in its encoder (08 R177). no: its number; listed: the bytes of its descriptor read so far (08 R171); frame: the descriptor once it
has passed its tests; rows: the places of its planes still to translate; label: that of the frame's free bitstream; wrote: the
bytes performed so far. -/
structure EncCmd where
  no : Nat
  sid : Nat
  taskNo : Nat
  rid : Nat
  token : SReg
  super : Bool
  desc : Word
  acq : Bool
  rel : Bool
  scope : BitVec 2
  parked : Bool
  listed : List Byte
  frame : Option (List Byte)
  rows : List Nat
  label : Nat
  wrote : Nat
deriving DecidableEq, Repr

/-- A line that a command under way, named by its number, has written for its strand, which leaves the L1 of the strand's core
when the command completes (03 R50). -/
structure Wrote where
  rid : Nat
  sid : Nat
  cmd : Nat
  line : Nat
deriving DecidableEq, Repr

/-- A triangle hit (11 R228): t, u, v as FP32 bits, instance, primitive, micromap index. -/
structure Hit where
  t : Nat
  u : Nat
  v : Nat
  inst : Nat
  prim : Nat
deriving DecidableEq, Repr

/-- A ray under way (11 R228). record: its record as read; stack: newest first; spilled: entries in SPILL; tris: triangles of
the leaf still to test; ask, asked, answer: the any-hit question outstanding; err: a micromap entry was bad (R232). -/
structure Ray where
  idx : Nat
  record : List Byte
  stack : List (Nat × Nat)
  spilled : Nat
  best : Option Hit
  tcur : Nat
  pending : List Hit
  tris : List Nat
  ask : Option Nat
  asked : Option Hit
  answer : Option Nat
  ended : Bool
  err : Bool
deriving DecidableEq, Repr

/-- A `pairgo` or `raygo` that waits in its tile's relay unit (11 R220). no: its number. -/
structure RelayCmd where
  no : Nat
  ray : Bool
  super : Bool
  sid : Nat
  taskNo : Nat
  rid : Nat
  token : SReg
  desc : Word
  acq : Bool
  rel : Bool
  scope : BitVec 2
deriving DecidableEq, Repr

/-- The relay unit of a tile (11 R220). trav: the traversal it works on; frontier: newest first; cur: the pair popped; ask:
the question outstanding with its pair; owed: a handler task that waits for room; next, limit: rays not yet started. -/
structure Relay where
  cmds : List RelayCmd
  trav : Option Nat
  frontier : List (Nat × Nat)
  cur : Option (Nat × Nat)
  ask : Option (Nat × Nat × Nat)
  verdict : Option Nat
  owed : List Ready
  queue : List (Nat × Ready)
  rays : List Ray
  next : Nat
  limit : Nat
  parked : Bool
deriving DecidableEq, Repr

/-- A traversal under way (11 R216, R224); no: its command's number; orderA: the order list of the scene's generation; held: strands with their tasks whose
verdict took effect before their commit, which later handlers wait for (11 R225). -/
structure Trav where
  no : Nat
  rid : Nat
  super : Bool
  sid : Nat
  taskNo : Nat
  token : SReg
  ray : Bool
  rel : Bool
  scope : BitVec 2
  desc : List Byte
  tile : Nat
  pins : List (Nat × Nat)
  poolA : Word
  poolB : Word
  primsA : Word
  orderA : Word
  made : Nat
  code : Nat
  detail : Nat
  noVerdict : Nat
  held : List (Nat × Nat)
deriving DecidableEq, Repr

structure Tile where
  spad : List Host.Cell
  spadPoison : List Nat
  deque : List DqEntry             -- oldest first
  dqReserved : List Nat            -- strands that reserved a place (08 R163)
  copies : List CopyCmd
  tlb : List Tlb
  relayTlb : List Tlb
  relay : Relay
  seq : BitVec 32                  -- sequence number of the next accepted message (02 R33)
  hot : Bool
  overi : Bool
  temp : BitVec 8
  samples : List Int
  lastReading : Int
  same : Nat
  budget : Nat
  wheld : Nat
  idle : Nat
deriving DecidableEq, Repr

structure Barrier where
  count : Nat
  refs : Nat
  arrived : Nat
  pend : Int
  ph : BitVec 32
  scope : BitVec 2
  broken : Bool
  serial : BitVec 15
  rid : Nat
  spent : Nat              -- mesh cycles the watchdog has counted in this phase
  running : Bool           -- the watchdog runs (19 R291)
deriving DecidableEq, Repr

/-- A pin (10 R207). -/
structure Pin where
  rid : Nat
  hdr : Nat
  gen : BitVec 32
deriving DecidableEq, Repr

/-- A primitive the builder has read (10 R201), its coordinates as FP32 bits. -/
structure Prim where
  idx : Nat
  coords : List Nat
  w : Nat
deriving DecidableEq, Repr

/-- A builder command (10 R209, R212), no its place in its strand's issue order. kind: 0 build, 1 refit, 2 rebal, and parked
3 gpin, 4 gunpin, 5 bquery; phase: 0 waits for the lock, 1 reads the current generation, 2 scans primitives, 3 writes blocks,
4 publishes, 5 gives the lock up after the failure `fail`. depth: S[b]; ahead: units of the next primitive read already (10 R201).
topo: child0, child1 and the count of each node of the current generation. -/
structure BuildCmd where
  kind : Nat
  no : Nat
  super : Bool
  sid : Nat
  taskNo : Nat
  rid : Nat
  token : SReg
  hdr : Word
  depth : Word
  acq : Bool
  rel : Bool
  scope : BitVec 2
  phase : Nat
  header : List Byte
  order : List Nat             -- primitives still to scan
  ahead : List UnitRead
  prims : List Prim
  topo : List (Nat × Nat × Nat)
  dropped : Nat
  start : Nat
  blocks : List (Nat × List Byte)
  fail : Option Word           -- status found while nodes are written
  nodes : Nat
  maxDepth : Nat
  sah : Nat
  overlap : Nat
  parked : Bool
deriving DecidableEq, Repr

structure Die where
  barriers : List (Nat × Barrier)
  serials : List (Nat × BitVec 15)
  pins : List Pin
  builds : List BuildCmd
  buildTlb : List Tlb
  encTlb : List Tlb
  encCmds : List EncCmd
  streams : List (Nat × Nat)
  keys : List (Nat × Nat)
  rekeyed : List Nat                -- key slots whose first key since the die was cleared is gone (21 R315)
  cecount : Nat
  uecount : Nat
  lastue : Word
  credits : List (Nat × List Nat)   -- region, credit for each level (19 R286)
  sensorCorrections : Nat
  sprintUsed : Nat
  dropped : Nat
  idle : Nat
deriving DecidableEq, Repr

/-! ### Regions and partitions -/

/-- One scratchpad segment (03 R46). -/
structure Seg where
  base : Nat
  size : Nat
  swz : Nat
deriving DecidableEq, Repr

/-- One write-owner entry in force (03 R62). -/
structure WoEntry where
  base : Nat
  size : Nat
  owner : Nat
  phase : Nat
  allph : Bool
deriving DecidableEq, Repr

/-- A lane (02 R23, R24, R28): c the capacity exponent, o the offset; chain: continuations on the overflow chain with
their join block. -/
structure Lane where
  disabled : Bool
  c : Nat
  o : Nat
  queue : List Ready
  reserved : Nat
  chain : List (Nat × Ready)
deriving DecidableEq, Repr

/-- Region states (19 R284). -/
inductive RState where
  | running | preempting | preempted | killed | placing | ended
deriving DecidableEq, Repr

/-- What ends a launch: nothing, a strand's token, a host status word with the queue and the tag of its NOTIFY until that request
has ended (21 R318, R319), or the status word of a fabric launch. -/
inductive Origin where
  | no
  | strand (sid taskNo : Nat) (token : SReg)
  | host (pid : Nat) (notify : Option (Nat × BitVec 32)) (status : Word) (vector : Nat)
  | fabric (id : LaunchId)
deriving DecidableEq, Repr

structure Region where
  pid : Nat
  block : Word
  parent : Option Nat
  state : RState
  prio : Nat
  ordered : Bool
  dual : Bool
  fixed : Bool
  debug : Bool
  scopetrap : Bool
  mailbox : Nat
  rhome : Nat
  agek : Nat
  runlim : Nat
  drainlim : Nat
  kphase : BitVec 32
  fdomain : BitVec 32
  fhandler : Word
  globals : Word
  qbudget : Nat
  bbudget : Nat
  pbudget : Nat
  bwdog : Nat
  quota : Nat
  lanes : List Lane
  segtab : Word
  segs : List (Option Seg)
  winjoin : Word
  wotab : Word
  wo : List WoEntry
  savearea : Word
  qarea : Word
  tilemap : Word
  /-- sprint lease (22 R331): remaining span, slots held on each die -/
  leaseLeft : Nat
  leaseActive : Bool
  leaseSlots : List (Nat × Nat)
  counters : List Nat            -- eight 64-bit counters of R282
  /-- tiles by logical number, and the shape (02 R31) -/
  tiles : List Nat
  want : Option Nat              -- scattered count still to place
  rectW : Nat
  rectH : Nat
  posns : List (Nat × Nat)
  /-- placement inherited from the parent (02 R30) -/
  inherits : Bool
  /-- RESUME was accepted and waits for tiles; a save waits for `replay` (19 R284, R288) -/
  resuming : Bool
  saveParked : Bool
  requeue : List Ready
  faults : List Ready
  mail : List Mail
  windows : Nat
  charged : Nat × Nat × Nat      -- what was charged to the parent
  qused : Nat
  bused : Nat
  pused : Nat
  barriersHeld : Nat
  pinsHeld : Nat
  preemptAt : Nat
  strandsSaved : List (Nat × Strand)   -- logical tile and slot (tile * 16 + slot) and the saved strand
  dequesSaved : List (Nat × List DqEntry)
  relaySaved : List (Nat × Relay)
  copiesSaved : List (Nat × CopyCmd)   -- parked copy-engine commands, by logical tile (08 R171)
  dispatched : Nat
  tolerance : Option Nat
  origin : Origin
  first : Option Ready
  generation : Option LaunchId   -- the fabric launch it belongs to
  points : List (Nat × Int × Nat)   -- measured in this phase: clock, voltage offset, energy per committed task (22 R330)
deriving DecidableEq, Repr

structure Partition where
  dies : List Nat
  ports : BitVec 16
  kbase : Nat
  kcount : Nat
  ptroot : Word
  prqbase : Word
  root : Nat                     -- the default block's region
  tolerance : Option Nat
deriving DecidableEq, Repr

/-- An atomic or an exact operation on its way to its home (06 R125, R127-R129). An `xmerge` goes to the home of its slot Y
first (`xmerge`: Y's place and its key's slot), then, with what it read there, to the home of X (`xmerged`, 04 R81). -/
inductive HomeKind where
  | amo (op : Nat) | cas (expected : Word) (mark : Bool) | xaddF32 | xaddF64
  | xmerge (other : Nat) (otherSlot : Option Nat) | xmerged (y : BitVec 512)
  | xclr | xrnd (f64 : Bool) (mode : BitVec 2)
deriving DecidableEq, Repr

/-- pid, va and size: the partition, the virtual address and its page's size exponent, for `tlbinv` (20 R304) and the
scope-miss trap (03 R61); also: the same of the second slot of an `xmerge` while it is unread; acq: the scope of an acquiring operation, else 0; rel: the scope of a releasing one. -/
structure HomeOp where
  kind : HomeKind
  sid : Nat
  taskNo : Nat
  key : Nat
  slot : Option Nat
  pid : Nat
  va : Nat
  size : Nat
  also : Option (Nat × Nat)
  x : Word
  xMark : Bool
  d : SReg
  e : SReg
  acq : BitVec 2
  rel : Option (BitVec 2)
deriving DecidableEq, Repr

/-- A `launch` whose packet met a page fault (08 R159): it waits for `replay`, its token pending. -/
structure LaunchCmd where
  sid : Nat
  taskNo : Nat
  rid : Nat
  super : Bool
  token : SReg
  addr : Word
  parked : Bool
deriving DecidableEq, Repr

/-- What another package asks of device memory homed here (21 R324): n bytes, a store, an operation of a home unit. -/
inductive FabricOp where
  | read (n : Nat) | write (data : List Byte) | home (kind : HomeKind) (x : Word) (xMark : Bool)
deriving DecidableEq, Repr

/-- A fabric launch as a package sees it (21 R322, R323). place: this package's list index less 1; packages: fabric id and
partition of each package, known once it has placed; dies: the dies of the
partition of each package that has placed, with its place (R324); key: which link key was agreed (22 R338); notify: the queue
and the tag of its NOTIFY at the origin, until that request has ended (R318, R319). -/
structure Fabric where
  id : LaunchId
  pid : Nat
  rid : Option Nat
  place : Nat
  packages : List (Nat × Nat)
  dies : List (Nat × List Nat)
  key : Nat
  started : Bool
  status : Option Word
  vector : Nat
  notify : Option (Nat × BitVec 32)
deriving DecidableEq, Repr

/-- What the device sends to the host: completions, interrupts, reports. -/
inductive HostMsg where
  | completion (tag : BitVec 32) (status : Nat) (data : List Byte) (poison : List Nat)
  | interrupt (vector : Nat)
  | faultRecord (pid cause : Nat) (detail addr : Word)
  | recovery (stage : Nat)
  | report (bytes : List Byte)
  | managed (ok : Bool)
  | fabricPacket (gen pkg part : Nat) (ports : BitVec 16) (report packet : List Byte)
  | fabricPlaced (id : LaunchId) (place : Nat) (dies : List Nat) (report : List Byte)
  | fabricRefused (id : LaunchId) (place : Nat)
  | fabricStart (id : LaunchId)
  | fabricKill (id : LaunchId)
  | fabricReply (data : List Byte) (poison : List Nat)
deriving DecidableEq, Repr

/-- One entry of the operating-point table (22 R330). -/
structure OpPoint where
  pid : Nat
  kernel : Nat
  phase : Nat
  freq : Nat
  offset : Int
  energy : Nat
deriving DecidableEq, Repr

/-- A host request on a queue of a partition (21 R317); a header with reserved values is one too. -/
inductive HostReq where
  | mrd (len : Nat) (tag : BitVec 32) (addr : Word)
  | mwr (tag : BitVec 32) (addr : Word) (data : List Byte)
  | fence (tag : BitVec 32)
  | launch (tag : BitVec 32) (payload : List Byte)
  | fabricLaunch (tag : BitVec 32) (payload : List Byte)
  | header (type len : Nat) (tag : BitVec 32) (addr : Word)
deriving DecidableEq, Repr

/-- The inputs and choices still to come (the model's own, log 1). -/
inductive Input where
  | issue (core : Nat)
  | event (i : Instr)
  | elapse (mesh core : Nat)
  | launchRetry (idx : Nat)            -- a `launch` that waited for a page reads its packet again (08 R159)
  | engineUnit (tile idx unit : Nat)   -- one destination unit of a copy-engine command is performed (03 R53, R59)
  | readAhead (sid va : Nat) (past : Bool)   -- a unit of a strand's next load is read before the others (03 R53)
  | buildAhead (die idx va : Nat)      -- a unit of the builder's next primitive is read before the others (10 R201)
  | spadStore (sid idx : Nat)          -- a unit of a scratchpad store of a strand is performed (03 R49, R53)
  | evictLine (core line : Nat)
  | evictTlb (unit page : Nat)
  | fabricKilled (id : LaunchId)       -- another package of the launch has killed its region (21 R323)
  | fabricReport (id : LaunchId) (place : Nat) (who : Nat × Nat) (dies : List Nat) (verified : Bool)   -- a package, by fabric id
                                       -- and partition, has placed (R322, R324, 22 R338)
  | fabricRequest (pid port pa : Nat) (op : FabricOp)      -- another package's access to memory homed here (21 R321, R324)
  | outsideStore (key : Nat) (data : List Byte)            -- the host, or another package, stores to its own memory (R319, R324)
  | request (pid queue : Nat) (r : HostReq)   -- a request with reserved values (R317), or one that has waited (R318)
deriving DecidableEq, Repr

/-! ### The package -/

structure State where
  mem : List Host.Cell
  memPoison : List Nat
  lineKey : List (Nat × Nat)
  lineScope : List (Nat × (BitVec 2 × Nat))
  meshTime : Nat
  strands : List (Nat × Strand)
  cores : List (Nat × Core)
  tiles : List (Nat × Tile)
  dies : List (Nat × Die)
  partitions : List (Nat × Partition)
  regions : List (Nat × Region)
  homeQ : List HomeOp
  written : List Wrote
  msgs : List Flight
  launches : List LaunchCmd
  travs : List (Nat × Trav)
  duals : List (Nat × DualRun)
  fixedRuns : List (Nat × Nat × List Nat)   -- partition, kernel id, tiles of its last run (02 R32)
  pageReqs : Nat                            -- page requests lost for want of a ring (20 R301)
  ops : List OpPoint
  linkUp : Bool
  hostOut : List HostMsg
  waiting : List (Nat × Nat × HostReq)      -- host requests that wait for a NOTIFY of their partition's queue (21 R318)
  hostDropped : Nat
  portDropped : Nat
  fabricCount : Nat
  quotaEnd : Nat                            -- mesh time at which the quota window ends (19 R286)
  fabrics : List Fabric
  disabled : List Nat                       -- tile positions not enabled
  ports : BitVec 16
  config : ConfigRecord
  minVersion : Nat
  mrs : List (List Byte)
  bootStage : Nat
  recovery : Bool
  bootHash : List Byte                      -- the hash of the record that boot stage 2 measured (22 R336)
  configHash : List Byte                    -- the hash of the record in force (22 R338)
  -- the model's own
  agenda : List Input
  cur : Nat
  curCore : Nat
  freeCtr : Nat
  nextBlock : Nat
  nextId : Nat
deriving DecidableEq, Repr

/-! ### Fresh parts and the state after reset -/

/-- A strand at the start state of 02 R17 with nothing given to it: an idle strand. -/
def Strand.fresh : Strand :=
  { s := Vector.replicate 32 0, v := Vector.replicate 32 0
    p := (Vector.replicate 8 0).set 0 (BitVec.allOnes 64), a := Vector.replicate 4 0, k := Vector.replicate 16 none
    sMark := 0, vMark := Vector.replicate 32 0, pMark := 0, aMark := Vector.replicate 4 0
    aErr := Vector.replicate 4 0, kMark := 0
    pc := 0, groupPc := 0, sts := 0, pfxr := 0, epc := 0, ecause := 0, edetail := 0, ests := 0, kscratch := 0
    svsts := 0, regstat := 0, stackbase := 0, cycles := 0, smiss := 0, pendS := 0, pendV := 0, pendK := 0
    loads := [], buf := [], closed := 0, spadOut := [], ahead := [], seen := [], effects := [], deferred := [], records := [], joins := [], undo := [], counts := []
    wait := .no, inCheck := false, task := none, rid := 0, taskNo := 0, svIrrev := false, verdictGiven := false, dual := none
    saved := false }

/-- The nominal voltage of a clock, in mV within the range of 22 R325. -/
def nominalVolt (f : Nat) : Nat := 300 + Config.nominalStep f % 181

/-- A core after reset: weight buffer 0, dense and untagged (09 R179), code table untagged (04 R73), clock 1,800 MHz
(22 R327). -/
def Core.fresh : Core :=
  { l1 := [], tlb := [], weight := 0, form := 0, wPoison := 0, owner := none, table := 0, tableOwner := none, mq := []
    last := 3, freq := 1800, volt := nominalVolt 1800, terr := 0, stretch := 0 }

def Relay.fresh : Relay :=
  { cmds := [], trav := none, frontier := [], cur := none, ask := none, verdict := none, owed := [], queue := [], rays := []
    next := 0, limit := 0, parked := false }

def Tile.fresh : Tile :=
  { spad := [], spadPoison := [], deque := [], dqReserved := [], copies := [], tlb := [], relayTlb := []
    relay := Relay.fresh, seq := 0, hot := false, overi := false, temp := 0, samples := [], lastReading := 0, same := 0
    budget := 0, wheld := 0, idle := 3 }

def Die.fresh : Die :=
  { barriers := [], serials := [], pins := [], builds := [], buildTlb := [], encTlb := [], encCmds := [], streams := []
    keys := [], rekeyed := [], cecount := 0, uecount := 0, lastue := 0, credits := [], sensorCorrections := 0, sprintUsed := 0
    dropped := 0, idle := 4 }

/-- No configuration record applied yet (22 R337; DESIGN CHOICE, log 3). -/
def ConfigRecord.fresh : ConfigRecord :=
  { image := [], channelsOff := [], disabled := [], ports := 0, parts := [], coreLimit := 1800, power := 2000, sprintSlots := 0, sprintMax := 0
    version := 0 }

/-- The tile positions of column 15 of each die: 16 of the 256 are off, so that 240 are enabled (00; DESIGN CHOICE,
log 3). -/
def defaultDisabled : List Nat :=
  (List.range Config.meshRows).flatMap (fun r => (List.range 4).map (fun d => r * Config.meshCols + d * 16 + 15))

/-- The package right after reset. -/
def State.reset : State :=
  { mem := [], memPoison := [], lineKey := [], lineScope := [], meshTime := 0, strands := [], cores := [], tiles := []
    dies := [], partitions := [], regions := [], homeQ := [], written := [], msgs := [], launches := [], travs := [], duals := [], fixedRuns := []
    pageReqs := 0, ops := [], linkUp := false, hostOut := [], waiting := [], hostDropped := 0, portDropped := 0, fabricCount := 0, quotaEnd := 2 ^ 20
    fabrics := [], disabled := defaultDisabled, ports := 0, config := ConfigRecord.fresh, minVersion := 0
    mrs := List.replicate 8 (List.replicate 64 0), bootStage := 0, recovery := false, bootHash := [], configHash := []
    agenda := [], cur := 0, curCore := 0, freeCtr := 0, nextBlock := 0x70000000, nextId := 1 }

end Sys2Proof.Machine
end

