-- ==== Sys2Proof/Machine/Regs.lean ====
section
/-! DEFINITION. Where each part of the state lies, its one reader and its one writer; register files; identities of
tiles, cores and strands. -/

namespace Sys2Proof.Machine

/-! ### Identities: tile = row * 64 + column, core = tile * 4 + c, strand = tile * 16 + 4 c + i -/

def tileOf (sid : Nat) : Nat := sid / 16
def coreOf (sid : Nat) : Nat := sid / 4
def tileRow (t : Nat) : Nat := t / Config.meshCols
def tileCol (t : Nat) : Nat := t % Config.meshCols

/-- Die d sits at column d mod 4 and row d div 4 of the die grid (21). -/
def dieOfTile (t : Nat) : Nat := tileRow t / Config.dieEdge * 4 + tileCol t / Config.dieEdge
def dieOf (sid : Nat) : Nat := dieOfTile (tileOf sid)

/-- The tiles of a die, row-major. -/
def tilesOfDie (d : Nat) : List Nat :=
  (List.range 256).map (fun i => (d / 4 * 16 + i / 16) * Config.meshCols + (d % 4 * 16 + i % 16))

/-! ### Parts of the state -/

def State.strand (s : State) (i : Nat) : Strand := (lookupKey s.strands i).getD Strand.fresh
def State.setStrand (s : State) (i : Nat) (t : Strand) : State := { s with strands := putKey s.strands i t }
def State.onStrand (s : State) (i : Nat) (f : Strand → Strand) : State := s.setStrand i (f (s.strand i))
def State.me (s : State) : Strand := s.strand s.cur
def State.onMe (s : State) (f : Strand → Strand) : State := s.onStrand s.cur f

def State.core (s : State) (i : Nat) : Core := (lookupKey s.cores i).getD Core.fresh
def State.setCore (s : State) (i : Nat) (c : Core) : State := { s with cores := putKey s.cores i c }
def State.onCore (s : State) (i : Nat) (f : Core → Core) : State := s.setCore i (f (s.core i))
def State.tile (s : State) (i : Nat) : Tile := (lookupKey s.tiles i).getD Tile.fresh
def State.setTile (s : State) (i : Nat) (c : Tile) : State := { s with tiles := putKey s.tiles i c }
def State.onTile (s : State) (i : Nat) (f : Tile → Tile) : State := s.setTile i (f (s.tile i))
def State.die (s : State) (i : Nat) : Die := (lookupKey s.dies i).getD Die.fresh
def State.setDie (s : State) (i : Nat) (c : Die) : State := { s with dies := putKey s.dies i c }
def State.onDie (s : State) (i : Nat) (f : Die → Die) : State := s.setDie i (f (s.die i))

def State.region (s : State) (i : Nat) : Option Region := lookupKey s.regions i
def State.setRegion (s : State) (i : Nat) (r : Region) : State := { s with regions := putKey s.regions i r }
def State.onRegion (s : State) (i : Nat) (f : Region → Region) : State :=
  match s.region i with
  | some r => s.setRegion i (f r)
  | none => s
def State.partition (s : State) (i : Nat) : Option Partition := lookupKey s.partitions i
def State.setPartition (s : State) (i : Nat) (p : Partition) : State := { s with partitions := putKey s.partitions i p }
def State.trav (s : State) (i : Nat) : Option Trav := lookupKey s.travs i
def State.onTrav (s : State) (i : Nat) (f : Trav → Trav) : State :=
  match s.trav i with
  | some t => { s with travs := putKey s.travs i (f t) }
  | none => s

/-- The partition a die belongs to. -/
def State.partOfDie (s : State) (d : Nat) : Option Nat :=
  (s.partitions.find? (fun p => p.2.dies.contains d)).map (·.1)

/-- The region of the current strand. -/
def State.myRegion (s : State) : Option Region := s.region s.me.rid

def State.pidOfRegion (s : State) (rid : Nat) : Nat := ((s.region rid).map (·.pid)).getD 0

/-! ### Register files (02 R16): s0 and p0 read as constants, writes to them are discarded -/

def Strand.rd (t : Strand) (r : SReg) : Word := if r = 0 then 0 else t.s[r.toNat]'r.isLt
def Strand.rdV (t : Strand) (r : VReg) : Vec := t.v[r.toNat]'r.isLt
def Strand.rdP (t : Strand) (r : PReg) : Word := if r = 0 then BitVec.allOnes 64 else t.p[r.toNat]'r.isLt
def Strand.rdA (t : Strand) (r : AReg) : BitVec 32768 := t.a[r.toNat]'r.isLt
def Strand.rdK (t : Strand) (r : KReg) : Option Stream := t.k[r.toNat]'r.isLt

def bitOf {w : Nat} (x : BitVec w) (i : Nat) : Bool := x.getLsbD i
def setBit {w : Nat} (x : BitVec w) (i : Nat) (b : Bool) : BitVec w :=
  if b then x ||| BitVec.twoPow w i else x &&& ~~~ BitVec.twoPow w i

/-- Poison marks (06 R109, R110, 07 R136, 12 R237); s0 and p0 are never marked. -/
def Strand.markS (t : Strand) (r : SReg) : Bool := r != 0 && bitOf t.sMark r.toNat
def Strand.markP (t : Strand) (r : PReg) : Bool := r != 0 && bitOf t.pMark r.toNat
def Strand.markV (t : Strand) (r : VReg) : BitVec 8 := t.vMark[r.toNat]'r.isLt
def Strand.markK (t : Strand) (r : KReg) : Bool := bitOf t.kMark r.toNat

/-- Writes S[r], with its poison mark (R16, R109). -/
def Strand.wr (t : Strand) (r : SReg) (x : Word) (m : Bool) : Strand :=
  if r = 0 then t else { t with s := t.s.set r.toNat x r.isLt, sMark := setBit t.sMark r.toNat m }

/-- Writes P[r] in all 64 bits, with its poison mark (R16, R110). -/
def Strand.wrP (t : Strand) (r : PReg) (x : Word) (m : Bool) : Strand :=
  if r = 0 then t else { t with p := t.p.set r.toNat x r.isLt, pMark := setBit t.pMark r.toNat m }

def Strand.wrV (t : Strand) (r : VReg) (x : Vec) (m : BitVec 8) : Strand :=
  { t with v := t.v.set r.toNat x r.isLt, vMark := t.vMark.set r.toNat m r.isLt }

def Strand.wrA (t : Strand) (r : AReg) (x : BitVec 32768) (m : BitVec 1024) : Strand :=
  { t with a := t.a.set r.toNat x r.isLt, aMark := t.aMark.set r.toNat m r.isLt, aErr := t.aErr.set r.toNat 0 r.isLt }

/-- The elements of an accumulator that have a parity error (09 R190). -/
def Strand.setErrA (t : Strand) (r : AReg) (e : BitVec 1024) : Strand := { t with aErr := t.aErr.set r.toNat e r.isLt }
def Strand.errA (t : Strand) (r : AReg) : BitVec 1024 := t.aErr[r.toNat]'r.isLt

def satUp (n : Nat) : Nat := min (n + 1) (2 ^ 64 - 1)
def State.countUe (s : State) (d : Nat) : State := s.onDie d (fun x => { x with uecount := satUp x.uecount })
def State.countCe (s : State) (d : Nat) : State := s.onDie d (fun x => { x with cecount := satUp x.cecount })

def Strand.wrK (t : Strand) (r : KReg) (x : Option Stream) (m : Bool) : Strand :=
  { t with k := t.k.set r.toNat x r.isLt, kMark := setBit t.kMark r.toNat m }

/-- The 64-bit mask with bit i for byte i spread to 512 bits. -/
def byteMask (m : BitVec 64) : Vec := vecOfFn (fun i => if bitOf m i then 0xFF else 0)

/-- Writes the enabled bytes of V[r] (01 R10) and the marks of the units touched: a unit written whole takes its new
mark, a unit written in part adds it (07 R136). -/
def Strand.wrVBytes (t : Strand) (r : VReg) (x : Vec) (en : BitVec 64) (m : BitVec 8) : Strand :=
  let k := byteMask en
  let old := t.markV r
  let nm : BitVec 8 := (List.range 8).foldl (fun acc u =>
    let e := fld en (8 * u) 8
    setBit acc u (if e = 0 then bitOf old u else if e = 255 then bitOf m u else bitOf old u || bitOf m u)) 0
  t.wrV r ((t.rdV r &&& ~~~ k) ||| (x &&& k)) nm

/-- One write of a load that completes; a pending register stops being pending (05 R100). -/
def Strand.apply (t : Strand) : RegWrite → Strand
  | .s r x m => { t.wr r x m with pendS := setBit t.pendS r.toNat false }
  | .v r x en m => { t.wrVBytes r x en m with pendV := setBit t.pendV r.toNat false }
  | .k r x m => { t.wrK r x m with pendK := setBit t.pendK r.toNat false }

/-- Marks as pending the register a later completion writes (R100); s0 never is. -/
def Strand.pend (t : Strand) : RegWrite → Strand
  | .s r _ _ => if r = 0 then t else { t with pendS := setBit t.pendS r.toNat true }
  | .v r _ _ _ => { t with pendV := setBit t.pendV r.toNat true }
  | .k r _ _ => { t with pendK := setBit t.pendK r.toNat true }

/-! ### Status bits -/

/-- STS.IRREV (02 R18). -/
def Strand.irrev (t : Strand) : Bool := bitOf t.sts 0
/-- SVSTS.MODE (19 R279). -/
def Strand.super (t : Strand) : Bool := bitOf t.svsts 0
def Strand.trapped (t : Strand) : Bool := bitOf t.svsts 11
/-- A task that may still be aborted (02 R36): user or trapped, no irrevocable act yet. -/
def Strand.restartable (t : Strand) : Bool := !t.irrev && !t.svIrrev

def stsOf (lane : Nat) (kind : BitVec 2) (dual : Bool) : Word :=
  BitVec.ofNat 64 (lane % 16 * 2 ^ 24 + kind.toNat * 2 ^ 8 + dual.toNat * 4)

end Sys2Proof.Machine
end

