-- ==== Sys2Proof/Machine/Mem.lean ====
section
/-! DEFINITION. Physical memory (20 R293, R307, 21 R315), scratchpads (03 R46-R49), translation (20 R294-R301). -/

namespace Sys2Proof.Machine

/-! ### Bytes in one canonical form: addresses rising, no listed zero -/

/-- What an unlisted byte reads as: 0 (DESIGN CHOICE, log 4). -/
def Memory.blank : Byte := 0

def Memory.get (m : List Host.Cell) (k : Nat) : Byte := (lookupKey m k).getD Memory.blank
def Memory.put (m : List Host.Cell) (k : Nat) (b : Byte) : List Host.Cell :=
  if b = Memory.blank then dropKey m k else putKey m k b

/-- Keys rise strictly from lo. -/
def risingFrom {α : Type} : Nat → List (Nat × α) → Bool
  | _, [] => true
  | lo, (k, _) :: r => decide (lo ≤ k) && risingFrom (k + 1) r

/-- The canonical form of a memory. -/
def Memory.wf (m : List Host.Cell) : Bool := risingFrom 0 m && m.all (fun c => c.2 != Memory.blank)

def Memory.getN (m : List Host.Cell) (k n : Nat) : List Byte := (List.range n).map (fun i => Memory.get m (k + i))
def Memory.putList (m : List Host.Cell) (k : Nat) : List Byte → List Host.Cell
  | [] => m
  | b :: r => Memory.putList (Memory.put m k b) (k + 1) r

/-! ### Physical addresses (20 R293, 21 R324) -/

def hostBase : Nat := 2 ^ 48

/-- Device addresses that name memory: the home die below 12. -/
def paExists (pa : Nat) : Bool := pa < 12 * 2 ^ 36
/-- The home die of a device address. -/
def homeDie (pa : Nat) : Nat := pa / 2 ^ 36 % 16
def isFabric (pa : Nat) : Bool := pa / 2 ^ 46 == 2

/-- The version of the key in slot k of die d, if the slot is not empty (21 R314). -/
def State.keyVer (s : State) (d k : Nat) : Option Nat := lookupKey (s.die d).keys k

/-- The version of the key that a slot of the line's home die holds now (21 R315); 0 for a slot that was emptied. -/
def State.slotVer (s : State) (slot : Option Nat) (key : Nat) : Option Nat :=
  slot.map (fun k => (s.keyVer (homeDie key) k).getD 0)

/-- The slot has lost its first key since its die was cleared (21 R315): a line that nothing has written under a key reads
as any changed key shows it. -/
def State.slotChanged (s : State) (slot : Option Nat) (key : Nat) : Bool :=
  (slot.map (fun k => (s.die (homeDie key)).rekeyed.contains k)).getD false

/-- A byte of memory as an access under the key of a slot sees it: the decryption under another key than the line was
written under is a free value (21 R315, log 9). -/
def State.readByte (s : State) (slot : Option Nat) (key : Nat) : Byte :=
  match s.slotVer slot key, lookupKey s.lineKey (key / 64) with
  | some v, some w => if v = w then Memory.get s.mem key else Config.freeByte (Nat.pair key (Nat.pair v w))
  | some v, none =>
    if s.slotChanged slot key then Config.freeByte (Nat.pair key (Nat.pair v 0)) else Memory.get s.mem key
  | none, _ => Memory.get s.mem key

/-- A line that comes under another key: its other bytes are written back as that key shows them (R315). -/
def State.rekey (s : State) (slot : Option Nat) (key : Nat) : State :=
  match s.slotVer slot key with
  | none => s
  | some v =>
    let line := key / 64
    match lookupKey s.lineKey line with
    | some w =>
      if v = w then s else
      let bs := (List.range 64).map (fun i => s.readByte slot (line * 64 + i))
      { s with mem := Memory.putList s.mem (line * 64) bs, lineKey := putKey s.lineKey line v }
    | none =>
      let bs := (List.range 64).map (fun i => s.readByte slot (line * 64 + i))
      { s with mem := if s.slotChanged slot key then Memory.putList s.mem (line * 64) bs else s.mem
               lineKey := putKey s.lineKey line v }

def State.poisoned (s : State) (key : Nat) : Bool := hasNum s.memPoison (key / 8)

/-- Writes the masked bytes of the aligned unit at key. A whole unit of unmarked data clears the unit's poison, a
partial write leaves it, marked data sets it (20 R307). -/
def State.writeUnit (s : State) (slot : Option Nat) (key : Nat) (mask : BitVec 8) (data : BitVec 64) (poison : Bool) :
    State :=
  if mask = 0 then s else
  let s := s.rekey slot key
  let m := (List.range 8).foldl (fun m i => if bitOf mask i then Memory.put m (key + i) (byteAt data i) else m) s.mem
  let pz := if poison then addNum s.memPoison (key / 8)
    else if mask = BitVec.allOnes 8 then delNum s.memPoison (key / 8) else s.memPoison
  { s with mem := m, memPoison := pz }

/-- A device write to a host page: dropped and counted while the link is down (21 R319). -/
def State.writeOut (s : State) (host : Bool) (slot : Option Nat) (key : Nat) (mask : BitVec 8) (data : BitVec 64)
    (poison : Bool) : State :=
  if host && !s.linkUp then { s with hostDropped := s.hostDropped + 1 } else s.writeUnit slot key mask data poison

/-- A byte with its poison, as a device read sees it; host pages read poisoned while the link is down (R319). -/
def State.readOut (s : State) (host : Bool) (slot : Option Nat) (key : Nat) : Byte × Bool :=
  if host && !s.linkUp then (s.readByte slot key, true) else (s.readByte slot key, s.poisoned key)

/-! ### Scratchpads (03 R46-R48) -/

def spadBase : Nat := 0xFFFFFFF000000000
def stackWin : Nat := 0xFFFFFFF800000000
def engineSpad : Nat := 0xFFFFFFF400000000

def Seg.span (g : Seg) : Nat := roundPow2 g.size

/-- The segment whose span contains offset o. -/
def segAt (segs : List (Option Seg)) (o : Nat) : Option Seg :=
  (segs.filterMap id).find? (fun g => g.base ≤ o && o < g.base + g.span)

/-- The scratchpad byte that byte j of an access at offset o reaches; none in a gap or outside every span (R47). -/
def spadByte (segs : List (Option Seg)) (o j : Nat) : Option Nat :=
  match segAt segs o with
  | none => none
  | some g =>
    let u := (o - g.base + j) % g.span
    if u < g.size then
      some (g.base + (if g.swz = 0 then u else u ^^^ (u / 512 % 2 ^ g.swz) * 8))
    else none

def Tile.readSpad (t : Tile) (segs : List (Option Seg)) (o j : Nat) : Byte × Bool :=
  match spadByte segs o j with
  | none => (0, false)
  | some b => (Memory.get t.spad b, hasNum t.spadPoison (b / 8))

/-- Writes given bytes at offset o + j; poison as R307 states for each 8-byte unit. A scratchpad line carries no release tag
in debug mode (DESIGN CHOICE, log 62: 03 R61 names a line's tag and not where the line lies). -/
def Tile.writeSpad (t : Tile) (segs : List (Option Seg)) (o : Nat) (bs : List (Nat × Byte × Bool)) : Tile :=
  let cells := bs.filterMap (fun (j, b, p) => (spadByte segs o j).map (fun x => (x, b, p)))
  let sp := cells.foldl (fun m c => Memory.put m c.1 c.2.1) t.spad
  let units := cells.foldl (fun l c => addNum l (c.1 / 8)) []
  let pz := units.foldl (fun l u =>
    let here := cells.filter (fun c => c.1 / 8 == u)
    if here.any (fun c => c.2.2) then addNum l u
    else if (here.foldl (fun acc c => addNum acc c.1) []).length = 8 then delNum l u else l) t.spadPoison
  { t with spad := sp, spadPoison := pz }

/-! ### Translation (20 R294-R299) -/

/-- Who translates: each kind has its own cache (R298); `hw` is the hardware itself (saves, spills, host requests). -/
inductive Agent where
  | core (c : Nat) | copy (t : Nat) | builder (d : Nat) | relay (t : Nat) | enc (d : Nat) | hw
deriving DecidableEq, Repr

inductive AccKind where
  | read | write | fetch | atomic | exactRead
deriving DecidableEq, Repr

inductive XErr where
  | notPresent | cls (n : Nat)
deriving DecidableEq, Repr

/-- Where a virtual address leads: the key of the byte in `State.mem`, the slot of its encryption key (21 R314), host page,
page size exponent, fabric memory (21 R324). -/
structure Xlat where
  key : Nat
  slot : Option Nat
  host : Bool
  size : Nat := 16
  fab : Bool := false
deriving DecidableEq, Repr

def AccKind.writes : AccKind → Bool
  | .write | .atomic => true
  | _ => false

def State.tlb (s : State) : Agent → List Tlb
  | .core c => (s.core c).tlb
  | .copy t => (s.tile t).tlb
  | .builder d => (s.die d).buildTlb
  | .relay t => (s.tile t).relayTlb
  | .enc d => (s.die d).encTlb
  | .hw => []

def State.setTlb (s : State) (a : Agent) (l : List Tlb) : State :=
  match a with
  | .core c => s.onCore c (fun x => { x with tlb := l })
  | .copy t => s.onTile t (fun x => { x with tlb := l })
  | .builder d => s.onDie d (fun x => { x with buildTlb := l })
  | .relay t => s.onTile t (fun x => { x with relayTlb := l })
  | .enc d => s.onDie d (fun x => { x with encTlb := l })
  | .hw => s

/-- The 8-byte unit at a place, as the hardware reads it under a key. -/
def State.unitUnder (s : State) (slot : Option Nat) (key : Nat) : BitVec 64 :=
  BitVec.ofNat 64 (leNat ((List.range 8).map (fun i => s.readByte slot (key + i))))

/-- The slot of a partition's default key, under which its page tables, its ring and its stacks lie (21 R314, log 9). -/
def State.defaultSlot (s : State) (pid : Nat) : Option Nat := (s.partition pid).map (·.kbase)

/-- The fabric launch of a region (21 R322, R324). -/
def State.fabricOf (s : State) (rid : Option Nat) : Option Fabric :=
  match (rid.bind s.region).bind (·.generation) with
  | some g => s.fabrics.find? (fun f => f.id == g)
  | none => none

/-- Fabric memory is named only for a region of a fabric launch, with an index below the number of its packages and a die of that
package's partition (21 R324). -/
def fabricOk (s : State) (rid : Option Nat) (pa : Nat) : Bool :=
  match s.fabricOf rid with
  | some f => decide (pa / 2 ^ 40 % 64 < f.packages.length) && ((lookupKey f.dies (pa / 2 ^ 40 % 64)).map (·.contains (homeDie pa))).getD false
  | none => false

/-- A leaf that keeps R296: level 0, 1 or 2, page of 2^size bytes. -/
def leafOk (s : State) (p : Partition) (rid : Option Nat) (e : BitVec 64) (size : Nat) : Bool :=
  let pa := fld e 16 32 * 2 ^ 16
  fld e 57 7 == 0 && fld e 8 8 == 0 && pa % 2 ^ size == 0 &&
  (if bitOf e 7 then fld e 48 9 == 0
   else if isFabric pa then fabricOk s rid pa
   else paExists pa && p.dies.contains (homeDie pa))

def pointerOk (p : Partition) (e : BitVec 64) (level : Nat) : Bool :=
  let pa := fld e 8 40 * 2 ^ 8
  fld e 48 16 == 0 && fld e 2 6 == 0 && (level != 2 || pa % 4096 == 0) && paExists pa && p.dies.contains (homeDie pa)

/-- One entry of the path: what is found at key, at a level (2, 1, 0). -/
inductive WalkEnd where
  | leaf (key : Nat) (e : BitVec 64) (size : Nat) (poison : Bool)
  | bad (x : XErr)

/-- The walk from the entry at key (R295): at each entry the tests of R297 in their order; an entry from a poisoned unit
ends the walk and is never used (R302). -/
def walkFrom (s : State) (p : Partition) (rid : Option Nat) (va : Nat) : Nat → Nat → WalkEnd
  | level, key =>
    let e := s.unitUnder (some p.kbase) key
    let pz := s.poisoned key
    let size := 16 + (if level = 0 then 0 else if level = 1 then 5 else 14)
    if !bitOf e 0 then .bad .notPresent
    else if bitOf e 1 then
      if leafOk s p rid e size then .leaf key e size pz else .bad (.cls 1)
    else
      match level with
      | 0 => .bad (.cls 1)
      | l + 1 =>
        if !pointerOk p e (l + 1) then .bad (.cls 1)
        else if pz then .bad (.cls 2)
        else
          let idx := if l = 1 then va / 2 ^ 21 % 512 else va / 2 ^ 16 % 32
          walkFrom s p rid va l (fld e 8 40 * 2 ^ 8 + 8 * idx)

/-- Where the root entry of an address lies, when PTROOT covers it. -/
def rootEntry (p : Partition) (va : Nat) : Option Nat :=
  let rsz := fld p.ptroot 0 5
  let i := va / 2 ^ 30
  if rsz = 0 || 2 ^ rsz ≤ i then none else some (fld p.ptroot 12 36 * 4096 + 8 * i)

/-- A place of device memory that packets of the partition reach (21 R312). -/
def Partition.reaches (p : Partition) (pa : Nat) : Bool := paExists pa && p.dies.contains (homeDie pa)

/-- The walk of an address. A root table that no packet of the partition reaches answers nothing: not present (log 47). -/
def walk (s : State) (p : Partition) (rid : Option Nat) (va : Nat) : WalkEnd :=
  match rootEntry p va with
  | none => .bad .notPresent
  | some key => if p.reaches key then walkFrom s p rid va 2 key else .bad .notPresent

/-- A packet to a die outside its partition is dropped and counted there (21 R312, log 47). -/
def State.lost (s : State) (pa : Nat) : State := s.onDie (homeDie pa) (fun d => { d with dropped := d.dropped + 1 })

/-- The walk's own packets that are lost: its read of a root table the partition does not reach. -/
def State.walkLost (s : State) (p : Partition) (va : Nat) : State :=
  match rootEntry p va with
  | some key => if p.reaches key then s else s.lost key
  | none => s

/-- The key ids a partition holds (21 R314). -/
def Partition.hasKey (p : Partition) (k : Nat) : Bool := p.kbase ≤ k && k < p.kbase + p.kcount

/-- Where the device memory of another package lies in `State.mem`, by the package's fabric id (21 R324): one place, whichever
launch or list index names it. -/
def fabricKey (package pa : Nat) : Nat := 2 ^ 50 + package % 2 ^ 16 * 2 ^ 40 + pa

/-- A place of fabric memory for a launch that names it (21 R324): memory of this package is its own, under the default key of
the listed partition (21 R314). -/
def State.fabricPlace (s : State) (f : Fabric) (pa size : Nat) : Xlat :=
  let who := (f.packages[pa / 2 ^ 40 % 64]?).getD (0, 0)
  if (f.packages[f.place]?).map (·.1) = some who.1 then
    { key := pa % 2 ^ 40, slot := s.defaultSlot who.2, host := false, size := size, fab := true }
  else { key := fabricKey who.1 (pa % 2 ^ 40), slot := none, host := false, size := size, fab := true }

/-- The key class and the place a leaf leads to (R297 order 4; 21 R314: KEYID 0 is the default key). The KEYID of a leaf of
fabric memory too must be held by the partition. -/
def leafTarget (s : State) (p : Partition) (rid : Option Nat) (e : BitVec 64) (size va : Nat) : Except XErr Xlat :=
  let pa := fld e 16 32 * 2 ^ 16 + va % 2 ^ size
  if bitOf e 7 then .ok { key := hostBase + pa, slot := none, host := true, size := size }
  else if isFabric pa then
    if !fabricOk s rid pa then .error (.cls 1)
    else if fld e 48 9 ≠ 0 && !p.hasKey (fld e 48 9) then .error (.cls 3)
    else match s.fabricOf rid with
      | some f => .ok (s.fabricPlace f pa size)
      | none => .error (.cls 1)
  else
    let k := fld e 48 9
    let k := if k = 0 then p.kbase else k
    if !p.hasKey k || (s.keyVer (homeDie pa) k).isNone then .error (.cls 3)
    else .ok { key := pa, slot := some k, host := false, size := size }

/-- Class 5 of R297. -/
def permits (e : BitVec 64) (super : Bool) (k : AccKind) : Bool :=
  (super || bitOf e 4) &&
  (match k with
   | .read => true
   | .exactRead => !bitOf e 7
   | .write => bitOf e 2
   | .atomic => bitOf e 2 && !bitOf e 7
   | .fetch => bitOf e 3)

/-- Translates one address. A cached translation is used while it stands (R298); else the walk, with A and D set at the
entry's home (R299). -/
def State.xlat (s : State) (a : Agent) (pid : Nat) (rid : Option Nat) (super : Bool) (k : AccKind) (va : Nat) :
    State × Except XErr Xlat :=
  match s.partition pid with
  | none => (s, .error .notPresent)
  | some p =>
    let hit := (s.tlb a).find? (fun t => t.pid == pid && va / 2 ^ t.size * 2 ^ t.size == t.base &&
      (!k.writes || bitOf t.entry 6))
    match hit with
    | some t =>
      match leafTarget s p rid t.entry t.size va with
      | .error x => (s, .error x)
      | .ok x => if permits t.entry super k then (s, .ok x) else (s, .error (.cls 4))
    | none =>
      match walk s p rid va with
      | .bad x => (s.walkLost p va, .error x)
      | .leaf key e size pz =>
        if pz then (s, .error (.cls 2)) else
        match leafTarget s p rid e size va with
        | .error x => (s, .error x)
        | .ok x =>
          if !permits e super k then (s, .error (.cls 4)) else
          let e' := e ||| (if k.writes then 0x60 else 0x20)
          let s := if e' = e then s else s.writeUnit (some p.kbase) key (BitVec.allOnes 8) e' false
          let base := va / 2 ^ size * 2 ^ size
          let rest := (s.tlb a).filter (fun t => !(t.pid == pid && t.base == base && t.size == size))
          (s.setTlb a ({ base := base, size := size, entry := e', pid := pid } :: rest), .ok x)

/-- Translates every 64 KiB block that holds one of the addresses, in address order; the first that fails ends it with
the first address in it (03 R44). -/
def State.xlats (s : State) (a : Agent) (pid : Nat) (rid : Option Nat) (super : Bool) (k : AccKind) :
    List Nat → List (Nat × Xlat) → State × Except (XErr × Nat) (List (Nat × Xlat))
  | [], acc => (s, .ok acc)
  | va :: r, acc =>
    match lookupKey acc (va / 65536) with
    | some _ => s.xlats a pid rid super k r acc
    | none =>
      match s.xlat a pid rid super k va with
      | (s, .error x) => (s, .error (x, va))
      | (s, .ok x) => s.xlats a pid rid super k r (putKey acc (va / 65536) { x with key := x.key - va % 65536 })

/-- The place of one address after `xlats`. -/
def placeOf (m : List (Nat × Xlat)) (va : Nat) : Xlat :=
  match lookupKey m (va / 65536) with
  | some x => { x with key := x.key + va % 65536 }
  | none => { key := 0, slot := none, host := false }

/-! ### Page requests (20 R301) -/

/-- Posts a page request of a region to its partition's ring, an entry and PRODUCED in whole units (R307), OVERFLOW as a bit of
its byte; lost when there is no ring or the ring or
the entry lies outside the partition (21 R312, log 47). -/
def State.pageRequest (s : State) (pid : Nat) (block : Word) (va kind die who : Nat) : State :=
  match s.partition pid with
  | none => { s with pageReqs := s.pageReqs + 1 }
  | some p =>
    let m := fld p.prqbase 0 5
    let base := fld p.prqbase 12 36 * 4096
    if m = 0 then { s with pageReqs := s.pageReqs + 1 }
    else if !p.reaches base then { s.lost base with pageReqs := s.pageReqs + 1 } else
    let slot := some p.kbase
    let put : State → Nat → BitVec 64 → State := fun s key x => s.writeUnit slot key (BitVec.allOnes 8) x false
    let produced := s.unitUnder slot base
    let consumed := s.unitUnder slot (base + 8)
    if produced - consumed = BitVec.ofNat 64 (2 ^ m) then s.writeUnit slot (base + 16) 1 (s.unitUnder slot (base + 16) ||| 1) false
    else
      let e := base + 64 + 32 * (produced.toNat % 2 ^ m)
      if !p.reaches e then { s.lost e with pageReqs := s.pageReqs + 1 } else
      let s := put (put s e (BitVec.ofNat 64 va)) (e + 8) block
      let s := put (put s (e + 16) (BitVec.ofNat 64 (kind % 256 + 2 ^ 8 * (die % 256) + 2 ^ 16 * (who % 256)))) (e + 24) 0
      put s base (produced + 1)

def AccKind.code : AccKind → Nat
  | .read | .exactRead => 0
  | .write | .atomic => 1
  | .fetch => 2

/-- A page request of an engine, and the class of its other faults (20 R301, R302). -/
def State.engineFault (s : State) (rid die who : Nat) (k : AccKind) (e : XErr × Nat) : State :=
  let block := ((s.region rid).map (·.block)).getD 0
  let kind := match e.1 with
    | .notPresent => k.code
    | .cls n => 16 + n
  s.pageRequest (s.pidOfRegion rid) block e.2 kind die who

/-! ### Bytes through a translation, for engines, saves and the host -/

/-- The bytes at global addresses va … va + n - 1 with their poison. -/
def State.readVirt (s : State) (a : Agent) (pid : Nat) (rid : Option Nat) (super : Bool) (va n : Nat) :
    State × Except (XErr × Nat) (List (Byte × Bool)) :=
  let l := (List.range n).map (va + ·)
  match s.xlats a pid rid super .read l [] with
  | (s, .error e) => (s, .error e)
  | (s, .ok m) => (s, .ok (l.map (fun x => let p := placeOf m x; s.readOut p.host p.slot p.key)))

/-- Groups bytes at rising addresses into aligned units: unit address, mask, data, poison. -/
def intoUnits (l : List (Nat × Byte × Bool)) : List (Nat × BitVec 8 × BitVec 64 × Bool) :=
  l.foldr (fun (a, b, p) acc =>
    let u := a / 8 * 8
    let m : BitVec 8 := BitVec.twoPow 8 (a % 8)
    let d : BitVec 64 := b.zeroExtend 64 <<< (8 * (a % 8))
    match acc with
    | (u', m', d', p') :: r => if u' = u then (u, m ||| m', d ||| d', p || p') :: r else (u, m, d, p) :: acc
    | [] => [(u, m, d, p)]) []

/-- Writes bytes at global addresses (rising), all translated before any is written: the keys of the units written. -/
def State.writeVirt (s : State) (a : Agent) (pid : Nat) (rid : Option Nat) (super : Bool) (l : List (Nat × Byte × Bool)) :
    State × Except (XErr × Nat) (List Nat) :=
  match s.xlats a pid rid super .write (l.map (·.1)) [] with
  | (s, .error e) => (s, .error e)
  | (s, .ok m) =>
    let units := intoUnits l
    (units.foldl (fun s (u, mask, d, p) =>
      let x := placeOf m u
      s.writeOut x.host x.slot x.key mask d p) s, .ok (units.map (fun u => (placeOf m u.1).key)))

/-- Drops the lines of the given units from the L1 of a core (03 R50). -/
def State.dropLines (s : State) (c : Nat) (keys : List Nat) : State :=
  if (s.core c).l1 = [] then s else
  s.onCore c (fun x => { x with l1 := keys.foldl (fun l k => dropKey l (k / 64)) x.l1 })

/-- Writes bytes for a command of a strand: the lines written leave the L1 of its core (03 R50). -/
def State.writeFor (s : State) (a : Agent) (pid : Nat) (rid : Option Nat) (super : Bool) (core : Option Nat)
    (l : List (Nat × Byte × Bool)) : State × Except (XErr × Nat) (List Nat) :=
  match s.writeVirt a pid rid super l with
  | (s, .error e) => (s, .error e)
  | (s, .ok keys) =>
    (match core with
     | some c => s.dropLines c keys
     | none => s, .ok keys)

def State.dropL1 (s : State) (c : Nat) : State :=
  if (s.core c).l1 = [] then s else s.onCore c (fun x => { x with l1 := [] })

/-- A read that may hit in L1 or fill a line (03 R50): bytes and marks of the line. Host and fabric data never fill. -/
def State.readL1 (s : State) (c : Nat) (x : Xlat) : State × (Byte × Bool) :=
  if x.host || x.fab then (s, s.readOut x.host x.slot x.key) else
  let line := x.key / 64
  match lookupKey (s.core c).l1 line with
  | some l => (s, (byteAt l.data (x.key % 64), bitOf l.marks (x.key % 64 / 8)))
  | none =>
    let data := vecOfFn (fun i => s.readByte x.slot (line * 64 + i))
    let marks : BitVec 8 := (List.range 8).foldl (fun acc u => setBit acc u (s.poisoned (line * 64 + 8 * u))) 0
    let s := s.onCore c (fun k =>
      let l := putKey k.l1 line { data := data, marks := marks }
      { k with l1 := if Config.l1Lines < l.length then (dropKey l ((l.head?.map (·.1)).getD 0)) else l })
    (s, (byteAt data (x.key % 64), bitOf marks (x.key % 64 / 8)))

end Sys2Proof.Machine
end

