-- ==== Sys2Proof/Machine/Block.lean ====
section
/-! DEFINITION. The region control block in memory (19 R282). -/

namespace Sys2Proof.Machine

def RState.code : RState → Nat
  | .running => 0 | .preempting => 1 | .preempted => 2 | .killed => 3 | .placing => 4 | .ended => 5

def Lane.word (l : Lane) : Nat := (if l.disabled then 31 else l.c) + 32 * l.o

def Region.flags (r : Region) : Nat :=
  r.ordered.toNat + 2 * r.dual.toNat + 4 * r.fixed.toNat + 8 * (r.debug).toNat + 16 * r.scopetrap.toNat

def Region.leaseWord (r : Region) : Nat := r.leaseLeft % 2 ^ 32 + 2 ^ 32 * r.leaseActive.toNat

/-- The 512 bytes of the block. -/
def Region.image (s : State) (r : Region) : List Byte :=
  let par := ((r.parent.bind s.region).map (·.block)).getD 0
  bytesOf par 8 ++ natBytes r.state.code 1 ++ natBytes r.prio 1 ++ natBytes r.flags 1 ++ natBytes r.mailbox 1 ++
  natBytes r.rhome 1 ++ natBytes r.agek 1 ++ natBytes r.runlim 1 ++ natBytes r.drainlim 1 ++
  bytesOf r.kphase 4 ++ bytesOf r.fdomain 4 ++ bytesOf r.fhandler 8 ++ bytesOf r.globals 8 ++ natBytes r.qbudget 8 ++
  natBytes r.bbudget 2 ++ natBytes r.pbudget 2 ++ natBytes r.tiles.length 4 ++ natBytes r.bwdog 2 ++ natBytes r.quota 2 ++
  natBytes 0 4 ++ r.lanes.flatMap (fun l => natBytes l.word 2) ++ bytesOf r.segtab 8 ++ bytesOf r.winjoin 8 ++
  bytesOf r.wotab 8 ++ bytesOf r.savearea 8 ++ bytesOf r.qarea 8 ++ bytesOf r.tilemap 8 ++ natBytes r.leaseWord 8 ++
  r.counters.flatMap (fun n => natBytes n 8) ++ natBytes r.barriersHeld 4 ++ natBytes r.pinsHeld 4 ++ List.replicate 288 0

/-- Writes a run of bytes where the hardware's own translation admits it (log 12); only bytes that differ are written. -/
def State.writeQuiet (s : State) (pid va : Nat) (l : List Byte) : State :=
  match s.xlats .hw pid none true .read [va, va + l.length - 1] [] with
  | (_, .error _) => s
  | (_, .ok _) => (s.writeVirt .hw pid none true ((List.range l.length).zip (l.map (fun b => (b, false))) |>.map
      (fun (i, b, p) => (va + i, b, p)))).1

/-- Bytes off to off + n - 1 of a region's control block are written to memory as the hardware holds them (log 12). -/
def State.blockOut (s : State) (rid off n : Nat) : State :=
  match s.region rid with
  | none => s
  | some r => s.writeQuiet r.pid (r.block.toNat + off) (((r.image s).drop off).take n)

/-- The fields that the hardware changes are brought up to date in memory: STATE, TILES, LEASE and the counters. The mutable
fields stay as software has stored them until RCBSYNC (log 12). -/
def State.mirror (s : State) (rid : Nat) : State := ((s.blockOut rid 8 1).blockOut rid 52 4).blockOut rid 144 80

/-- The counts of barriers and pins held, changed and written to the block. -/
def State.hold (s : State) (rid : Nat) (f : Region → Region) : State := (s.onRegion rid f).blockOut rid 216 8

def bumpAt (l : List Nat) (i : Nat) : List Nat := setAt l i ((l[i]?).getD 0 + 1)

/-- Adds one to a counter of the block: 0 committed, 1 aborted, 2 requeued, 3 migrated, 4 dual mismatches, 5 watchdog
faults, 6 ignored write-owner entries, 7 faults raised. -/
def State.count (s : State) (rid i : Nat) : State :=
  (s.onRegion rid (fun r => { r with counters := bumpAt r.counters i })).blockOut rid (152 + 8 * i) 8

end Sys2Proof.Machine
end

