-- ==== Sys2Proof/Machine/Effects.lean ====
section
/-! DEFINITION. What a task's effects do: the store buffer (02 R36, R37), barriers (08 R165-R169), deques (08 R161),
tree headers and their reclamation (10 R199, R208). -/

namespace Sys2Proof.Machine

/-! ### Store buffer -/

/-- Performs one buffered unit at its home: the matching line leaves the core's L1 (03 R50), the release tag of a debug
region's line is written (03 R61). -/
def State.performUnit (s : State) (sid : Nat) (u : BufUnit) : State :=
  let s := s.writeOut u.host u.slot u.key u.mask u.data u.poison
  let s := s.dropLines (coreOf sid) [u.key]
  match u.scope with
  | some sc => { s with lineScope := putKey s.lineScope (u.key / 64) (sc, sid) }
  | none => s

/-- The buffered stores are made visible, in program order (02 R36). -/
def State.drain (s : State) (sid : Nat) : State :=
  let b := (s.strand sid).buf
  if b = [] then s else
  (b.foldl (fun s u => s.performUnit sid u) s).onStrand sid (fun t => { t with buf := [], closed := 0 })

/-- A first or later irrevocable act (R36): buffered stores first, then STS.IRREV; the undo list is discarded
(08 R152). Under a handler the trapped task becomes irrevocable (19 R278); STS.IRREV then stays 0 until `rfe` sets it by the
formula of R281 (DESIGN CHOICE, log 59). -/
def State.irrevAct (s : State) (sid : Nat) : State :=
  (s.drain sid).onStrand sid (fun t =>
    let t := { t with undo := [] }
    if t.super && t.trapped then { t with svIrrev := true } else { t with sts := t.sts ||| 1 })

/-! ### Scratchpad stores under way (03 R48, R49) -/

/-- The segments of a region. -/
def State.segsOf (s : State) (rid : Nat) : List (Option Seg) := ((s.region rid).map (·.segs)).getD []

/-- The banks of the bytes at the listed places from offset o. -/
def banksOf (segs : List (Option Seg)) (o : Nat) (js : List Nat) : List Nat :=
  js.filterMap (fun j => (spadByte segs o j).map (fun b => b / 8 % 64))

def SpadStore.banks (x : SpadStore) (segs : List (Option Seg)) : List Nat := banksOf segs x.off (x.bytes.map (·.1))

/-- An outstanding store of a strand reaches a bank of an access: accesses to one bank are performed in program order (R49). -/
def State.bankBusy (s : State) (sid o : Nat) (js : List Nat) : Bool :=
  let t := s.strand sid
  t.spadOut != [] && (let l := banksOf (s.segsOf t.rid) o js
    t.spadOut.any (fun x => (x.banks (s.segsOf t.rid)).any l.contains))

/-- One outstanding unit is performed, at one point in time. -/
def State.performSpad (s : State) (sid : Nat) (x : SpadStore) : State :=
  s.onTile (tileOf sid) (fun t => t.writeSpad (s.segsOf (s.strand sid).rid) x.off x.bytes)

/-- Every outstanding scratchpad store of a strand is performed. -/
def State.flushSpad (s : State) (sid : Nat) : State :=
  match (s.strand sid).spadOut with
  | [] => s
  | l => (l.foldl (fun s x => s.performSpad sid x) s).onStrand sid (fun t => { t with spadOut := [] })

/-- Bytes added to the signature of a dual run (19 R289). -/
def Strand.log (t : Strand) (bs : List Byte) : Strand :=
  if t.dual.isSome then { t with effects := t.effects ++ bs } else t

/-- Merges a restartable task's store into the buffer (R37). The merged unit is performed as one write: stores that cover it together
clear its poison as one that covers it does (DESIGN CHOICE, log 76: 20 R307 does not say). -/
def mergeUnit (u : BufUnit) : List BufUnit → List BufUnit
  | [] => [u]
  | x :: r =>
    if x.key = u.key then
      let k := byteMask (u.mask.zeroExtend 64)
      { x with mask := x.mask ||| u.mask
               data := (x.data &&& ~~~ (k.truncate 64)) ||| (u.data &&& k.truncate 64)
               poison := (x.poison && u.mask != BitVec.allOnes 8) || u.poison
               scope := if u.scope.isSome then u.scope else x.scope } :: r
    else x :: mergeUnit u r

/-- The units of a store enter the buffer of a restartable task. They merge into no unit before the place n: what a release stands
after is performed before it, and it before what follows (06 R124, R130). -/
def mergeUnits (n : Nat) (units b : List BufUnit) : List BufUnit :=
  b.take n ++ units.foldl (fun b u => mergeUnit u b) (b.drop n)

/-- The aligned 8-byte units that a store buffer holds (R37). -/
def heldUnits (b : List BufUnit) : List Nat := b.foldl (fun l u => addNum l (u.key / 8)) []

/-- The task's own latest buffered byte (R37), newest unit first. -/
def bufByte (b : List BufUnit) (key : Nat) : Option (Byte × Bool) :=
  (b.reverse.find? (fun u => u.key == key / 8 * 8 && bitOf u.mask (key % 8))).map
    (fun u => (byteAt u.data (key % 8), u.poison))

/-- The mark of a unit as the task sees it (06 R109): its home's mark z, as the buffered stores to the unit leave it when
they are performed in order (20 R307). -/
def bufMark (b : List BufUnit) (key : Nat) (z : Bool) : Bool :=
  (b.filter (fun u => u.key == key / 8 * 8)).foldl (fun z u => u.poison || (z && u.mask != BitVec.allOnes 8)) z

/-! ### Windows of ordered delivery (02 R35) -/

/-- A delivery window of the region ends. -/
def State.windowEnd (s : State) (rid : Nat) : State :=
  s.onRegion rid (fun r => if r.ordered then { r with windows := r.windows + 1 } else r)

/-! ### Barriers -/

/-- A handle (08 R165). -/
def handleOf (serial : BitVec 15) (die idx : Nat) : Word :=
  BitVec.ofNat 64 (2 ^ 31 + serial.toNat * 2 ^ 16 + die * 2 ^ 12 + idx)

/-- The live barrier of a region that a handle names. -/
def State.barrierOf (s : State) (rid : Nat) (h : Word) : Option (Nat × Nat × Barrier) :=
  let d := fld h 12 4
  let i := fld h 0 12
  if fld h 31 33 = 1 then
    match lookupKey (s.die d).barriers i with
    | some b => if b.serial = bits h 16 15 && b.rid = rid then some (d, i, b) else none
    | none => none
  else none

def State.putBarrier (s : State) (d i : Nat) (b : Barrier) : State :=
  s.onDie d (fun x => { x with barriers := putKey x.barriers i b })

/-- Releases one waiter: its predicate and the next instruction (08 R168). A true return acquires at the barrier's
scope (R169). -/
def State.releaseWaiter (s : State) (sid : Nat) (pd : PReg) (ok : Bool) (scope : BitVec 2) : State :=
  let s := s.onStrand sid (fun t => { t.wrP pd (allOnes ok) false with wait := .no, pc := t.pc + 4 })
  if ok && scope != 0 then s.dropL1 (coreOf sid) else s

/-- The wait of a strand on a handle, for a phase that `sel` picks. -/
def Strand.waitsOn (t : Strand) (h : Word) (sel : BitVec 32 → Bool) : Option PReg :=
  match t.wait with
  | .barrier pd h' ph => if h' = h && sel ph then some pd else none
  | _ => none

/-- A waiter that is saved and has not gone on yet is released: it returns in the same way, and acquires, when it goes on
(08 R170, 19 R287). -/
def Region.releaseSaved (r : Region) (h : Word) (sel : BitVec 32 → Bool) (ok : Bool) : Region :=
  { r with strandsSaved := r.strandsSaved.map (fun x => (x.1,
      match x.2.waitsOn h sel with
      | some pd => { x.2 with wait := .released pd ok }
      | none => x.2)) }

/-- Releases the waiters on a handle that `sel` picks by the phase they wait for. -/
def State.releaseWaiters (s : State) (h : Word) (sel : BitVec 32 → Bool) (ok : Bool) (scope : BitVec 2) : State :=
  let s : State := { s with regions := s.regions.map (fun x => (x.1, x.2.releaseSaved h sel ok)) }
  s.strands.foldl (fun s (sid, t) =>
    match t.waitsOn h sel with
    | some pd => s.releaseWaiter sid pd ok scope
    | none => s) s

/-- A strand, saved or not, waits on a handle. -/
def State.waitedOn (s : State) (h : Word) : Bool :=
  s.strands.any (fun x => (x.2.waitsOn h (fun _ => true)).isSome) ||
  s.regions.any (fun r => r.2.strandsSaved.any (fun x => (x.2.waitsOn h (fun _ => true)).isSome))

/-- A phase p has completed when PH - p is 1 ... 2^31 (R168). -/
def phasePassed (now p : BitVec 32) : Bool := decide (1 ≤ (now - p).toNat ∧ (now - p).toNat ≤ 2 ^ 31)

/-- The barrier breaks: its waiters are released false, one window ends (R166, 02 R35). -/
def State.breakBarrier (s : State) (d i : Nat) (b : Barrier) : State :=
  let s := s.putBarrier d i { b with broken := true, running := false }
  let s := s.releaseWaiters (handleOf b.serial d i) (fun _ => true) false b.scope
  match s.region b.rid with
  | some r => if r.winjoin = 0 then s.windowEnd b.rid else s
  | none => s

/-- After a change: a phase completes when ARRIVED = COUNT and PEND = 0 (R166). The watchdog of the new phase runs when a wait
for it stands already (19 R291). -/
def State.settle (s : State) (d i : Nat) (b : Barrier) : State :=
  if b.broken then s.putBarrier d i b
  else if b.pend < -(2 ^ 27) || 2 ^ 27 ≤ b.pend then s.breakBarrier d i b
  else if b.arrived = b.count && b.pend = 0 then
    let b := { b with ph := b.ph + 1, arrived := 0, spent := 0, running := false }
    let h := handleOf b.serial d i
    let s := (s.putBarrier d i b).releaseWaiters h (phasePassed b.ph) true b.scope
    let s := s.putBarrier d i { b with running := s.waitedOn h }
    match s.region b.rid with
    | some r => if r.winjoin = 0 then s.windowEnd b.rid else s
    | none => s
  else s.putBarrier d i b

/-- The barrier returns to the pool; a wait still on it returns false (R166). -/
def State.freeBarrier (s : State) (d i : Nat) (b : Barrier) : State :=
  let s := s.onDie d (fun x => { x with barriers := dropKey x.barriers i })
  let s := s.hold b.rid (fun r => { r with barriersHeld := r.barriersHeld - 1 })
  s.releaseWaiters (handleOf b.serial d i) (fun _ => true) false b.scope

/-- An arrival (R166, R168). A deferred operation whose barrier was freed between its issue and the commit does nothing (DESIGN
CHOICE, log 70). -/
def State.arrive (s : State) (rid : Nat) (h : Word) : State :=
  match s.barrierOf rid h with
  | none => s
  | some (d, i, b) =>
    if b.broken then s
    else if b.arrived = b.count then s.breakBarrier d i b
    else s.settle d i { b with arrived := b.arrived + 1, running := true }

/-- Expects more bytes, or with a negative amount fewer (R168, R172). -/
def State.expect (s : State) (rid : Nat) (h : Word) (n : Int) : State :=
  match s.barrierOf rid h with
  | none => s
  | some (d, i, b) => if b.broken then s else s.settle d i { b with pend := b.pend + n }

/-- Drops one reference (R166). -/
def State.bfree (s : State) (rid : Nat) (h : Word) : State :=
  match s.barrierOf rid h with
  | none => s
  | some (d, i, b) =>
    let b := { b with refs := b.refs - 1 }
    if b.refs = 0 then s.freeBarrier d i b
    else if !b.broken && b.refs < b.count - b.arrived then s.breakBarrier d i b
    else s.putBarrier d i b

/-! ### Deques (08 R161-R163) -/

def Tile.dqFull (t : Tile) : Bool := 64 ≤ t.deque.length + t.dqReserved.length

/-- The newest, or with `oldest` the oldest, entry of a region: its place. -/
def dqFind (l : List DqEntry) (rid : Nat) (oldest : Bool) : Option Nat :=
  if oldest then findAt (fun e => e.rid == rid) l
  else (findAt (fun e => e.rid == rid) l.reverse).map (fun i => l.length - 1 - i)

/-- Releases the places that a strand reserved. -/
def State.unreserve (s : State) (sid : Nat) : State :=
  let t := s.tile (tileOf sid)
  if t.dqReserved.contains sid then
    s.setTile (tileOf sid) { t with dqReserved := t.dqReserved.filter (· != sid) }
  else s

/-! ### Tree headers (10 R198, R199): read and written at the header's home with the translation of a unit -/

/-- The bytes of the header of a region's partition, if they translate. -/
def State.header (s : State) (a : Agent) (pid : Nat) (rid : Option Nat) (super : Bool) (hdr : Nat) :
    State × Except (XErr × Nat) (List Byte) :=
  match s.readVirt a pid rid super hdr 256 with
  | (s, .ok l) => (s, .ok (l.map (·.1)))
  | (s, .error e) => (s, .error e)

def fieldAt (l : List Byte) (i n : Nat) : Nat := leNat ((l.drop i).take n)
def putField (l : List Byte) (i n v : Nat) : List Byte := l.take i ++ natBytes v n ++ l.drop (i + n)

/-- A generation slot (R199). -/
structure Slot where
  gen : Nat
  root : Nat
  nodes : Nat
  pins : Nat
  state : Nat
deriving DecidableEq, Repr

def slotAt (h : List Byte) (i : Nat) : Slot :=
  let b := 128 + 16 * i
  let w := fieldAt h (b + 12) 4
  { gen := fieldAt h b 4, root := fieldAt h (b + 4) 4, nodes := fieldAt h (b + 8) 4, pins := w % 2 ^ 24
    state := w / 2 ^ 24 % 4 }

def putSlot (h : List Byte) (i : Nat) (x : Slot) : List Byte :=
  putField h (128 + 16 * i) 16
    (x.gen + 2 ^ 32 * x.root + 2 ^ 64 * x.nodes + 2 ^ 96 * (x.pins % 2 ^ 24 + 2 ^ 24 * x.state))

def slots (h : List Byte) : List Slot := (List.range 8).map (slotAt h)

/-- The place of the CURRENT slot. -/
def currentSlot (h : List Byte) : Option Nat := findAt (fun x => x.state == 1) (slots h)

/-- The places in publication order: from the slot after the CURRENT one round to it. -/
def slotOrder (h : List Byte) : List Nat :=
  match currentSlot h with
  | none => List.range 8
  | some c => (List.range 8).map (fun i => (c + 1 + i) % 8)

/-- The oldest slot that is not FREE. -/
def oldestSlot (h : List Byte) : Option Nat := (slotOrder h).find? (fun i => (slotAt h i).state != 0)

/-- Frees retired generations without pins, oldest first (R208); the fuel is the number of slots. -/
def reclaimLoop : Nat → List Byte → List Byte
  | 0, h => h
  | n + 1, h =>
    match oldestSlot h with
    | none => h
    | some i =>
      let x := slotAt h i
      if x.state = 2 && x.pins = 0 then reclaimLoop n (putSlot h i { gen := 0, root := 0, nodes := 0, pins := 0, state := 0 })
      else h

/-- Reclamation (R208): then TAIL is the ROOT of the oldest slot that is not FREE. -/
def reclaim (h : List Byte) : List Byte :=
  let h := reclaimLoop 8 h
  match oldestSlot h with
  | none => putField (putField h 12 4 0) 16 4 0
  | some i => putField h 16 4 (slotAt h i).root

/-- The bytes of a header that differ (bytes 12 to 23, 44 to 62 and the ring), with their addresses. -/
def headerDiff (hdr : Nat) (old new : List Byte) : List (Nat × Byte × Bool) :=
  ((List.range 256).filter (fun i => old[i]? != new[i]?)).map (fun i => (hdr + i, (new[i]?).getD 0, false))

/-- Takes one from the PINS of a generation by one act at the header's home, with reclamation (R207, R208): the keys of the units
written; else the fault of the header's page (20 R302). -/
def State.unpin (s : State) (a : Agent) (pid : Nat) (rid : Option Nat) (super : Bool) (core : Option Nat) (hdr gen : Nat) :
    State × Except (AccKind × XErr × Nat) (List Nat) :=
  match s.header a pid rid super hdr with
  | (s, .error e) => (s, .error (.read, e))
  | (s, .ok h) =>
    match findAt (fun x => x.state != 0 && x.gen == gen) (slots h) with
    | none => (s, .ok [])
    | some i =>
      let x := slotAt h i
      let h' := putSlot h i { x with pins := x.pins - 1 }
      match s.writeFor a pid rid super core (headerDiff hdr h (if x.pins ≤ 1 then reclaim h' else h')) with
      | (s, .error e) => (s, .error (.write, e))
      | (s, .ok keys) => (s, .ok keys)

end Sys2Proof.Machine
end

