-- ==== Sys2Proof/Machine/RegionOps.lean ====
section
/-! DEFINITION. Regions: the end of a strand's task, aborts (02 R38, R39),
kills (19 R284, R341), fault records (19 R292). -/

namespace Sys2Proof.Machine

/-- The chain from a region to its default block. -/
def ancestors (s : State) : Nat → Nat → List Nat
  | 0, r => [r]
  | n + 1, r =>
    match (s.region r).bind (·.parent) with
    | some p => r :: ancestors s n p
    | none => [r]

/-- r is anc or one of its descendants (19 R279). -/
def State.descends (s : State) (r anc : Nat) : Bool := (ancestors s s.regions.length r).contains anc

def State.regionOfBlock (s : State) (pid : Nat) (b : Word) : Option (Nat × Region) :=
  s.regions.find? (fun x => x.2.block == b && x.2.pid == pid)

def Region.live (r : Region) : Bool := r.state != .killed && r.state != .ended

/-! ### A strand falls idle -/

/-- What stays of a strand when it falls idle: its stack base and exception registers (R279). -/
def Strand.idle (t : Strand) : Strand :=
  { Strand.fresh with stackbase := t.stackbase, taskNo := t.taskNo + 1, epc := t.epc, ecause := t.ecause
                      edetail := t.edetail, ests := t.ests, kscratch := t.kscratch, regstat := t.regstat }

/-- A strand falls idle; scratchpad stores that it has issued are performed (03 R49). -/
def State.idle (s : State) (sid : Nat) : State :=
  ((s.flushSpad sid).unreserve sid).onStrand sid Strand.idle

/-- The lane slots a strand's records hold are released (02 R24). -/
def State.releaseSlots (s : State) (sid : Nat) : State :=
  let t := s.strand sid
  t.records.foldl (fun s (k, _) => s.onRegion t.rid (fun r =>
    match r.lanes[k.lane]? with
    | some l => { r with lanes := setAt r.lanes k.lane { l with reserved := l.reserved - 1 } }
    | none => r)) s

/-- The undo list, newest first (08 R152). -/
def State.undoAll (s : State) (sid : Nat) : State :=
  let t := s.strand sid
  t.undo.foldl (fun s u =>
    match u with
    | .barrier h =>
      match s.barrierOf t.rid h with
      | some (d, i, b) => s.freeBarrier d i b
      | none => s
    | .take tl e => s.onTile tl (fun x => { x with deque := e :: x.deque })) s

/-- Work put back into the requeue area (02 R39): its time restarts (19 R286). A fault record goes back to the fault
part. The area and the lanes are held here only; their records are not written at QAREA's bytes (DESIGN CHOICE, log 12). -/
def State.requeue (s : State) (rid : Nat) (k : Task) (die : Option Nat) (page : Bool) (tileNot : List Nat) : State :=
  ((s.count rid 1).count rid 2).onRegion rid (fun r =>
    let w : Ready := { task := k, t0 := s.meshTime, level := r.prio, page := page, die := die, tileNot := tileNot }
    if k.kind = 3 then { r with faults := w :: r.faults } else { r with requeue := r.requeue ++ [w] })

/-- Throws away the effects of the run on one strand: reservations and undo list. -/
def State.discard (s : State) (sid : Nat) : State := ((s.undoAll sid).releaseSlots sid).idle sid

/-- The strands that run a dual pair. -/
def State.runsOf (s : State) (label : Nat) : List Nat :=
  (s.strands.filter (fun x => x.2.dual == some label)).map (·.1)

/-- Aborts the task of a strand and requeues it (02 R38, R39); a dual pair as one (R41). -/
def State.abort (s : State) (sid : Nat) (die : Option Nat) (page : Bool) : State :=
  let t := s.strand sid
  match t.dual with
  | some lab =>
    let s := (s.runsOf lab).foldl (fun s i => s.discard i) s
    match lookupKey s.duals lab with
    | some d => { s.requeue d.rid d.ready.task die page [] with duals := dropKey s.duals lab }
    | none => s
  | none =>
    match t.task with
    | some k => (s.discard sid).requeue t.rid k die page []
    | none => s

/-! ### Killing a region -/

/-- The name that a saved strand's commands carry until it runs again (log 25). -/
def savedName (rid slot : Nat) : Nat := 2 ^ 32 + rid * 2 ^ 16 + slot

/-- A command of a strand, by its number, writes lines (03 R50). -/
def State.noteWritten (s : State) (rid sid cmd : Nat) (keys : List Nat) : State :=
  { s with written := keys.foldl (fun l k =>
      let w : Wrote := { rid := rid, sid := sid, cmd := cmd, line := k / 64 }
      if l.contains w then l else w :: l) s.written }

/-- A place in each line that a command under way has written. -/
def State.writtenBy (s : State) (cmd : Nat) : List Nat :=
  (s.written.filter (fun w => w.cmd == cmd)).map (fun w => 64 * w.line)

/-- A command of a strand completes: the lines it has written leave the L1 of the strand's core (03 R50). -/
def State.dropWritten (s : State) (sid cmd : Nat) : State :=
  if s.written.any (fun w => w.cmd == cmd) then
    State.dropLines { s with written := s.written.filter (fun w => w.cmd != cmd) } (coreOf sid) (s.writtenBy cmd)
  else s

/-- The status of a command is written to its token register, if the strand still holds the task that issued it (05 R100): a
saved strand that has not gone on yet takes it too. What the strand has read ahead was read before the status, which orders the
command's bytes before a load that follows its use (01 R12): it is read again. -/
def State.completeToken (s : State) (sid taskNo : Nat) (r : SReg) (x : Word) : State :=
  if 2 ^ 32 ≤ sid then
    s.onRegion ((sid - 2 ^ 32) / 2 ^ 16) (fun q => { q with strandsSaved := q.strandsSaved.map (fun y =>
      (y.1, if y.1 = sid % 2 ^ 16 && y.2.taskNo = taskNo then y.2.apply (.s r x false) else y.2)) })
  else
    let t := s.strand sid
    if t.taskNo = taskNo && t.task.isSome then
      s.setStrand sid { t.apply (.s r x false) with wait := if t.wait = .stalled then .no else t.wait, ahead := [] }
    else s

/-- Wakes a strand that waits for a completion (02 R20). -/
def State.wake (s : State) (sid : Nat) : State :=
  let t := s.strand sid
  if t.wait = .stalled then s.setStrand sid { t with wait := .no } else s

/-- An engine command completes: its lines leave the L1 (03 R50), its token gets the status and its strand goes on. -/
def State.commandEnds (s : State) (sid taskNo cmd : Nat) (r : SReg) (x : Word) : State :=
  ((s.dropWritten sid cmd).completeToken sid taskNo r x).wake sid

/-- Writes 8 bytes for the host: the status word of a launch (21 R320). -/
def State.writeStatus (s : State) (pid : Nat) (va : Word) (x : Word) (vector : Nat) : State :=
  let s := (s.writeVirt .hw pid none true ((List.range 8).map (fun i => (va.toNat + i, byteAt x i, false)))).1
  if vector = 0 then s else { s with hostOut := s.hostOut ++ [.interrupt vector] }

/-- A NOTIFY has been performed: its completion, unless the link is down (R319), and the queue's next requests are handled in their order (21 R318). -/
def State.notified (s : State) (pid queue : Nat) (tag : BitVec 32) : State :=
  let mine : Nat × Nat × HostReq → Bool := fun x => x.1 == pid && x.2.1 == queue
  { s with hostOut := if s.linkUp then s.hostOut ++ [.completion tag 0 [] []] else s.hostOut
           waiting := s.waiting.filter (fun x => !mine x)
           agenda := (s.waiting.filter mine).map (fun x => .request pid queue x.2.2) ++ s.agenda }

/-- The origin of a fabric launch writes its status word (21 R322, R323): code, list index less 1, generation; its NOTIFY has
been performed then. After a code other than 0 no further one is written. -/
def State.endFabric (s : State) (id : LaunchId) (code place : Nat) : State :=
  match s.fabrics.find? (fun f => f.id == id) with
  | none => s
  | some f =>
    match f.status with
    | none => s
    | some st =>
      let s := s.writeStatus f.pid st (BitVec.ofNat 64 (code + 2 ^ 8 * place + 2 ^ 32 * id.gen)) f.vector
      let s := { s with fabrics := s.fabrics.map (fun f =>
        if f.id = id then { f with status := if code = 0 then f.status else none, notify := none } else f) }
      match f.notify with
      | some n => s.notified f.pid n.1 n.2
      | none => s

/-- Ends a launch with a status (08 R159, 21 R320, R322). -/
def State.endLaunch (s : State) (o : Origin) (code : Nat) : State :=
  match o with
  | .no => s
  | .strand sid n r => s.completeToken sid n r (BitVec.ofNat 64 code)
  | .host pid n st v =>
    let s := s.writeStatus pid st (BitVec.ofNat 64 code) v
    match n with
    | some (q, tag) => s.notified pid q tag
    | none => s
  | .fabric g => s.endFabric g code 0

/-- A traversal leaves the listed pins (11 R217, R224), with the translation of its relay unit, the headers' lines being noted as
written (03 R50); a header page that does not translate ends it there, with the pins still to leave (20 R302). -/
def State.unpins (s : State) (tr : Trav) : List (Nat × Nat) → State × List (Nat × Nat) × Option (AccKind × XErr × Nat)
  | [] => (s, [], none)
  | (h, g) :: l =>
    match s.unpin (.relay tr.tile) (s.pidOfRegion tr.rid) (some tr.rid) tr.super (some (coreOf tr.sid)) h g with
    | (s, .error e) => (s, (h, g) :: l, some e)
    | (s, .ok keys) => (s.noteWritten tr.rid tr.sid tr.no keys).unpins tr l

/-- A killed traversal leaves its pins; one whose header page does not translate keeps it (log 50). -/
def State.travUnpin (s : State) (tr : Trav) : State := tr.pins.foldl (fun s p => (s.unpins tr [p]).1) s

/-- Releases the lock of a builder command that holds it (10 R209). The release is never refused by a write-owner entry (DESIGN CHOICE,
log 75). -/
def State.unlock (s : State) (d : Nat) (c : BuildCmd) : State × Except (XErr × Nat) (List Nat) :=
  if c.phase = 0 then (s, .ok []) else
  s.writeFor (.builder d) (s.pidOfRegion c.rid) (some c.rid) true (some (coreOf c.sid))
    ((List.range 4).map (fun i => (c.hdr.toNat + 44 + i, 0, false)))

def State.eachTile (s : State) (f : Nat → Tile → Tile) : State :=
  { s with tiles := s.tiles.map (fun x => (x.1, f x.1 x.2)) }
def State.eachDie (s : State) (f : Nat → Die → Die) : State :=
  { s with dies := s.dies.map (fun x => (x.1, f x.1 x.2)) }

/-- Frees every barrier a region holds; waiters are released false (08 R170). -/
def State.freeBarriers (s : State) (rid : Nat) : State :=
  s.dies.foldl (fun s x => x.2.barriers.foldl (fun s (i, b) => if b.rid = rid then s.freeBarrier x.1 i b else s) s) s

/-- Releases every pin a region holds in any pin table, with reclamation (10 R207, R208). -/
def State.releasePins (s : State) (rid : Nat) : State :=
  let pid := s.pidOfRegion rid
  let s := s.dies.foldl (fun s x => x.2.pins.foldl (fun s p =>
    if p.rid = rid then (s.unpin (.builder x.1) pid (some rid) true none p.hdr p.gen.toNat).1 else s) s) s
  let s := s.eachDie (fun _ d => { d with pins := d.pins.filter (fun p => p.rid != rid) })
  s.hold rid (fun r => { r with pinsHeld := 0 })

/-- Budgets charged to the parent return to it (19 R285). -/
def State.returnBudgets (s : State) (rid : Nat) : State :=
  match s.region rid with
  | none => s
  | some r =>
    let s := s.onRegion rid (fun r => { r with charged := (0, 0, 0) })
    match r.parent with
    | none => s
    | some p => s.onRegion p (fun q => { q with qused := q.qused - r.charged.1, bused := q.bused - r.charged.2.1
                                                pused := q.pused - r.charged.2.2 })

/-- The sprint slots of a region return to the pools (22 R331). -/
def State.dropLease (s : State) (rid : Nat) : State :=
  match s.region rid with
  | none => s
  | some r =>
    let s := r.leaseSlots.foldl (fun s (d, n) => s.onDie d (fun x => { x with sprintUsed := x.sprintUsed - n })) s
    s.onRegion rid (fun r => { r with leaseActive := false, leaseLeft := 0, leaseSlots := [] })

/-- Deque entries discarded and encoder streams released (R284, R285). -/
def State.dropShared (s : State) (rid : Nat) : State :=
  let s := s.eachTile (fun _ t => { t with deque := t.deque.filter (fun e => e.rid != rid) })
  s.eachDie (fun _ d => { d with streams := d.streams.filter (fun x => x.2 != rid) })

/-- Stops one region (R284): strands, records, messages, engines, traversals, barriers, pins. Commands in flight stop
with no further byte performed, one of the ends R341 leaves open. A launch that still waits, for tiles or for its start barrier,
ends with code 6 (08 R159, log 30). A header whose page does not translate then keeps its LOCK
and its PINS (DESIGN CHOICE, log 50). -/
def State.killOne (s : State) (rid : Nat) : State :=
  match s.region rid with
  | none => s
  | some r =>
    if !r.live then s else
    let s := s.strands.foldl (fun s (i, t) => if t.task.isSome && t.rid = rid then s.idle i else s) s
    let s := s.freeBarriers rid
    let s := { s with msgs := s.msgs.filter (fun m => m.rid != rid)
                      launches := s.launches.filter (fun c => c.rid != rid), duals := s.duals.filter (fun d => d.2.rid != rid) }
    let s := s.dies.foldl (fun s x => x.2.builds.foldl (fun s c => if c.rid = rid then (s.unlock x.1 c).1 else s) s) s
    let s := s.eachDie (fun _ d => { d with builds := d.builds.filter (fun c => c.rid != rid)
                                            encCmds := d.encCmds.filter (fun c => c.rid != rid) })
    let s := s.travs.foldl (fun s x => if x.2.rid = rid then s.travUnpin x.2 else s) s
    let mine : Option Nat → Bool := fun o => match o.bind s.trav with
      | some tr => tr.rid = rid
      | none => false
    let s := s.eachTile (fun _ t => { t with
      copies := t.copies.filter (fun c => c.rid != rid)
      relay := (let q := { t.relay with cmds := t.relay.cmds.filter (fun c => c.rid != rid)
                                        queue := t.relay.queue.filter (fun c => c.1 != rid) }
                let q := if q.trav.isNone && (t.relay.cmds.head?.map (·.rid)) == some rid then { q with parked := false } else q
                if mine q.trav then { q with trav := none, frontier := [], cur := none, ask := none, verdict := none, owed := []
                                             rays := [], next := 0, limit := 0, parked := false } else q) })
    let s := { s with travs := s.travs.filter (fun x => x.2.rid != rid), written := s.written.filter (fun w => w.rid != rid) }
    let s := (((s.releasePins rid).dropShared rid).returnBudgets rid).dropLease rid
    let s := s.endLaunch r.origin 6
    let s := s.onRegion rid (fun r => { r with
      state := .killed, requeue := [], faults := [], mail := [], strandsSaved := [], dequesSaved := [], relaySaved := []
      copiesSaved := [], first := none, origin := .no
      lanes := r.lanes.map (fun l => { l with queue := [], reserved := 0, chain := [] }) })
    s.mirror rid

/-- The region x falls with a region of the list: it is a child, or shares a nonzero fault domain (R282). -/
def fallsWith (s : State) (l : List Nat) (x : Region) : Bool :=
  (match x.parent with
   | some p => l.contains p
   | none => false) ||
  (decide (x.fdomain ≠ 0) && l.any (fun i => match s.region i with
    | some r => decide (r.fdomain = x.fdomain ∧ r.pid = x.pid)
    | none => false))

/-- The regions that fall with the listed ones: descendants, and those of the same nonzero fault domain (R282). -/
def doomed (s : State) : Nat → List Nat → List Nat
  | 0, l => l
  | n + 1, l =>
    let more := (s.regions.filter (fun x => x.2.live && !l.contains x.1 && fallsWith s l x.2)).map (·.1)
    if more.isEmpty then l else doomed s n (l ++ more)

/-- Kills a region, its descendants first (R284); a region of a fabric launch takes the launch with it (21 R323). -/
def State.kill (s : State) (rid : Nat) : State :=
  let l := doomed s s.regions.length [rid]
  let gens := (l.filterMap (fun i => (s.region i).bind (fun r => if r.live then r.generation else none)))
  let s := (l.foldl addNum []).reverse.foldl (fun s i => s.killOne i) s
  { s with hostOut := s.hostOut ++ gens.map HostMsg.fabricKill }

/-! ### Fault records -/

/-- The task of a fault record; its pc is the region's FHANDLER when it is dispatched (R278). -/
def faultTask (cause : Nat) (detail addr : Word) (lastAct : Bool) : Task :=
  { kind := 3, lane := 0, pc := 0
    regs := [0, BitVec.ofNat 64 cause, detail, addr, 0, 0, 0, 0, 0], marks := 0, pin := none, islocal := false, nomig := true
    firstPins := false, first := false, lastAct := lastAct, ticket := none }

/-- Raises a fault record (19 R292): to the region's handler; a region without one is killed and the record goes to its
parent; a default block's goes to the host. `own`: the fault is the region's own, and its dual mismatch is its last act
(R289). The fuel bounds the chain of parents. -/
def State.raise (s : State) : Nat → Bool → Nat → Nat → Word → Word → State
  | 0, _, _, _, _, _ => s
  | n + 1, own, rid, cause, detail, addr =>
    match s.region rid with
    | none => s
    | some r =>
      match r.parent with
      | none => { s with hostOut := s.hostOut ++ [.faultRecord r.pid cause detail addr] }
      | some par =>
        if !r.live then s
        else if r.fhandler = 0 then (s.kill rid).raise n false par cause detail addr
        else if 16 * r.tiles.length ≤ r.faults.length then s.kill rid
        else
          (if own then s else s.count rid 7).onRegion rid (fun r => { r with
            faults := r.faults ++ [{ task := faultTask cause detail addr (own && cause == 0x83), t0 := s.meshTime
                                     level := r.prio, page := false, die := none, tileNot := [] }] })

/-- A fault that no strand takes precisely; it counts as raised (R282). -/
def State.raiseFault (s : State) (rid cause : Nat) (detail addr : Word) : State :=
  (s.count rid 7).raise (s.regions.length + 1) true rid cause detail addr

/-- Kills a region and reports to its parent (R278, R292, 20 R308). -/
def State.killReport (s : State) (rid cause : Nat) (detail addr : Word) : State :=
  match s.region rid with
  | none => s
  | some r =>
    let s := s.kill rid
    match r.parent with
    | some p => s.raise (s.regions.length + 1) false p cause detail addr
    | none => { s with hostOut := s.hostOut ++ [.faultRecord r.pid cause detail addr] }

end Sys2Proof.Machine
end

