-- ==== Sys2Proof/Machine/Ops.lean ====
section
/-! DEFINITION. How an instruction ends: retired, jumped, switched out, trapped. Taking an exception (19 R278) and
returning from one (R281). The checks before every instruction, in the order of 05 R108. -/

namespace Sys2Proof.Machine

/-- What an instruction's own effect comes to. -/
inductive Act where
  | done (s : State)                                   -- next word
  | jump (s : State) (pc : Word)
  | stall (s : State)                                  -- switches out; tried again after a completion (02 R20)
  | trap (s : State) (cause : Nat) (detail : Word)
  | gone (s : State)                                   -- parked, aborted, ended, or held in a check
  | stop (f : Fault)
deriving DecidableEq

/-- PFXR and STS.PFX cleared (05 R102). -/
def Strand.clearPfx (t : Strand) : Strand := { t with pfxr := 0, sts := t.sts &&& ~~~ 2 }

/-- The instruction retires: the next word, the prefixes consumed. -/
def Strand.retire (t : Strand) : Strand := { t.clearPfx with pc := t.pc + 4 }

def State.retire (s : State) : State := s.onMe Strand.retire

/-- The address a trap reports: the group's first prefix (05 R107). -/
def Strand.trapPc (t : Strand) : Word := if bitOf t.sts 1 then t.groupPc else t.pc

/-- The 32 bytes of a task's record (02 R21), for the copy of R289. -/
def Task.bytes (k : Task) : List Byte :=
  let w0 := BitVec.ofNat 64 (k.pc.toNat % 2 ^ 56 + k.lane % 16 * 2 ^ 56 + k.nomig.toNat * 2 ^ 60 + k.islocal.toNat * 2 ^ 61)
  bytesOf w0 8 ++ bytesOf ((k.regs[0]?).getD 0) 8 ++ bytesOf ((k.regs[2]?).getD 0) 8 ++ bytesOf ((k.regs[1]?).getD 0) 8

/-- The logical number of a tile in a region. -/
def Region.tileNum (r : Region) (t : Nat) : Option Nat := findAt (· == t) r.tiles

/-- Where the copy of a dual task's record lies in the save area (19 R289; DESIGN CHOICE, log 22): the slot of the
strand that ran it. -/
def Region.recordCopy (r : Region) (sid : Nat) : Word :=
  r.savearea + BitVec.ofNat 64 (((r.tileNum (tileOf sid)).getD 0) * 0x170400 + sid % 16 * 0x6E00)

/-- A dual pair stops, its effects discarded; what happened, a trap or a mismatch counted already, becomes a fault record
with a copy of the task record (R289). -/
def State.dualFault (s : State) (sid cause : Nat) (detail : Word) : State :=
  let t := s.strand sid
  match t.dual, s.region t.rid with
  | some lab, some r =>
    let s := (s.runsOf lab).foldl (fun s i => s.discard i) s
    let addr := r.recordCopy sid
    let s := match lookupKey s.duals lab with
      | some d => s.writeQuiet r.pid addr.toNat d.ready.task.bytes
      | none => s
    { s with duals := dropKey s.duals lab }.raise (s.regions.length + 1) true t.rid cause detail addr
  | _, _ => s

/-- Enters supervisor mode at pc (R278, R279): EPC, ECAUSE, EDETAIL, ESTS, SVSTS written, the prefixes cleared. -/
def Strand.enter (t : Strand) (cause : Nat) (detail pc : Word) : Strand :=
  { t with epc := t.trapPc, ecause := BitVec.ofNat 64 cause, edetail := detail, ests := t.sts
           svsts := 0x801, pfxr := 0, sts := t.sts &&& ~~~ 2, pc := pc, wait := .no, inCheck := false }

/-- Takes a precise trap on a strand (R278): a double fault in supervisor mode; a fault record in a dual run (R289);
the region's handler; without one the region is killed and its parent told. -/
def State.takeTrap (s : State) (sid cause : Nat) (detail : Word) : State :=
  let t := s.strand sid
  let s := s.count t.rid 7
  let s := if cause = 0x17 then s.count t.rid 5 else s
  if t.super then s.killReport t.rid 0x84 (BitVec.ofNat 64 cause) t.trapPc
  else if t.dual.isSome then s.dualFault sid cause detail
  else match s.region t.rid with
    | none => s.setStrand sid (t.enter cause detail 0)
    | some r =>
      if r.fhandler = 0 then s.killReport t.rid cause detail t.trapPc
      else s.setStrand sid (t.enter cause detail r.fhandler)

/-- Ends an instruction. -/
def finish : Act → Host.Outcome State Fault Refusal
  | .done s => .next s.retire
  | .jump s pc => .next (s.onMe (fun t => { t.clearPfx with pc := pc }))
  | .stall s => .next (s.onMe (fun t => { t with wait := .stalled }))
  | .trap s c d => .next (s.takeTrap s.cur c d)
  | .gone s => .next s
  | .stop f => .fault f

/-! ### The checks of 05 R108 -/

/-- Which prefixes may govern an instruction (05 R106). -/
structure Pfx where
  fmt : Bool
  immx : Bool
  hints : List Nat

def Pfx.none : Pfx := ⟨false, false, []⟩
def Pfx.imm : Pfx := ⟨false, true, []⟩
def Pfx.immLoad : Pfx := ⟨false, true, [1, 2, 3]⟩
def Pfx.load : Pfx := ⟨false, false, [1, 2, 3]⟩
def Pfx.branch : Pfx := ⟨false, true, [4, 5]⟩
def Pfx.mode : Pfx := ⟨true, false, []⟩

def Pfx.allows (p : Pfx) (x : Word) : Bool :=
  (p.fmt || !bitOf x 60) && (p.immx || !bitOf x 61) && (!bitOf x 62 || p.hints.contains (fld x 44 4))

/-- Only RM is nonzero in a pending `fmt` (05 R103). -/
def rmOnly (x : Word) : Bool := fld x 0 20 == 0

/-- RM of a pending `fmt`, else RNE. -/
def Strand.rm (t : Strand) : BitVec 2 := if bitOf t.pfxr 60 then bits t.pfxr 20 2 else 0

/-- The predicate a guard names and its value per byte (05 R99, 01 R10). -/
def guardReg (g : Guard) : PReg := g.truncate 3
def Strand.guardBytes (t : Strand) (g : Guard) : BitVec 64 :=
  let p := t.rdP (guardReg g)
  if g.getLsbD 3 then ~~~ p else p
def Strand.guardOn (t : Strand) (g : Guard) : Bool := (t.guardBytes g).getLsbD 0

/-- Register masks for the scoreboard. -/
def sMask (l : List SReg) : BitVec 32 := l.foldl (fun m r => if r = 0 then m else m ||| BitVec.twoPow 32 r.toNat) 0
def vMask (l : List VReg) : BitVec 32 := l.foldl (fun m r => m ||| BitVec.twoPow 32 r.toNat) 0
def kMask (l : List KReg) : BitVec 16 := l.foldl (fun m r => m ||| BitVec.twoPow 16 r.toNat) 0

/-- What the checks need of an instruction: its prefixes, whether its fields are legal under the pending prefixes,
whether it is supervisor-only, its guard (0 where its format has none) and how it reads it, the registers it touches. -/
structure Need where
  px : Pfx := .none
  ok : Bool := true
  priv : Bool := false
  g : Guard := 0
  perByte : Bool := false
  ss : List SReg := []
  vs : List VReg := []
  ks : List KReg := []

/-- Illegal instruction, privilege, guard (05 R108); then the wait for pending registers (R100); then the effect. -/
def checked (s : State) (n : Need) (body : Act) : Act :=
  let t := s.me
  if !(n.px.allows t.pfxr && n.ok) then .trap s 1 0
  else if n.priv && !t.super then .trap s 2 0
  else if t.markP (guardReg n.g) then .trap s 5 (BitVec.ofNat 64 (0x200 + (guardReg n.g).toNat))
  else if !n.perByte && !t.guardOn n.g then .done s
  else if sMask n.ss &&& t.pendS != 0 || vMask n.vs &&& t.pendV != 0 || kMask n.ks &&& t.pendK != 0 then .stall s
  else body

def run (s : State) (n : Need) (body : Act) : Host.Outcome State Fault Refusal := finish (checked s n body)

/-- The first marked register of a list, which the poison-consumption trap names (06 R109, 07 R136). Where several are marked, the
detail names the first in the order in which the instruction lists them: a base before a stride or an index, V[a] before V[b]
(DESIGN CHOICE, log 65: the spec names none). -/
def Strand.firstMark (t : Strand) (l : List SReg) : Option SReg := l.find? t.markS

def poisonS (s : State) (l : List SReg) (k : Act) : Act :=
  match s.me.firstMark l with
  | some r => .trap s 5 (BitVec.ofNat 64 r.toNat)
  | none => k

def poisonP (s : State) (l : List PReg) (k : Act) : Act :=
  match l.find? s.me.markP with
  | some r => .trap s 5 (BitVec.ofNat 64 (0x200 + r.toNat))
  | none => k

def trapV (s : State) (r : VReg) : Act := .trap s 5 (BitVec.ofNat 64 (0x100 + r.toNat))

/-- An immediate field of width w under a pending `immx` (05 R104). -/
def Strand.imm {w : Nat} (t : Strand) (f : BitVec w) : Word :=
  if bitOf t.pfxr 61 then ((bits t.pfxr 22 22) ++ f).signExtend 64 else f.signExtend 64

/-! ### What is outstanding (05 R101): a strand's counters count what it has issued, whichever of its tasks issued it -/

def HomeOp.isLoad (h : HomeOp) : Bool :=
  match h.kind with
  | .amo _ | .cas _ _ => h.d != 0
  | .xrnd _ _ => true
  | _ => false

/-- The task that issued an operation or a command still runs on the strand. -/
def State.mine (s : State) (sid sid' taskNo : Nat) : Bool := sid == sid' && (s.strand sid).taskNo == taskNo

def State.loadsOut (s : State) (sid : Nat) : Nat :=
  (s.strand sid).loads.length + s.homeQ.countP (fun h => h.isLoad && h.sid == sid)
/-- The labels of the stores that a strand still has to perform: those of an irrevocable task's buffer, and of its scratchpad
stores (R101, 03 R49). -/
def Strand.issuedOut (t : Strand) : List Nat :=
  ((if t.restartable then [] else t.buf.map BufUnit.issued) ++ t.spadOut.map SpadStore.issued).foldl addNum []
/-- The stores counter: operations on their way home, and stores not performed yet (R101). -/
def State.storesOut (s : State) (sid : Nat) : Nat :=
  s.homeQ.countP (fun h => !h.isLoad && h.sid == sid) + (s.strand sid).issuedOut.length
def State.homeBusy (s : State) (sid : Nat) : Bool := s.homeQ.any (fun h => h.sid == sid)
def State.copiesOut (s : State) (sid : Nat) : Nat :=
  (s.tile (tileOf sid)).copies.countP (fun c => c.sid == sid) + (s.dies.map (fun d => d.2.encCmds.countP (fun c => c.sid == sid))).sum
/-- A put of the strand is not acknowledged (03 R59, 06 R131). -/
def State.putsOut (s : State) (sid : Nat) : Bool :=
  (s.tile (tileOf sid)).copies.any (fun c => (c.op == 1 || c.op == 2) && c.sid == sid)
/-- Puts or scratchpad stores of the strand are not performed yet: a release waits for them (R124, R130). -/
def State.writesOut (s : State) (sid : Nat) : Bool := s.putsOut sid || (s.strand sid).spadOut != []
/-- A `copyw` of the strand is under way (08 R176). -/
def State.copywOut (s : State) (sid : Nat) : Bool :=
  (s.tile (tileOf sid)).copies.any (fun c => c.op == 4 && c.sid == sid)
def State.matrixOut (s : State) (sid : Nat) : Nat := (s.core (coreOf sid)).mq.countP (fun c => c.sid == sid)
/-- Messages on their way and launches that wait for their tiles. -/
def State.callsOut (s : State) (sid : Nat) : Nat :=
  s.msgs.countP (fun m => m.sid == sid) +
  s.regions.countP (fun r => match r.2.origin with
    | .strand i _ _ => r.2.state == .placing && i == sid
    | _ => false)
/-- Launches that wait for a page. -/
def State.launchesOut (s : State) (sid : Nat) : Nat := s.launches.countP (fun c => c.sid == sid)
/-- Pending tokens of `send` and `launch` (08 R158): those of the running task. -/
def State.tokensOut (s : State) (sid : Nat) : Nat :=
  s.msgs.countP (fun m => m.token != 0 && s.mine sid m.sid m.taskNo) +
  s.launches.countP (fun c => c.token != 0 && s.mine sid c.sid c.taskNo) +
  s.regions.countP (fun r => match r.2.origin with
    | .strand i n t => t != 0 && r.2.state == .placing && s.mine sid i n
    | _ => false)
def State.treesOut (s : State) (sid : Nat) : Nat :=
  (s.dies.map (fun d => d.2.builds.countP (fun c => c.sid == sid))).sum +
  (s.tile (tileOf sid)).relay.cmds.countP (fun c => c.sid == sid) + s.travs.countP (fun c => c.2.sid == sid)
def State.enginesOut (s : State) (sid : Nat) : Nat :=
  s.copiesOut sid + s.matrixOut sid + s.callsOut sid + s.launchesOut sid + s.treesOut sid

/-- Room for one more load or store; the strand's own atomics are performed first (log 5). -/
def memRoom (s : State) (k : Act) : Act :=
  if s.homeBusy s.cur || 32 ≤ s.loadsOut s.cur + s.storesOut s.cur then .stall s else k

/-- Room for one more engine command. -/
def engineRoom (s : State) (k : Act) : Act := if 16 ≤ s.enginesOut s.cur then .stall s else k

/-- An irrevocable act of the current strand: not in a dual run (02 R38). -/
def irrevocable (s : State) (k : State → Act) : Act :=
  if s.me.dual.isSome then .trap s 0x13 0 else k (s.irrevAct s.cur)

/-- A token register becomes pending (05 R100). -/
def State.pendToken (s : State) (t : SReg) : State := s.onMe (fun x => x.pend (.s t 0 false))

/-- A load under way: its registers are pending until LOAD_COMPLETION (05 R100, R101). -/
def State.addLoad (s : State) (l : List RegWrite) : State :=
  s.onMe (fun t => { l.foldl Strand.pend t with loads := t.loads ++ [{ writes := l }] })

/-! ### Return from a trap (19 R281) -/

/-- The state after `rfe`: cycles count again from 0 (R290). -/
def Strand.leave (t : Strand) : Strand :=
  { t with sts := ((t.sts &&& ~~~ 3) ||| (t.ests &&& 1)) ||| boolWord t.svIrrev, pfxr := 0, pc := t.epc, svsts := 0
           svIrrev := false, cycles := 0 }

end Sys2Proof.Machine
end

