-- ==== Sys2Proof/Machine/Flags.lean ====
section
/-! DEFINITION. The conditions of 05 R86 and 06 R121. The machine has no flags of its own (04 R65): a comparison writes
all 64 bits of a predicate (01 R9). -/

namespace Sys2Proof.Machine

/-- x cc y (05 R86); codes 10 to 15 are reserved. -/
def condHolds {w : Nat} (cc : Nat) (x y : BitVec w) : Bool :=
  match cc with
  | 0 => x == y
  | 1 => x != y
  | 2 => x.slt y
  | 3 => y.sle x
  | 4 => x.sle y
  | 5 => y.slt x
  | 6 => x.ult y
  | 7 => y.ule x
  | 8 => x.ule y
  | 9 => y.ult x
  | _ => false

/-- A compare writes its predicate from unmarked operands (06 R109, R110). -/
def Strand.setCond (t : Strand) (d : PReg) (b : Bool) : Strand := t.wrP d (allOnes b) false

/-- The class bits of `fclass` and the FP conditions stand in Float.lean; the precision bit of 05 R90: 0 f64, 1 f32. -/
def precision (q : BitVec 1) : FFmt := if q = 0 then FFmt.f64 else FFmt.f32

def modeOf (t : Strand) : RMode := RMode.ofBits t.rm

end Sys2Proof.Machine
end

