-- ==== Sys2Proof/Machine/Operands.lean ====
section
/-! DEFINITION. The memory operands of a strand (03 R43-R45, R50, 06 R123-R126, 07 R137-R139): windows, loads, stores,
acquire and release, what a translation fault does (20 R302). -/

namespace Sys2Proof.Machine

/-- The three windows (03 R43). -/
inductive Win where
  | glob | spad | stack
deriving DecidableEq, Repr

/-- The window of an access by its first and last performed byte; else the trap's cause (R43-R45). -/
def winOf (f l : Nat) : Except Nat Win :=
  if f < 2 ^ 56 then (if 2 ^ 56 ≤ l then .error 0x0A else .ok .glob)
  else if spadBase ≤ f && f < spadBase + 2 ^ 20 then .ok .spad
  else if stackWin ≤ f && f < stackWin + 0x40000 then (if stackWin + 0x40000 ≤ l then .error 9 else .ok .stack)
  else if stackWin + 0x40000 ≤ f && f < stackWin + 2 ^ 32 then .error 9
  else .error 8

/-- How a load reaches memory: through L1, past it (`.vol`, `.fg`), or acquiring at a scope (06 R124). -/
inductive How where
  | plain | vol | acq (scope : BitVec 2)
deriving DecidableEq, Repr

/-- The parties of a scope for a global location (03 R56): the scope of the party on strand a contains strand b; tile scope
contains a party for scratchpad locations only. -/
def scopeHas (sc : BitVec 2) (a b : Nat) : Bool :=
  if sc = 0 then false else if sc = 1 then dieOf a == dieOf b else true

/-- An acquire at die scope or wider empties the core's L1 (03 R50); 0 stands for tile scope and for none. -/
def State.acquire (s : State) (sid : Nat) (sc : BitVec 2) : State := if sc = 0 then s else s.dropL1 (coreOf sid)

/-- The region of a strand is in debug mode (03 R61). -/
def inDebug (s : State) (sid : Nat) : Bool := ((s.region (s.strand sid).rid).map (·.debug)).getD false

/-- A scope miss of an acquire that reads the line at key (03 R61). -/
def scopeMiss (s : State) (sid : Nat) (sc : BitVec 2) (key : Nat) : Bool :=
  match lookupKey s.lineScope (key / 64) with
  | some (tag, w) => !scopeHas tag w sid || !scopeHas sc sid w
  | none => false

/-- Counts an access whose home die is another (02 R40, 20 R305). An access over two pages counts the home of its first byte
(DESIGN CHOICE, log 48: the spec does not say which of two homes it counts). -/
def State.noteHome (s : State) (sid : Nat) (x : Xlat) : State :=
  let t := s.strand sid
  if x.host || x.fab || homeDie x.key == dieOf sid then s else
  s.setStrand sid { t with counts := bumpAt (if t.counts.isEmpty then List.replicate 12 0 else t.counts) (homeDie x.key) }

/-- A page that is not present (20 R302): a page request; a restartable task is aborted and waits for the page, else
the access parks. -/
def notPresent (s : State) (va : Nat) (k : AccKind) : Act :=
  let t := s.me
  let block := ((s.region t.rid).map (·.block)).getD 0
  let s := s.pageRequest (s.pidOfRegion t.rid) block va k.code (dieOf s.cur) 0
  if t.super || t.irrev then .gone (s.onMe (fun t => { t with wait := .parked }))
  else .gone (s.abort s.cur none true)

/-- What a failed translation of the current strand does (R302). -/
def xlatFault (s : State) (k : AccKind) : XErr × Nat → Act
  | (.notPresent, va) => notPresent s va k
  | (.cls n, va) => .trap s 0x0E (BitVec.ofNat 64 (n * 2 ^ 56 + va))

/-- Translates the listed global addresses for the current strand and counts the access (R305). -/
def State.xlatMine (s : State) (k : AccKind) (l : List Nat) : State × Except (XErr × Nat) (List (Nat × Xlat)) :=
  let t := s.me
  match s.xlats (.core (coreOf s.cur)) (s.pidOfRegion t.rid) (some t.rid) t.super k l [] with
  | (s, .ok m) => (s.noteHome s.cur (placeOf m (l.headD 0)), .ok m)
  | r => r

/-- The bytes of the current strand's stack from an address: device memory at STACKBASE (R45, 19 R279). -/
def stackKey (s : State) (va : Nat) : Nat := s.me.stackbase.toNat + (va - stackWin)

/-- The partition of the current strand reaches the die of a stack address (21 R312). -/
def stackReach (s : State) (key : Nat) : Bool :=
  match s.partition (s.pidOfRegion s.me.rid) with
  | some p => p.dies.contains (homeDie key)
  | none => true

/-- A stack load whose packet is lost is never answered: the access waits, as a parked one (21 R312, log 47). -/
def stackLost (s : State) (key : Nat) : Act := .gone ((s.lost key).onMe (fun t => { t with wait := .parked }))

/-- The mark of the unit that a byte lies in, where a load of the strand would read it. -/
def State.seenMark (s : State) (how : How) (x : Xlat) : Bool :=
  if how ≠ .plain || x.host || x.fab then (s.readOut x.host x.slot x.key).2
  else match lookupKey (s.core (coreOf s.cur)).l1 (x.key / 64) with
    | some l => bitOf l.marks (x.key % 64 / 8)
    | none => s.poisoned x.key

/-- The unit of a byte that the load under way has read before its others (03 R53), read there in the same way. -/
def Strand.seenUnit (t : Strand) (how : How) (x : Xlat) : Option UnitRead :=
  match how with
  | .acq _ => none
  | h => t.seen.find? (fun u => u.unit == x.key / 8 && u.slot == x.slot && u.host == x.host && u.past == (h != .plain))

/-- The unit of a scratchpad byte that the load under way has read before its others (03 R53). -/
def Strand.seenSpad (t : Strand) (how : How) (b : Nat) : Option UnitRead :=
  match how with
  | .acq _ => none
  | _ => t.seen.find? (fun u => u.unit == (spadBase + b) / 8)

/-- The byte j places after an offset of the current strand's scratchpad, with its mark, as a load reads it: one of a unit that the
load has read before is as it was then. -/
def State.readSpad (s : State) (how : How) (o j : Nat) : Byte × Bool :=
  let segs := s.segsOf s.me.rid
  match (spadByte segs o j).bind (fun b => (s.me.seenSpad how b).map (fun u => (u.bytes[b % 8]?).getD (0, false))) with
  | some x => x
  | none => (s.tile (tileOf s.cur)).readSpad segs o j

/-- A byte at a home, or from L1, or from the strand's own buffer (02 R37), with the mark of its 8-byte unit as the buffered
stores leave it (06 R109); one of a unit that the load has read before is as it was then (03 R53). A load after the task's own drained store reads
the home, whatever another party has stored there since (DESIGN CHOICE, log 49: the first case of 03 R55 against R50). -/
def State.readOne (s : State) (how : How) (x : Xlat) : State × (Byte × Bool) :=
  match s.me.seenUnit how x with
  | some u => (s, (u.bytes[x.key % 8]?).getD (0, false))
  | none =>
  match bufByte s.me.buf x.key with
  | some b => (s, (b.1, bufMark s.me.buf x.key (s.seenMark how x)))
  | none =>
    let (s, b) := if how = .plain then s.readL1 (coreOf s.cur) x else (s, s.readOut x.host x.slot x.key)
    (s, (b.1, bufMark s.me.buf x.key b.2))

def State.readMany (s : State) (how : How) : List Xlat → State × List (Byte × Bool)
  | [] => (s, [])
  | x :: r =>
    let (s, b) := s.readOne how x
    let (s, l) := s.readMany how r
    (s, b :: l)

/-- A unit of the scratchpad is read before the next instruction: none where an earlier store of the strand or a matrix instruction
of it may still write it (R49, 09 R189), or at a gap. -/
def State.spadAhead (s : State) (sid va : Nat) : State :=
  let t := s.strand sid
  match spadByte (s.segsOf t.rid) (va - spadBase) 0 with
  | none => s
  | some b =>
    if 0 < s.matrixOut sid || s.bankBusy sid (va - spadBase) [0] then s else
    let x := s.tile (tileOf sid)
    let k := b / 8 * 8
    s.setStrand sid { t with ahead :=
      { unit := (spadBase + b) / 8, slot := none, host := false, past := false
        bytes := (List.range 8).map (fun i => (Memory.get x.spad (k + i), hasNum x.spadPoison (k / 8))) } :: t.ahead }

/-- A strand reads the unit of an address before the next instruction, which may be a load of it (03 R53): nothing else comes of
it. No unit is read while a task waits, or has an atomic on its way, or where the page does not translate. -/
def State.readAhead (s : State) (sid va : Nat) (past : Bool) : State :=
  let t := s.strand sid
  if t.task.isNone || t.wait != .no || s.homeBusy sid then s
  else if spadBase ≤ va && va < spadBase + 2 ^ 20 then s.spadAhead sid va
  else
  let v : State := { s with cur := sid }
  match (v.xlats (.core (coreOf sid)) (s.pidOfRegion t.rid) (some t.rid) t.super .read [va] []).2 with
  | .error _ => s
  | .ok m =>
    let x := placeOf m (va / 8 * 8)
    let bs := (List.range 8).map (fun i =>
      (({ v with strands := putKey s.strands sid { t with seen := [] } } : State).readOne (if past then .vol else .plain)
        { x with key := x.key + i }).2)
    s.setStrand sid { t with ahead :=
      { unit := x.key / 8, slot := x.slot, host := x.host, past := past, bytes := bs } :: t.ahead }

/-- Reads the bytes at a + off for the listed offsets (rising): the state after (translations, a line filled), the bytes
with their poison and the key of the first byte; else what happens instead. The address of the first byte is a sum modulo 2^64
(DESIGN CHOICE, log 71). -/
def State.reading (s : State) (a : Word) (offs : List Nat) (how : How) :
    Except Act (State × List (Byte × Bool) × Option Nat) :=
  match offs with
  | [] => .ok (s, [], none)
  | o :: _ =>
    let f := (a + BitVec.ofNat 64 o).toNat
    let l := f + (offs.getLastD o - o)
    match winOf f l with
    | .error c => .error (.trap s c (BitVec.ofNat 64 f))
    | .ok .spad =>
      -- 09 R189, log 5; 03 R49
      if 0 < s.matrixOut s.cur || s.bankBusy s.cur (f - spadBase) (offs.map (· - o)) then .error (.stall s) else
      .ok (s, offs.map (fun j => s.readSpad how (f - spadBase) (j - o)), none)
    | .ok .stack =>
      if !paExists (stackKey s l) then .error (.stop .noSuchMemory)
      else if !stackReach s (stackKey s l) then .error (stackLost s (stackKey s l))
      else
        let slot := s.defaultSlot (s.pidOfRegion s.me.rid)
        .ok (s, offs.map (fun j => let key := stackKey s (f + (j - o)); (s.readByte slot key, s.poisoned key)), none)
    | .ok .glob =>
      let vas := offs.map (fun j => f + (j - o))
      match s.xlatMine .read vas with
      | (s, .error e) => .error (xlatFault s .read e)
      | (s, .ok m) =>
        let (s, bs) := s.readMany how (vas.map (placeOf m))
        .ok (s, bs, some (placeOf m f).key)

/-- Reads, and goes on with what was read. -/
def loadBytes (s : State) (a : Word) (offs : List Nat) (how : How) (k : State → List (Byte × Bool) → Option Nat → Act) : Act :=
  match s.reading a offs how with
  | .error x => x
  | .ok (s, bs, key) => k s bs key

/-- A store performed at once in supervisor mode makes the task irrevocable (19 R278; a fault-record task too, log 21). -/
def State.superAct (s : State) : State :=
  if s.me.super && s.me.restartable then s.irrevAct s.cur else s

/-- A write-owner entry of another owner covers the address (03 R62). -/
def Region.refuses (r : Region) (owner va : Nat) : Bool :=
  r.wo.any (fun e => (e.allph || e.phase == fld r.kphase 24 8) && e.owner != owner && e.base ≤ va && va < e.base + e.size)

def woRefused (s : State) (rid owner : Nat) (vas : List Nat) : Option Nat :=
  match s.region rid with
  | some r => if r.wo.isEmpty then none else vas.find? (r.refuses owner)
  | none => none

/-- The runs of consecutive offsets, for the signature of a dual run: each is an entry of its own where the disabled bytes of a vector
store part it (DESIGN CHOICE, log 74: 19 R289 gives a store one entry). -/
def logRuns (a : Word) (l : List (Nat × Byte × Bool)) : List Byte :=
  let runs := l.foldr (fun (o, b, _) acc =>
    match acc with
    | (p, bs) :: r => if p = o + 1 then (o, b :: bs) :: r else (o, [b]) :: acc
    | [] => [(o, [b])]) ([] : List (Nat × List Byte))
  runs.flatMap (fun (o, bs) => [1] ++ bytesOf (a + BitVec.ofNat 64 o) 8 ++ natBytes bs.length 1 ++ bs)

/-- An irrevocable act of the current strand, or its trap in a dual run (02 R38). -/
def State.acting (s : State) : Except Act State :=
  if s.me.dual.isSome then .error (.trap s 0x13 0) else .ok (s.irrevAct s.cur)

/-- The next label of a store among those that the strand has not performed (log 42). -/
def Strand.nextIssued (t : Strand) : Nat := (t.buf.map BufUnit.issued ++ t.spadOut.map SpadStore.issued).foldl max 0 + 1

/-- The 8-byte units of a scratchpad store (R53). -/
def spadUnits (label elem o : Nat) (l : List (Nat × Byte × Bool)) : List SpadStore :=
  (l.foldl (fun us y => addNum us ((o + y.1) / 8)) []).map (fun u =>
    { off := o, elem := elem, bytes := l.filter (fun y => (o + y.1) / 8 == u), issued := label })

/-- A scratchpad store is outstanding, unit by unit, until it is performed (03 R49, R53, 14 R257); in supervisor mode it is
performed at once (19 R278). -/
def State.spadStored (s : State) (label elem o : Nat) (l : List (Nat × Byte × Bool)) : State :=
  let us := spadUnits label elem o l
  if s.me.super then us.foldl (fun s x => s.performSpad s.cur x) s
  else s.onMe (fun t => { t with spadOut := t.spadOut ++ us })

/-- The units of a global store. `rel`: the scope of a `.rel` store, kept as the line's tag in a debug region; `label`: that of
the instruction. -/
def State.storeUnits (s : State) (a : Word) (l : List (Nat × Byte × Bool)) (m : List (Nat × Xlat)) (rel : Option (BitVec 2))
    (label : Nat) : List BufUnit :=
  let debug := inDebug s s.cur
  (intoUnits (l.map (fun (o, b, p) => ((a + BitVec.ofNat 64 o).toNat, b, p)))).map
    (fun (u, mask, d, p) =>
      let x := placeOf m u
      { key := x.key, va := u, size := x.size, slot := x.slot, host := x.host, mask := mask, data := d, poison := p
        scope := if debug then rel else none, issued := label })

/-- Units performed at their homes, in order. -/
def State.performUnits (s : State) (l : List BufUnit) : State := l.foldl (fun s u => s.performUnit s.cur u) s

/-- A global store of the current strand: its units enter the store buffer, where those of an irrevocable task leave for
their homes unmerged (05 R101), overflow it, or in supervisor mode are performed at once, after the strand's earlier ones
(02 R36, R37, 19 R278). A release closes the units before it. -/
def State.globalStored (s : State) (a : Word) (l : List (Nat × Byte × Bool)) (units : List BufUnit) (rel : Bool) :
    Except Act State :=
  let t := s.me
  if t.super then .ok ((s.superAct.drain s.cur).performUnits units)
  else
    let n := if rel then t.buf.length else t.closed
    let buf := if t.irrev then t.buf ++ units else mergeUnits n units t.buf
    if Config.storeBufferUnits < (heldUnits buf).length then
      match s.acting with
      | .error x => .error x
      | .ok s => .ok (s.performUnits units)
    else .ok (s.onMe (fun t => { t.log (logRuns a l) with buf := buf, closed := if t.irrev then t.closed else n }))

/-- An outstanding unit must wait for an earlier one: one that reaches its bank (03 R49), or of an earlier element of the same `vstx`
(07 R139). -/
def SpadStore.after (x y : SpadStore) (segs : List (Option Seg)) : Bool :=
  (y.banks segs).any (x.banks segs).contains || (y.issued == x.issued && y.elem != x.elem)

/-- The idx-th outstanding scratchpad unit of a strand is performed, once it waits for no earlier one. -/
def State.spadStore (s : State) (sid idx : Nat) : State :=
  let t := s.strand sid
  match takeAt t.spadOut idx with
  | none => s
  | some (x, rest) =>
    if (t.spadOut.take idx).any (fun y => x.after y (s.segsOf t.rid)) then s
    else ((s.performSpad sid x).onStrand sid (fun t => { t with spadOut := rest })).wake sid

/-- Stores the listed bytes (offset, byte, poison; offsets rising) at a (R123, R137), as the element `elem` of the store of a label:
the state after, else what happens instead. -/
def State.storingAs (s : State) (label elem : Nat) (a : Word) (l : List (Nat × Byte × Bool)) (rel : Option (BitVec 2)) :
    Except Act State :=
  match l with
  | [] => .ok s
  | (o, _, _) :: _ =>
    let f := (a + BitVec.ofNat 64 o).toNat
    let e := f + ((l.getLastD (o, 0, false)).1 - o)
    match winOf f e with
    | .error c => .error (.trap s c (BitVec.ofNat 64 f))
    | .ok .spad =>
      let bs := l.map (fun (j, b, p) => (j - o, b, p))
      -- 09 R189, log 5; 03 R49
      if 0 < s.matrixOut s.cur || (s.me.super && s.bankBusy s.cur (f - spadBase) (bs.map (·.1))) then .error (.stall s) else
      match s.acting with
      | .error x => .error x
      | .ok s => .ok (s.spadStored label elem (f - spadBase) bs)
    | .ok .stack =>
      if !paExists (stackKey s e) then .error (.stop .noSuchMemory)
      else if !stackReach s (stackKey s e) then .ok (s.lost (stackKey s e))
      else
        let slot := s.defaultSlot (s.pidOfRegion s.me.rid)
        .ok ((intoUnits (l.map (fun (j, b, p) => (stackKey s (f + (j - o)), b, p)))).foldl
          (fun s (u, mask, d, p) => s.writeUnit slot u mask d p) s)
    | .ok .glob =>
      let vas := l.map (fun x => f + (x.1 - o))
      match s.xlatMine .write vas with
      | (s, .error e) => .error (xlatFault s .write e)
      | (s, .ok m) =>
        match woRefused s s.me.rid 0 vas with
        | some va => .error (.trap s 0x0C (BitVec.ofNat 64 va))
        | none => s.globalStored a l (s.storeUnits a l m rel label) rel.isSome

/-- Stores the listed bytes as one store of its own. -/
def State.storing (s : State) (a : Word) (l : List (Nat × Byte × Bool)) (rel : Option (BitVec 2)) : Except Act State :=
  s.storingAs s.me.nextIssued 0 a l rel

/-- Stores, and goes on. -/
def storeBytes (s : State) (a : Word) (l : List (Nat × Byte × Bool)) (rel : Option (BitVec 2)) (k : State → Act) : Act :=
  match s.storing a l rel with
  | .error x => x
  | .ok s => k s

/-- The access sizes of 05 R91 and 06 R123: bytes and sign extension. -/
def sizeBytes (sz : BitVec 3) : Nat := 2 ^ (sz.toNat / 2)

def extendLoad (n : Nat) (signed : Bool) (bs : List (Byte × Bool)) : Word :=
  let x := leNat (bs.map (·.1))
  if signed then (BitVec.ofNat (8 * n) x).signExtend 64 else BitVec.ofNat 64 x

def anyMark (bs : List (Byte × Bool)) : Bool := bs.any (·.2)

/-- The lines of an acquiring load's bytes leave the L1, so that no later load of the task goes back behind what it read
(03 R54: only a `.vol` or `.fg` load may be followed by an older value). -/
def State.dropRead (s : State) (key : Option Nat) (n : Nat) : State :=
  match key with
  | some key => s.dropLines (coreOf s.cur) [key, key + (n - 1)]
  | none => s

/-- A scope miss is counted, and in a scope-trap region traps, after the access (03 R61). -/
def scopeMissed (s : State) (a : Word) : Act :=
  let s := s.onMe (fun t => { t with smiss := t.smiss + 1 })
  if ((s.region s.me.rid).map Region.scopetrap).getD false then .trap s 0x0D a else .done s

/-- A scalar load of n bytes into S[d] (R123, R124). -/
def scalarLoad (s : State) (d : SReg) (a : Word) (n : Nat) (signed : Bool) (how : How) : Act :=
  memRoom s <| loadBytes s a (List.range n) how fun s bs key =>
    let s := s.addLoad [.s d (extendLoad n signed bs) (anyMark bs)]
    match how with
    | .acq sc =>
      let s := (s.acquire s.cur sc).dropRead key n
      if inDebug s s.cur && (key.map (scopeMiss s s.cur sc)).getD false then scopeMissed s a else .done s
    | _ => .done s

/-- A scalar store of the low n bytes of S[d] (R123, R124). -/
def scalarStore (s : State) (d : SReg) (a : Word) (n : Nat) (rel : Option (BitVec 2)) : Act :=
  let x := s.me.rd d
  let p := s.me.markS d
  memRoom s <| storeBytes s a ((List.range n).map (fun i => (i, byteAt x i, p))) rel .done

end Sys2Proof.Machine
end

