-- ==== Sys2Proof/Machine/Atomic.lean ====
section
/-! DEFINITION. Integer atomics and exact accumulation (04 R78-R81, 06 R125-R129). -/

namespace Sys2Proof.Machine

/-! ### Ordering codes (05 R91): 1 to 3 acquire, 4 to 6 release, at die, pkg or sys -/

def acqScope (o : BitVec 3) : BitVec 2 := if 1 ≤ o.toNat ∧ o.toNat ≤ 3 then o.truncate 2 else 0
def relScope (o : BitVec 3) : Option (BitVec 2) := if 4 ≤ o.toNat ∧ o.toNat ≤ 6 then some (BitVec.ofNat 2 (o.toNat - 3)) else none

/-- The read-modify-write of an integer atomic (R125): 0 add, 1 and, 2 or, 3 xor, 4 min, 5 max, 6 minz, 7 maxz, 8 swap. -/
def amoNew (op : Nat) (old x : Word) : Word :=
  match op with
  | 0 => old + x
  | 1 => old &&& x
  | 2 => old ||| x
  | 3 => old ^^^ x
  | 4 => if x.slt old then x else old
  | 5 => if old.slt x then x else old
  | 6 => if x.ult old then x else old
  | 7 => if old.ult x then x else old
  | _ => x

/-- An acquiring operation of a scope-trap region: the strand stays on it until it is performed, since the trap of a scope
miss is precise and comes after the access (03 R61). -/
def holdsFor (s : State) (o : BitVec 3) : Bool :=
  acqScope o != 0 && inDebug s s.cur && ((s.region s.me.rid).map Region.scopetrap).getD false

/-- The place of an atomic or exact operation on n bytes: alignment, translation and the write-owner check come before
the irrevocable act (R126); else what happens instead. -/
def State.homePlace (s : State) (a : Word) (n : Nat) (kind : AccKind) : Except Act (State × Xlat) :=
  if a.toNat % n ≠ 0 then .error (.trap s 6 a) else
  match s.xlatMine kind [a.toNat] with
  | (s, .error e) => .error (xlatFault s kind e)
  | (s, .ok m) =>
    match (if kind.writes then woRefused s s.me.rid 0 ((List.range n).map (a.toNat + ·)) else none) with
    | some va => .error (.trap s 0x0C (BitVec.ofNat 64 va))
    | none => .ok (s, placeOf m a.toNat)

/-- An operation leaves for its home, its destinations pending. -/
def State.sendHome (s : State) (h : HomeOp) (w : List RegWrite) : State :=
  let s := s.onMe (fun t => w.foldl Strand.pend t)
  { s with homeQ := s.homeQ ++ [h] }

/-- The operation goes to its home. `k` says what goes there for the place found. -/
def toHome (s : State) (a : Word) (n : Nat) (kind : AccKind) (o : BitVec 3) (irr : Bool)
    (k : State → Xlat → (State → HomeOp → Act) → Act) (w : List RegWrite) : Act :=
  match s.homePlace a n kind with
  | .error x => x
  | .ok (s, x) =>
    k s x fun s h =>
      let go : State → Act := fun s =>
        if holdsFor s o then .gone ((s.sendHome h w).onMe (fun t => { t with wait := .acquire })) else .done (s.sendHome h w)
      if irr then irrevocable s go else go s

/-- The operation of the current strand on the place x of address a, with ordering code o. -/
def homeOp (s : State) (kind : HomeKind) (a : Word) (x : Xlat) (v : Word) (m : Bool) (d e : SReg) (o : BitVec 3) : HomeOp :=
  { kind := kind, sid := s.cur, taskNo := s.me.taskNo, key := x.key, slot := x.slot, pid := s.pidOfRegion s.me.rid
    va := a.toNat, size := x.size, also := none, x := v, xMark := m, d := d, e := e, acq := acqScope o, rel := relScope o }

/-- The operation of an integer atomic on what its unit holds: the value to write, none for a `cas` that fails; and whether
the unit's own poison stays (R125). -/
def HomeKind.update (k : HomeKind) (old x : Word) : Option Word × Bool :=
  match k with
  | .amo op => (some (amoNew op old x), op != 8)
  | .cas e _ => (if old = e then some x else none, false)
  | _ => (none, false)

/-- The mark of the value an integer atomic returns: of its unit, and of its marked sources (R109, R125). -/
def HomeKind.marks (k : HomeKind) (unit x : Bool) : Bool :=
  unit || x || (match k with
    | .cas _ m => m
    | _ => false)

/-- An integer atomic in the scratchpad, performed by the tile (R126). -/
def spadAtomic (s : State) (d : SReg) (a : Word) (x : Word) (v : Bool) (kind : HomeKind) (o : BitVec 3) : Act :=
  if a.toNat % 8 ≠ 0 then .trap s 6 a else
  let off := a.toNat - spadBase
  if 0 < s.matrixOut s.cur || s.bankBusy s.cur off (List.range 8) then .stall s else
  irrevocable s fun s =>
    let segs := (s.myRegion.map Region.segs).getD []
    let t := s.tile (tileOf s.cur)
    let bs := (List.range 8).map (t.readSpad segs off)
    let old := leWord (bs.map (·.1))
    let (new, stays) := kind.update old x
    let s := match new with
      | some y => s.setTile (tileOf s.cur)
          (t.writeSpad segs off ((List.range 8).map (fun i => (i, byteAt y i, v || (anyMark bs && stays)))))
      | none => s
    let s := s.acquire s.cur (acqScope o)
    if d = 0 then .done s else .done (s.addLoad [.s d old (kind.marks (anyMark bs) v)])

/-- An integer atomic (R125, R126). -/
def amoAt (s : State) (d a b : SReg) (o : BitVec 3) (kind : HomeKind) : Act :=
  let t := s.me
  let addr := t.rd a
  memRoom s <|
  if (relScope o).isSome && s.writesOut s.cur then .stall s else
  match winOf addr.toNat addr.toNat with
  | .error c => .trap s c addr
  | .ok .stack => .trap s 0x0B addr
  | .ok .spad => spadAtomic s d addr (t.rd b) (t.markS b) kind o
  | .ok .glob =>
    toHome s addr 8 .atomic o true
      (fun s x k => k s (homeOp s kind addr x (t.rd b) (t.markS b) d 0 o)) [.s d 0 false]

def amoOp (s : State) (g : Guard) (d a b : SReg) (o : BitVec 3) (op : Nat) : Host.Outcome State Fault Refusal :=
  run s { g := g, ss := [d, a, b] } <| poisonS s [a] <|
    amoAt s d a b o (.amo op)

/-- `amoAdd` (R125). -/
def execAmoAdd (g : Guard) (d a b : SReg) (o : BitVec 3) (s : State) : Host.Outcome State Fault Refusal := amoOp s g d a b o 0
/-- `amoAnd` (R125). -/
def execAmoAnd (g : Guard) (d a b : SReg) (o : BitVec 3) (s : State) : Host.Outcome State Fault Refusal := amoOp s g d a b o 1
/-- `amoOr` (R125). -/
def execAmoOr (g : Guard) (d a b : SReg) (o : BitVec 3) (s : State) : Host.Outcome State Fault Refusal := amoOp s g d a b o 2
/-- `amoXor` (R125). -/
def execAmoXor (g : Guard) (d a b : SReg) (o : BitVec 3) (s : State) : Host.Outcome State Fault Refusal := amoOp s g d a b o 3
/-- `amoMin` (R125). -/
def execAmoMin (g : Guard) (d a b : SReg) (o : BitVec 3) (s : State) : Host.Outcome State Fault Refusal := amoOp s g d a b o 4
/-- `amoMax` (R125). -/
def execAmoMax (g : Guard) (d a b : SReg) (o : BitVec 3) (s : State) : Host.Outcome State Fault Refusal := amoOp s g d a b o 5
/-- `amoMinz` (R125). -/
def execAmoMinz (g : Guard) (d a b : SReg) (o : BitVec 3) (s : State) : Host.Outcome State Fault Refusal := amoOp s g d a b o 6
/-- `amoMaxz` (R125). -/
def execAmoMaxz (g : Guard) (d a b : SReg) (o : BitVec 3) (s : State) : Host.Outcome State Fault Refusal := amoOp s g d a b o 7
/-- `amoSwap` (R125). -/
def execAmoSwap (g : Guard) (d a b : SReg) (o : BitVec 3) (s : State) : Host.Outcome State Fault Refusal := amoOp s g d a b o 8
/-- `cas` (R125): S[d] holds the expected value. -/
def execCas (g : Guard) (d a b : SReg) (o : BitVec 3) (s : State) : Host.Outcome State Fault Refusal :=
  run s { g := g, ss := [d, a, b] } <| poisonS s [a] <| amoAt s d a b o (.cas (s.me.rd d) (s.me.markS d))

/-! ### Slots (R78, R79) -/

/-- The checks of a slot operation: the global window, 64-byte alignment, room (R126, R127). -/
def slotAt? (s : State) (addr : Word) (k : Act) : Act :=
  if 2 ^ 56 ≤ addr.toNat then .trap s 0x0B addr else if addr.toNat % 64 ≠ 0 then .trap s 6 addr else k

def xaddOp (s : State) (g : Guard) (a b : SReg) (o : BitVec 3) (kind : HomeKind) : Host.Outcome State Fault Refusal :=
  run s { g := g, ss := [a, b] } <| poisonS s [a] <| memRoom s <|
    if (relScope o).isSome && s.writesOut s.cur then .stall s else
    slotAt? s (s.me.rd a) <|
      toHome s (s.me.rd a) 64 .atomic o true
        (fun s x k => k s (homeOp s kind (s.me.rd a) x (s.me.rd b) (s.me.markS b) 0 0 o)) []

/-- `xadd.f32` (R127). -/
def execXaddF32 (g : Guard) (a b : SReg) (o : BitVec 3) (s : State) : Host.Outcome State Fault Refusal := xaddOp s g a b o .xaddF32
/-- `xadd.f64` (R127). -/
def execXaddF64 (g : Guard) (a b : SReg) (o : BitVec 3) (s : State) : Host.Outcome State Fault Refusal := xaddOp s g a b o .xaddF64

/-- `xmerge` (R127): slot Y at S[b] into slot X at S[a]. -/
def execXmerge (g : Guard) (a b : SReg) (o : BitVec 3) (s : State) : Host.Outcome State Fault Refusal :=
  run s { g := g, ss := [a, b] } <| poisonS s [a, b] <| memRoom s <|
    if (relScope o).isSome && s.writesOut s.cur then .stall s else
    slotAt? s (s.me.rd a) <| slotAt? s (s.me.rd b) <|
      toHome s (s.me.rd a) 64 .atomic o true
        (fun s x k =>
          match s.xlatMine .exactRead [(s.me.rd b).toNat] with
          | (s, .error e) => xlatFault s .exactRead e
          | (s, .ok m) =>
            let y := placeOf m (s.me.rd b).toNat
            k s { homeOp s (.xmerge y.key y.slot) (s.me.rd a) x 0 false 0 0 o with
                    also := some ((s.me.rd b).toNat, y.size) }) []

/-- `xclr` (R129). -/
def execXclr (g : Guard) (a : SReg) (s : State) : Host.Outcome State Fault Refusal :=
  run s { g := g, ss := [a] } <| poisonS s [a] <| memRoom s <| slotAt? s (s.me.rd a) <|
    toHome s (s.me.rd a) 64 .atomic 0 true (fun s x k => k s (homeOp s .xclr (s.me.rd a) x 0 false 0 0 0)) []

/-- `xrnd` (R128): under a pending `fmt` the mode is RM and the mode field must be 0. It reads the slot at its home: bytes of
the slot that the task still holds buffered are neither drained nor seen (DESIGN CHOICE, log 64). -/
def execXrnd (g : Guard) (d a b : SReg) (mode : BitVec 2) (q : BitVec 1) (s : State) : Host.Outcome State Fault Refusal :=
  let t := s.me
  let fv := bitOf t.pfxr 60
  run s { px := .mode, ok := !fv || (rmOnly t.pfxr && mode == 0), g := g, ss := [d, a, b] } <|
    poisonS s [a] <| memRoom s <| slotAt? s (t.rd a) <|
      toHome s (t.rd a) 64 .exactRead 0 false
        (fun s x k => k s (homeOp s (.xrnd (q == 1) (if fv then t.rm else mode)) (t.rd a) x 0 false d b 0))
        [.s d 0 false, .s b 0 false]

/-- A slot as read: the stored bits, with POISON set when a unit is poisoned (R79). -/
def State.readSlot (s : State) (key : Nat) (slot : Option Nat) : BitVec 512 :=
  let v := vecOfFn (fun i => s.readByte slot (key + i))
  if (List.range 8).any (fun u => s.poisoned (key + 8 * u)) then v ||| BitVec.twoPow 512 451 else v

def State.writeSlot (s : State) (key : Nat) (slot : Option Nat) (v : BitVec 512) : State :=
  (List.range 8).foldl (fun s u => s.writeUnit slot (key + 8 * u) (BitVec.allOnes 8) (bits v (64 * u) 64) false) s

def slotMake (n : Int) (flags count : Nat) : BitVec 512 :=
  BitVec.ofNat 512 ((BitVec.ofInt 448 n).toNat + flags % 64 * 2 ^ 448 + min count 0xFFFFFFFF * 2 ^ 480)

def slotN (v : BitVec 512) : Int := (bits v 0 448).toInt
def slotFlags (v : BitVec 512) : Nat := fld v 448 6
def slotCount (v : BitVec 512) : Nat := fld v 480 32

/-- `xadd` of one value to a slot (R79). Flags: 1 NAN, 2 PINF, 4 NINF, 8 POISON, 16 INEX, 32 OVF. -/
def slotAdd (v : BitVec 512) (x : FVal) (poison : Bool) : BitVec 512 :=
  let c := slotCount v + 1
  let fl := slotFlags v
  if poison then slotMake (slotN v) (fl ||| 8) c
  else match x with
    | .nan => slotMake (slotN v) (fl ||| 1) c
    | .inf neg => slotMake (slotN v) (fl ||| (if neg then 4 else 2)) c
    | .fin neg q =>
      let m : Nat := (q * 2 ^ 160).floor.toNat
      let fl := if (m : ℚ) ≠ q * 2 ^ 160 then fl ||| 16 else fl
      if (2 ^ 223 : ℚ) ≤ q then slotMake (slotN v) (fl ||| 32) c
      else slotMake (slotN v + (if neg then -(m : Int) else m)) fl c

/-- `xmerge` (R79). -/
def slotMerge (v w : BitVec 512) : BitVec 512 :=
  slotMake (slotN v + slotN w) (slotFlags v ||| slotFlags w) (slotCount v + slotCount w)

/-- The rounded value of a slot and whether it is marked (R80). -/
def slotRound (v : BitVec 512) (f : FFmt) (m : RMode) : Nat × Bool :=
  let fl := slotFlags v
  if fl.testBit 3 then (f.nan, true)
  else if fl.testBit 0 || (fl.testBit 1 && fl.testBit 2) || fl.testBit 5 then (f.nan, false)
  else if fl.testBit 1 then (f.encInf false, false)
  else if fl.testBit 2 then (f.encInf true, false)
  else (f.round m false ((slotN v : ℚ) / 2 ^ 160), false)

/-- The unit of an integer atomic as its home holds it. -/
def State.homeUnit (s : State) (h : HomeOp) : Word := leWord ((List.range 8).map (fun i => s.readByte h.slot (h.key + i)))

/-- What a home does with one operation: the new memory and what returns. -/
def State.performHome (s : State) (h : HomeOp) : State × List RegWrite :=
  match h.kind with
  | .amo _ | .cas _ _ =>
    let old := s.homeUnit h
    let p := s.poisoned h.key
    let (new, stays) := h.kind.update old h.x
    (match new with
     | some y => s.writeUnit h.slot h.key (BitVec.allOnes 8) y (h.xMark || (p && stays))
     | none => s,
     [.s h.d old (h.kind.marks p h.xMark)])
  | .xaddF32 =>
    (s.writeSlot h.key h.slot (slotAdd (s.readSlot h.key h.slot) (FFmt.f32.decode (h.x.toNat % 2 ^ 32)) h.xMark), [])
  | .xaddF64 => (s.writeSlot h.key h.slot (slotAdd (s.readSlot h.key h.slot) (FFmt.f64.decode h.x.toNat) h.xMark), [])
  | .xmerge k v => (s.writeSlot h.key h.slot (slotMerge (s.readSlot h.key h.slot) (s.readSlot k v)), [])
  | .xmerged y => (s.writeSlot h.key h.slot (slotMerge (s.readSlot h.key h.slot) y), [])
  | .xclr => (s.writeSlot h.key h.slot 0, [])
  | .xrnd f64 m =>
    let v := s.readSlot h.key h.slot
    let (x, p) := slotRound v (if f64 then FFmt.f64 else FFmt.f32) (RMode.ofBits m)
    (s, [.s h.d (BitVec.ofNat 64 x) p, .s h.e (BitVec.ofNat 64 (slotCount v + slotFlags v * 2 ^ 32)) false])

/-- The operation writes its unit, given what the unit holds: all but `xrnd` and a `cas` that fails. -/
def HomeOp.stores (h : HomeOp) (old : Word) : Bool :=
  match h.kind with
  | .cas e _ => old == e
  | .xrnd _ _ => false
  | _ => true

/-- The line a releasing operation of a debug region wrote carries its scope (03 R61). -/
def State.homeTag (s : State) (h : HomeOp) (old : Word) : State :=
  match h.rel with
  | some sc =>
    if inDebug s h.sid && h.stores old then { s with lineScope := putKey s.lineScope (h.key / 64) (sc, h.sid) } else s
  | none => s

/-- What the strand of a performed operation sees: a value on its way to its registers as a load (05 R101), a scope miss
counted, the trap of a scope-trap region or the end of the wait for it (03 R61). -/
def State.homeReturns (s : State) (h : HomeOp) (w : List RegWrite) (miss : Bool) : State :=
  let s := s.onStrand h.sid (fun t =>
    { t with loads := if h.isLoad then t.loads ++ [{ writes := w }] else t.loads
             smiss := if miss then t.smiss + 1 else t.smiss })
  if (s.strand h.sid).wait = .acquire then
    if miss then s.takeTrap h.sid 0x0D (BitVec.ofNat 64 h.va)
    else s.onStrand h.sid (fun t => { t.retire with wait := .no })
  else s.wake h.sid

/-- The operation is performed as one act at the home of its unit or slot. Its line, an acquiring one's whole L1, leaves the
core's L1 (03 R50, R54). -/
def State.homeAct (s : State) (h : HomeOp) : State :=
  let live := s.mine h.sid h.sid h.taskNo
  let old := s.homeUnit h
  let miss := h.acq != 0 && inDebug s h.sid && scopeMiss s h.sid h.acq h.key
  let (s, w) := s.performHome h
  let s := if live then s.homeTag h old else s
  let s := (s.dropLines (coreOf h.sid) [h.key]).acquire h.sid h.acq
  if live then s.homeReturns h w miss else s

/-- HOME_ATOMIC (06 R125, 04 R81): the idx-th operation on its way is performed at its home. An `xmerge` of two slots first
reads Y, as one act at Y's home, and goes on to the home of X. -/
def execHomeAtomic (idx : Nat) (s : State) : Host.Outcome State Fault Refusal :=
  match takeAt s.homeQ idx with
  | none => .next s
  | some (h, rest) =>
    match h.kind with
    | .xmerge k v =>
      if k = h.key then .next ({ s with homeQ := rest }.homeAct h)
      else .next ({ s with homeQ := setAt s.homeQ idx { h with kind := .xmerged (s.readSlot k v), also := none } }.dropLines
        (coreOf h.sid) [k])
    | _ => .next ({ s with homeQ := rest }.homeAct h)

/-- LOAD_COMPLETION (05 R101): the value of the idx-th outstanding load of a strand is written. -/
def execLoadCompletion (sid idx : Nat) (s : State) : Host.Outcome State Fault Refusal :=
  match takeAt (s.strand sid).loads idx with
  | none => .next s
  | some (l, rest) => .next ((s.onStrand sid (fun t => l.writes.foldl Strand.apply { t with loads := rest })).wake sid)

/-- STORE_DRAIN (02 R36): the oldest buffered unit of an irrevocable task reaches its home. -/
def execStoreDrain (sid : Nat) (s : State) : Host.Outcome State Fault Refusal :=
  let t := s.strand sid
  match t.buf with
  | u :: r => if t.restartable then .next s else .next ((s.performUnit sid u).onStrand sid (fun t => { t with buf := r }))
  | [] => .next s

end Sys2Proof.Machine
end

