-- ==== Sys2Proof/Machine/Control.lean ====
section
/-! DEFINITION. Branches, jumps, pause, fences, waits, `srd` (06 R115-R118, R130-R133). -/

namespace Sys2Proof.Machine

/-- `b.cc` (R115): offsets count words from the branch itself. -/
def execBCc (cc : BitVec 4) (a b : SReg) (off : BitVec 12) (s : State) : Host.Outcome State Fault Refusal :=
  run s { px := .branch, ss := [a, b] } <| poisonS s [a, b] <|
    if condHolds cc.toNat (s.me.rd a) (s.me.rd b) then .jump s (s.me.pc + s.me.imm off * 4) else .done s

/-- `bi.cc` (R115): `immx` widens off and not imm5 (05 R104). -/
def execBiCc (cc : BitVec 4) (a : SReg) (imm : BitVec 5) (off : BitVec 12) (s : State) : Host.Outcome State Fault Refusal :=
  run s { px := .branch, ss := [a] } <| poisonS s [a] <|
    if condHolds cc.toNat (s.me.rd a) (sext imm) then .jump s (s.me.pc + s.me.imm off * 4) else .done s

/-- `j` (R116). -/
def execJ (imm : BitVec 21) (s : State) : Host.Outcome State Fault Refusal :=
  run s { px := .imm } (.jump s (s.me.pc + s.me.imm imm * 4))

/-- `jal` (R116). -/
def execJal (d : SReg) (imm : BitVec 21) (s : State) : Host.Outcome State Fault Refusal :=
  run s { px := .imm, ss := [d] } (.jump (s.onMe (fun t => t.wr d (t.pc + 4) false)) (s.me.pc + s.me.imm imm * 4))

/-- `jalr` (R117): the target is formed from the old S[a]. -/
def execJalr (g : Guard) (d a : SReg) (imm : BitVec 12) (s : State) : Host.Outcome State Fault Refusal :=
  let target := s.me.rd a + s.me.imm imm * 4
  run s { px := .imm, g := g, ss := [d, a] } <| poisonS s [a] <|
    if fld target 0 2 ≠ 0 then .trap s 7 target
    else .jump (s.onMe (fun t => t.wr d (t.pc + 4) false)) target

/-- `pause` (R118, 01 R15): the strand waits S[a] to S[a] + 64 core cycles; with a count of 0 it is ready again at once. -/
def execPause (a : SReg) (s : State) : Host.Outcome State Fault Refusal :=
  run s { ss := [a] } <| poisonS s [a] <|
    .done (s.onMe (fun t => { t with wait := if t.rd a = 0 then .no else .paused ((t.rd a).toNat + 64) }))

/-- `fence.acq` (R130): every earlier load is performed, the values of atomics that are still on their way among them. -/
def execFenceAcq (sc : BitVec 2) (s : State) : Host.Outcome State Fault Refusal :=
  run s {} (if s.homeBusy s.cur then .stall s else .done (s.acquire s.cur sc))

/-- A release in the program: later stores merge into no unit that is buffered now (R130). -/
def Strand.close (t : Strand) : Strand := { t with closed := t.buf.length }

/-- `fence.rel` (R130): every earlier access and put is performed, or stands before it in the store buffer. -/
def execFenceRel (_ : BitVec 2) (s : State) : Host.Outcome State Fault Refusal :=
  run s {} (if s.writesOut s.cur || s.homeBusy s.cur then .stall s else .done (s.onMe Strand.close))

/-- `fence.ar` (R130): both. -/
def execFenceAr (sc : BitVec 2) (s : State) : Host.Outcome State Fault Refusal :=
  run s {} (if s.writesOut s.cur || s.homeBusy s.cur then .stall s else .done ((s.acquire s.cur sc).onMe Strand.close))

/-- `fence.p` (R131, 03 R59): every earlier put is acknowledged. -/
def execFenceP (s : State) : Host.Outcome State Fault Refusal := run s {} (if s.putsOut s.cur then .stall s else .done s)

/-- `waitc` (R132, 05 R101). -/
def execWaitc (l st : BitVec 6) (c m : BitVec 5) (s : State) : Host.Outcome State Fault Refusal :=
  run s {} (if s.loadsOut s.cur ≤ l.toNat && s.storesOut s.cur ≤ st.toNat && s.copiesOut s.cur ≤ c.toNat &&
    s.matrixOut s.cur ≤ m.toNat then .done s else .stall s)

/-! ### Special registers (02 R19, R133, 19 R279, 20 R294, R301, R309, 21 R311, 22 R327) -/

/-- The logical number of the current tile in its region (R19). -/
def State.tnum (s : State) : Nat := ((s.myRegion.bind (fun r => r.tileNum (tileOf s.cur)))).getD 0

/-- The core cycles a strand spends: a pause runs down and ends by itself at its upper bound (01 R15), a user task's CYCLES
counts (06 R133, 19 R290). -/
def Strand.spend (t : Strand) (n : Nat) : Strand :=
  let t := match t.wait with
    | .paused k => { t with wait := if k ≤ n then .no else .paused (k - n) }
    | _ => t
  if t.task.isSome && !t.super then { t with cycles := t.cycles + n } else t

/-- The cycles a core spends: those that are stretched run down and count in TERR (22 R326, log 61). -/
def Core.spend (k : Core) (n : Nat) : Core :=
  { k with stretch := k.stretch - n, terr := min (k.terr + min k.stretch n) (2 ^ 64 - 1) }

/-- PARTINFO (21 R311). -/
def partInfo (pid : Nat) (p : Partition) : Word :=
  BitVec.ofNat 64 (p.kcount % 512 * 2 ^ 41 + p.kbase % 512 * 2 ^ 32 + pid % 16 * 2 ^ 28 +
    (p.dies.foldl (fun n d => n + 2 ^ d) 0) * 2 ^ 16 + p.ports.toNat)

/-- A core sprints while a strand of it holds a task of a region whose lease is active and not spent (22 R331). -/
def State.sprinting (s : State) (c : Nat) : Bool :=
  (List.range 4).any (fun i =>
    let t := s.strand (4 * c + i)
    t.task.isSome && (match s.region t.rid with
      | some r => r.leaseActive && r.leaseLeft != 0
      | none => false))

/-- The clock of a core in MHz: what the governor set, within the core limit, 2,100 MHz while it sprints (22 R325, R331). -/
def State.clock (s : State) (c : Nat) : Nat := min (s.core c).freq (if s.sprinting c then 2100 else s.config.coreLimit)

/-- PWRSTAT (22 R327). -/
def pwrStat (s : State) : Word :=
  let t := s.tile (tileOf s.cur)
  BitVec.ofNat 64 (s.clock (coreOf s.cur) % 65536 * 2 ^ 32 + t.temp.toNat * 2 ^ 24 + (s.sprinting (coreOf s.cur)).toNat * 4 + t.overi.toNat * 2 + t.hot.toNat)

/-- A counter that saturates. -/
def sat64 (n : Nat) : Word := BitVec.ofNat 64 (min n (2 ^ 64 - 1))

/-- The value `srd` reads; write-only registers read 0 (01 R5). -/
def State.readSel (s : State) (sel : Nat) : Word :=
  let t := s.me
  let r := s.myRegion
  let part := s.partition (s.pidOfRegion t.rid)
  match sel with
  | 0x000 => t.sts
  | 0x001 => t.pfxr
  | 0x010 => BitVec.ofNat 64 s.tnum
  | 0x011 => BitVec.ofNat 64 ((r.map (fun r => r.tiles.length)).getD 0)
  | 0x012 => BitVec.ofNat 64 ((r.map (fun r => r.rectH % 65536 * 65536 + r.rectW % 65536)).getD 0)
  | 0x013 => BitVec.ofNat 64 (((r.bind (fun r => r.posns[s.tnum]?)).map (fun p => p.1 * 65536 + p.2)).getD 0)
  | 0x014 => BitVec.ofNat 64 (s.cur % 16)
  | 0x015 => ((r.map Region.kphase).getD 0).zeroExtend 64
  | 0x020 => BitVec.ofNat 64 t.smiss
  | 0x030 => BitVec.ofNat 64 t.cycles
  | 0x031 => BitVec.ofNat 64 s.meshTime
  | 0x400 => t.epc
  | 0x401 => t.ecause
  | 0x402 => t.edetail
  | 0x403 => t.ests
  | 0x405 => t.kscratch
  | 0x408 => (r.map (·.block)).getD 0
  | 0x409 => t.svsts
  | 0x410 => t.stackbase
  | 0x424 => t.regstat
  | 0x430 => (part.map (·.ptroot)).getD 0
  | 0x431 => (part.map (·.prqbase)).getD 0
  | 0x440 => sat64 (s.die (dieOf s.cur)).cecount
  | 0x441 => sat64 (s.die (dieOf s.cur)).uecount
  | 0x442 => (s.die (dieOf s.cur)).lastue
  | 0x450 => (part.map (partInfo (s.pidOfRegion t.rid))).getD 0
  | 0x461 => pwrStat s
  | 0x462 => sat64 (s.core (coreOf s.cur)).terr
  | 0x463 => sat64 (s.tile (tileOf s.cur)).wheld
  | _ => 0

/-- `srd` (R133): selectors 0x400 to 0x7FF are supervisor-only. -/
def execSrd (g : Guard) (d : SReg) (sel : BitVec 11) (s : State) : Host.Outcome State Fault Refusal :=
  run s { priv := sel.getLsbD 10, g := g, ss := [d] }
    (.done (s.onMe (fun t => t.wr d (s.readSel sel.toNat) false)))

end Sys2Proof.Machine
end

