-- ==== Sys2Proof/Machine/Keccak.lean ====
section
/-! DEFINITION. SHAKE256, which 02 R41, 19 R289 and 22 R336 name (FIPS 202; PRESUMED from outside the spec, log 18). The
1,600 bits are held as five sheets of five words. The rotations and the moves of the words come from one walk over the
sheets, the round constants from their feedback register. -/

namespace Sys2Proof.Machine

/-- Word y of sheet x. -/
abbrev Sheets := List (List Word)

def Sheets.word (a : Sheets) (x y : Nat) : Word := (a[x]?.bind (·[y]?)).getD 0

/-- Five sheets, word by word. -/
def sheetsOf (f : Nat → Nat → Word) : Sheets := (List.range 5).map (fun x => (List.range 5).map (f x))

/-- The walk from a place: each step rotates by one more triangular number and goes from (x, y) to (y, 2 x + 3 y). -/
def walkSheets (x y t : Nat) : Nat → List (Nat × Nat)
  | 0 => []
  | n + 1 => (5 * x + y, (t + 1) * (t + 2) / 2 % 64) :: walkSheets y ((2 * x + 3 * y) % 5) (t + 1) n

/-- Every word but the first, in the order of the walk, with its rotation. -/
def laneWalk : List (Nat × Nat) := walkSheets 1 0 0 24

/-- The parity of each column goes into the columns beside it. -/
def Sheets.mix (a : Sheets) : Sheets :=
  let parity := a.map (fun col => col.foldl (· ^^^ ·) 0)
  let near := List.zipWith (fun l r => l ^^^ r.rotateLeft 1) (parity.rotateRight 1) (parity.rotateLeft 1)
  List.zipWith (fun col d => col.map (· ^^^ d)) a near

/-- Every word is rotated and moves to the next place of the walk. -/
def Sheets.turn (a : Sheets) : Sheets :=
  let moved := (laneWalk.map (fun (i, r) => (a.word (i / 5) (i % 5)).rotateLeft r)).rotateRight 1
  let put := (laneWalk.map (·.1)).zip moved
  sheetsOf (fun x y => ((put.find? (fun c => c.1 == 5 * x + y)).map (·.2)).getD (a.word x y))

/-- The one step that is not linear. -/
def Sheets.fold (a : Sheets) : Sheets :=
  List.zipWith (fun u vw => List.zipWith (fun x yz => x ^^^ (~~~ yz.1 &&& yz.2)) u (vw.1.zip vw.2)) a
    ((a.rotateLeft 1).zip (a.rotateLeft 2))

/-- The feedback register x^8 + x^6 + x^5 + x^4 + 1 after n steps. -/
def feedback : Nat → Nat
  | 0 => 1
  | n + 1 => let r := 2 * feedback n; if 256 ≤ r then r ^^^ 0x171 else r

/-- The constant of a round: bit 2^j - 1 is the register's output after j + 7 times the round steps. -/
def roundWord (r : Nat) : Word :=
  BitVec.ofNat 64 ((List.range 7).map (fun j => feedback (j + 7 * r) % 2 * 2 ^ (2 ^ j - 1))).sum

def Sheets.round (a : Sheets) (r : Nat) : Sheets :=
  let b := a.mix.turn.fold
  sheetsOf (fun x y => if x = 0 && y = 0 then b.word 0 0 ^^^ roundWord r else b.word x y)

def Sheets.permute (a : Sheets) : Sheets := (List.range 24).foldl Sheets.round a

/-- The message with the domain bits 1111, the first and last bit of the padding, in whole blocks of 136 bytes. -/
def shakeBlocks (m : List Byte) : List (List Byte) :=
  let n := m.length / 136
  let tail := m.drop (136 * n)
  let last := (List.range 136).map (fun i =>
    (tail[i]?).getD (if i = tail.length then 0x1F else 0) ^^^ (if i = 135 then 0x80 else 0))
  (List.range n).map (fun k => (m.drop (136 * k)).take 136) ++ [last]

/-- A block goes into the first 17 words, word i being (i mod 5, i div 5). -/
def Sheets.absorb (a : Sheets) (blk : List Byte) : Sheets :=
  (sheetsOf (fun x y => a.word x y ^^^ (if x + 5 * y < 17 then leWord ((blk.drop (8 * (x + 5 * y))).take 8) else 0))).permute

/-- The first n bytes (n at most 136) of SHAKE256. -/
def shake256 (m : List Byte) (n : Nat) : List Byte :=
  let a := (shakeBlocks m).foldl Sheets.absorb (sheetsOf (fun _ _ => 0))
  ((List.range 17).flatMap (fun i => bytesOf (a.word (i % 5) (i / 5)) 8)).take n

end Sys2Proof.Machine
end

