-- ==== Sys2Proof/Machine/Launch.lean ====
section
/-! DEFINITION. Launch packets and the creation and placement of regions (02 R29-R32, 03 R46, 08 R159, 19 R284). -/

namespace Sys2Proof.Machine

/-! ### Records (02 R21, R22) -/

/-- Reserved flag bits or CODE[1:0] nonzero. -/
def malformed (w0 : Word) : Bool := fld w0 62 2 != 0 || fld w0 0 2 != 0

/-- A well-formed code address (R21): in the global window, a multiple of 4. -/
def codeOk (x : Word) : Bool := fld x 56 8 == 0 && fld x 0 2 == 0

/-- The task of a record; `maker` is the tile that made it ready (R21); marks of words 1 to 3 mark s3, s5 and s4
(06 R109). -/
def recordTask (w0 w1 w2 w3 : Word) (m1 m2 m3 : Bool) (maker : Nat) : Task :=
  let local' := bitOf w0 61
  { kind := 0, lane := fld w0 56 4, pc := BitVec.ofNat 64 (fld w0 0 56), regs := [w1, w3, w2, 0, 0, 0, 0, 0, 0]
    marks := BitVec.ofNat 32 (m1.toNat * 8 + m3.toNat * 16 + m2.toNat * 32)
    pin := if local' then some maker else none, islocal := local', nomig := bitOf w0 60, firstPins := false
    first := false, lastAct := false, ticket := none }

/-- A piece of work becomes ready at a level (19 R286). -/
def State.ready (s : State) (k : Task) (level : Nat) : Ready :=
  { task := k, t0 := s.meshTime, level := min 7 level, page := false, die := none, tileNot := [] }

def laneLevel (r : Region) (i : Nat) : Nat := r.prio + ((r.lanes[i]?).map (·.o)).getD 0

/-! ### Tiles of a partition -/

def State.enabledTile (s : State) (t : Nat) : Bool := !s.disabled.contains t

def State.partTiles (s : State) (p : Partition) : List Nat :=
  (p.dies.foldl addNum []).flatMap (fun d => (tilesOfDie d).filter s.enabledTile)

/-- A rectangle at a corner lies inside the partition's dies (R31). -/
def rectInside (p : Partition) (w h r c : Nat) : Bool :=
  r + h ≤ Config.meshRows && c + w ≤ Config.meshCols &&
  (List.range ((r + h - 1) / 16 - r / 16 + 1)).all (fun i =>
    (List.range ((c + w - 1) / 16 - c / 16 + 1)).all (fun j => p.dies.contains ((r / 16 + i) * 4 + (c / 16 + j))))

/-- The enabled positions of a rectangle, row-major: tile, row, column. -/
def State.rectTiles (s : State) (w h r c : Nat) : List (Nat × Nat × Nat) :=
  (List.range (w * h)).filterMap (fun i =>
    let y := i / w
    let x := i % w
    let t := (r + y) * Config.meshCols + (c + x)
    if s.enabledTile t then some (t, y, x) else none)

/-- The corners where a rectangle fits and holds an enabled position. -/
def State.rectPlaces (s : State) (p : Partition) (w h : Nat) : List (Nat × Nat) :=
  if w = 0 || h = 0 || Config.meshCols < w || Config.meshRows < h then [] else
  ((List.range (Config.meshRows * Config.meshCols)).map (fun i => (i / Config.meshCols, i % Config.meshCols))).filter
    (fun x => rectInside p w h x.1 x.2 && !(s.rectTiles w h x.1 x.2).isEmpty)

/-! ### Segment tables (03 R46) -/

/-- One entry: absent, present, or refused. -/
def segEntry (e : Word) : Except Unit (Option Seg) :=
  let size := fld e 24 21
  let base := fld e 0 20
  let swz := fld e 45 3
  if fld e 48 16 ≠ 0 || fld e 20 4 ≠ 0 then .error ()
  else if swz = 7 then .error ()
  else if size = 0 then .ok none
  else
    let g : Seg := { base := base, size := size, swz := swz }
    if size % 64 ≠ 0 || 0x100000 < size || base % g.span ≠ 0 || 0x100000 < base + g.span then .error ()
    else .ok (some g)

def spansOverlap (a b : Seg) : Bool := a.base < b.base + b.span && b.base < a.base + a.span

def pairwiseApart : List Seg → Bool
  | [] => true
  | a :: r => r.all (fun b => !spansOverlap a b) && pairwiseApart r

/-- The eight entries of a table, if R46 accepts them. -/
def segTable (l : List Byte) : Option (List (Option Seg)) :=
  let es := (List.range 8).map (fun i => segEntry (BitVec.ofNat 64 (fieldAt l (8 * i) 8)))
  let ok := es.filterMap (fun e => match e with
    | .ok x => some x
    | .error _ => none)
  if ok.length = 8 && pairwiseApart (ok.filterMap id) then some ok else none

/-! ### Packets (02 R29, R30) -/

def laneOf (parent : Lane) (d : Nat) : Option Lane :=
  let c := d % 32
  let o := d / 32 % 8
  if d / 256 ≠ 0 then none
  else if d = 0 then some { parent with queue := [], reserved := 0, chain := [] }
  else
    let blank : Lane := { disabled := false, c := 4, o := o, queue := [], reserved := 0, chain := [] }
    if c = 0 then some { blank with disabled := parent.disabled, c := parent.c }
    else if c = 31 then some { blank with disabled := true, c := parent.c }
    else if 4 ≤ c ∧ c ≤ 20 then some { blank with c := c } else none

def laneBytes (l : Lane) : Nat := if l.disabled then 0 else 32 * 2 ^ l.c

/-- What a launch comes to before its tiles are placed. -/
inductive LaunchRes where
  | refused (code : Nat)
  | placing (rid : Nat)
  | fault (e : XErr × Nat)
deriving DecidableEq, Repr

def orParent (x y : Nat) : Nat := if x = 0 then y else x

/-- The fields of a packet in range (R29); the lanes after inheritance. -/
def packetLanes (par : Region) (pk : List Byte) : Option (List Lane) :=
  let ls := (List.range 16).filterMap (fun i =>
    (par.lanes[i]?).bind (fun l => laneOf l (fieldAt pk (80 + 2 * i) 2)))
  if ls.length = 16 then some ls else none

def packetOk (pk : List Byte) : Bool :=
  fieldAt pk 60 1 < 16 && fieldAt pk 61 1 / 8 % 16 == 0 && fieldAt pk 62 1 ≤ 64

/-- The tile count a packet asks for: none when it is refused (R31). Of a rectangle it is the count at the first corner,
row-major, where the rectangle fits, though the tiles it is given later may be another number (DESIGN CHOICE, log 54). -/
def State.wanted (s : State) (p : Partition) (par : Region) (cnt w h : Nat) : Option (Option Nat × Nat × Nat × Nat) :=
  if cnt = 0 && w = 0 && h = 0 then some (none, par.rectW, par.rectH, par.tiles.length)
  else if w ≠ 0 && h ≠ 0 && cnt = 0 then
    match s.rectPlaces p w h with
    | [] => none
    | (r, c) :: _ => some (none, w, h, (s.rectTiles w h r c).length)
  else if w = 0 && h = 0 && cnt ≤ (s.partTiles p).length then some (some cnt, cnt, 1, cnt)
  else none

def up64 (n : Nat) : Nat := (n + 63) / 64 * 64

/-- Allots n bytes in the partition's memory, 64-byte aligned (log 12). -/
def State.allot (s : State) (n : Nat) : State × Word :=
  ({ s with nextBlock := s.nextBlock + up64 n }, BitVec.ofNat 64 s.nextBlock)

/-- Checks a packet and creates the child, PLACING (R159). What the parent has left (R23) is its budget less what is charged
to its children, its own lanes, barriers and pins not counted (DESIGN CHOICE, log 55). A child that inherits the flags byte
(R30) starts with DEBUG and SCOPETRAP 0, which no packet names (DESIGN CHOICE, log 56). -/
def State.launchRegion (s : State) (a : Agent) (super : Bool) (parRid : Nat) (pk : List Byte) (origin : Origin)
    (gen : Option LaunchId) : State × LaunchRes :=
  match s.region parRid with
  | none => (s, .refused 1)
  | some par =>
  match s.partition par.pid with
  | none => (s, .refused 1)
  | some p =>
  let segtab := fieldAt pk 112 8
  let w0 := BitVec.ofNat 64 (fieldAt pk 0 8)
  match packetLanes par pk, s.wanted p par (fieldAt pk 40 4) (fieldAt pk 44 2) (fieldAt pk 46 2) with
  | some ls, some (want, w, h, n) =>
    let q := orParent (fieldAt pk 48 8) par.qbudget
    let bb := orParent (fieldAt pk 56 2) par.bbudget
    let pb := orParent (fieldAt pk 58 2) par.pbudget
    let need := (ls.map laneBytes).foldl (· + ·) 0 + 128 * 16 * n
    let laneOff := ((ls[fld w0 56 4]?).map (·.disabled)).getD true
    if !packetOk pk || malformed w0 || laneOff || q < need || segtab % 64 ≠ 0 || 2 ^ 56 ≤ segtab then (s, .refused 1)
    else
      let (s, segs) : State × Except (XErr × Nat) (Option (List (Option Seg))) :=
        if segtab = 0 then (s, .ok (some par.segs))
        else match s.readVirt a par.pid (some parRid) super segtab 64 with
          | (s, .error e) => (s, .error e)
          | (s, .ok l) => (s, .ok (segTable (l.map (·.1))))
      match segs with
      | .error e => (s, .fault e)
      | .ok none => (s, .refused 1)
      | .ok (some segs) =>
        if par.qbudget < par.qused + q || par.bbudget < par.bused + bb || par.pbudget < par.pused + pb then
          (s, .refused 2)
        else
          let rid := s.nextId
          let s := { s with nextId := rid + 1 }
          let (s, block) := s.allot 512
          -- the areas hold a rectangle wherever it is placed, with every position enabled (19 R288)
          let most := if want.isNone && fieldAt pk 44 2 ≠ 0 then max n (w * h) else n
          let (s, save) := s.allot (0x170400 * most)
          let (s, qarea) := s.allot ((ls.map laneBytes).foldl (· + ·) 0 + 128 * 16 * most)
          let (s, tmap) := s.allot (2 * most)
          let pri := fieldAt pk 60 1
          let fl := fieldAt pk 61 1
          let kph := BitVec.ofNat 32 (orParent (fieldAt pk 64 4) par.kphase.toNat)
          let first := { recordTask w0 (BitVec.ofNat 64 (fieldAt pk 8 8)) (BitVec.ofNat 64 (fieldAt pk 16 8))
            (BitVec.ofNat 64 (fieldAt pk 24 8)) false false false 0 with
              pin := none, firstPins := bitOf w0 61, first := true }
          let r : Region :=
            { pid := par.pid, block := block, parent := some parRid, state := .placing
              prio := if pri = 0 then par.prio else pri % 8
              ordered := if fl = 0 then par.ordered else fl.testBit 0
              dual := if fl = 0 then par.dual else fl.testBit 1
              fixed := if fl = 0 then par.fixed else fl.testBit 2
              debug := false, scopetrap := false, mailbox := orParent (fieldAt pk 62 1) par.mailbox
              rhome := orParent (fieldAt pk 63 1) par.rhome, agek := par.agek, runlim := par.runlim
              drainlim := par.drainlim, kphase := kph, fdomain := BitVec.ofNat 32 (fieldAt pk 68 4)
              fhandler := BitVec.ofNat 64 (orParent (fieldAt pk 72 8) par.fhandler.toNat)
              globals := BitVec.ofNat 64 (orParent (fieldAt pk 32 8) par.globals.toNat), qbudget := q, bbudget := bb
              pbudget := pb, bwdog := par.bwdog, quota := par.quota, lanes := ls
              segtab := if segtab = 0 then par.segtab else BitVec.ofNat 64 segtab, segs := segs
              winjoin := BitVec.ofNat 64 (fieldAt pk 120 8), wotab := 0, wo := [], savearea := save, qarea := qarea
              tilemap := tmap, leaseLeft := 0, leaseActive := false, leaseSlots := []
              counters := List.replicate 8 0, tiles := [], want := want, rectW := w, rectH := h, posns := []
              inherits := want.isNone && fieldAt pk 44 2 == 0, resuming := false, saveParked := false
              requeue := [], faults := [], mail := [], windows := 0, charged := (q, bb, pb), qused := 0, bused := 0
              pused := 0, barriersHeld := 0, pinsHeld := 0, preemptAt := 0, strandsSaved := [], dequesSaved := []
              relaySaved := [], copiesSaved := [], dispatched := 0, tolerance := none, origin := origin
              first := some (s.ready first (if pri = 0 then par.prio else pri % 8)), generation := gen, points := [] }
          let s := s.onRegion parRid (fun x => { x with qused := x.qused + q, bused := x.bused + bb, pused := x.pused + pb })
          ((s.setRegion rid r).blockOut rid 0 512, .placing rid)
  | _, _ => (s, .refused 1)

/-! ### Placement (R31, R32, R284) -/

/-- The positions of a list of tiles, in its own order, when they have the shape of the region (R31). -/
def State.shape (s : State) (p : Partition) (r : Region) (tiles : List Nat) : Option (List (Nat × Nat)) :=
  if r.inherits then
    match r.parent.bind s.region with
    | some par => if tiles = par.tiles then some par.posns else none
    | none => none
  else match r.want with
    | some n =>
      if tiles.length = n && (tiles.foldl addNum []) = tiles && tiles.all (fun t => s.enabledTile t && p.dies.contains (dieOfTile t))
      then some ((List.range n).map (fun i => (0, i))) else none
    | none =>
      ((s.rectPlaces p r.rectW r.rectH).find? (fun x => (s.rectTiles r.rectW r.rectH x.1 x.2).map (·.1) == tiles)).map
        (fun x => (s.rectTiles r.rectW r.rectH x.1 x.2).map (fun y => (y.2.1, y.2.2)))

/-- The tiles that a rerun under fixed placement receives: those of the previous run of the kernel, fixed or not, if all are
enabled and have the shape asked for (R32, 22 R337; the last condition is log 52). -/
def State.lastRun (s : State) (p : Partition) (r : Region) : Option (List Nat) :=
  if !r.fixed then none else
  match s.fixedRuns.find? (fun x => x.1 == r.pid && x.2.1 == fld r.kphase 0 24) with
  | some (_, _, l) => if l.all s.enabledTile && (s.shape p r l).isSome then some l else none
  | none => none

def Region.holds (r : Region) (t : Nat) : Bool :=
  (r.state == .running || r.state == .preempting) && r.parent.isSome && r.tiles.contains t

/-- The region can be given these tiles: its own numbering, its shape, and under fixed placement the tiles of its last
run, held by no region but itself and those above it. -/
def State.placement (s : State) (rid : Nat) (r : Region) (tiles : List Nat) : Option (List (Nat × Nat)) :=
  match s.partition r.pid with
  | none => none
  | some p =>
    let above := ancestors s s.regions.length rid
    let last := match s.lastRun p r with
      | some l => tiles == l && tiles.all (fun t => s.regions.all (fun x => above.contains x.1 || !x.2.holds t))
      | none => true
    if last then s.shape p r tiles else none

/-- The LDO voltage of a clock with an offset, within 300 to 480 mV (22 R325). -/
def voltOf (f : Nat) (offset : Int) : Nat := (max 300 (min 480 ((nominalVolt f : Int) + offset))).toNat

/-- The core limit of a region's cores: 2,100 MHz under its sprint lease (22 R325). -/
def State.limitOf (s : State) (r : Region) : Nat := if r.leaseActive && r.leaseLeft != 0 then 2100 else s.config.coreLimit

/-- A point that the region's cores run at in its phase is measured (22 R330): its energy per committed task is a free value
(log 9). -/
def State.measure (s : State) (rid f v : Nat) : State :=
  let off : Int := (v : Int) - nominalVolt f
  { s with freeCtr := s.freeCtr + 1 }.onRegion rid (fun r =>
    if r.points.any (fun x => x.1 == f && x.2.1 == off) then r
    else { r with points := r.points ++ [(f, off, Config.freeNat s.freeCtr)] })

/-- The best point measured: the one of least energy per committed task, of equals the first (DEDUCED, log 31). -/
def bestPoint : List (Nat × Int × Nat) → Option (Nat × Int × Nat)
  | [] => none
  | x :: l => some (l.foldl (fun m y => if y.2.2 < m.2.2 then y else m) x)

/-- The phase of a region ends (22 R330): the point measured best is written into the table; of 1,024 entries the one
used longest ago, which stands last, makes room. -/
def State.phaseEnd (s : State) (rid : Nat) : State :=
  match s.region rid with
  | none => s
  | some r =>
    let k := fld r.kphase 0 24
    let ph := fld r.kphase 24 8
    let s := s.setRegion rid { r with points := [] }
    match bestPoint r.points with
    | none => s
    | some (f, off, e) =>
      let o : OpPoint := { pid := r.pid, kernel := k, phase := ph, freq := f, offset := off, energy := e }
      { s with ops := (o :: s.ops.filter (fun x => !(x.pid == r.pid && x.kernel == k && x.phase == ph))).take 1024 }

/-- The clock and the voltage of a region's cores: its operating point, else the highest frequency the die allows at nominal
voltage (22 R325, R330). -/
def State.applyPoint (s : State) (rid : Nat) : State :=
  match s.region rid with
  | none => s
  | some r =>
    let mine : OpPoint → Bool := fun o => o.pid == r.pid && o.kernel == fld r.kphase 0 24 && o.phase == fld r.kphase 24 8
    let (f, v) := match s.ops.find? mine with
      | some o => (o.freq, voltOf o.freq o.offset)
      | none => (s.limitOf r, voltOf (s.limitOf r) 0)
    let s := State.measure { s with ops := s.ops.filter mine ++ s.ops.filter (fun o => !mine o) } rid f v
    r.tiles.foldl (fun s t => (List.range 4).foldl (fun s i =>
      let c := s.core (4 * t + i)
      if c.freq = f ∧ c.volt = v then s else s.setCore (4 * t + i) { c with freq := f, volt := v }) s) s

/-- The content of an attestation report (22 R338), in the order the rule lists it (log 16). -/
def State.reportBody (s : State) (pid : Nat) (nonce : List Byte) : List Byte :=
  nonce ++ natBytes pid 1 ++ s.mrs.flatten ++ s.configHash ++ natBytes s.config.version 8 ++
  (List.range 1793).map Config.identityByte

/-- A report with its signature of 1,280 bytes, a free value (log 16). -/
def State.report (s : State) (pid : Nat) (nonce : List Byte) : State × List Byte :=
  ({ s with freeCtr := s.freeCtr + 1 },
   s.reportBody pid nonce ++ (List.range 1280).map (fun i => Config.signatureByte (Nat.pair s.freeCtr i)))

/-- TILES_PLACED (19 R284): a PLACING region gets its tiles; its first record becomes dispatchable, its launch ends with
status 0. Of a fabric launch it waits for the start barrier (21 R322); its report of placement carries the package's own
attestation (22 R338). -/
def State.placed (s : State) (rid : Nat) (tiles : List Nat) : State :=
  match s.region rid with
  | none => s
  | some r =>
    if r.state ≠ .placing then s else
    match s.placement rid r tiles with
    | none => s
    | some posns =>
      let lane := ((r.first.map (·.task.lane)).getD 0)
      let start := r.generation.isNone
      let s := s.setRegion rid { r with
        state := .running, tiles := tiles, posns := posns
        lanes := (match r.lanes[lane]?, r.first, start with
          | some l, some f, true => setAt r.lanes lane { l with queue := l.queue ++ [{ f with t0 := s.meshTime, level := min 7 (laneLevel r lane) }] }
          | _, _, _ => r.lanes)
        first := if start then none else r.first
        origin := if start then .no else r.origin }
      let s := { s with fixedRuns :=
        (r.pid, fld r.kphase 0 24, tiles) :: s.fixedRuns.filter (fun x => !(x.1 == r.pid && x.2.1 == fld r.kphase 0 24)) }
      let s := s.writeQuiet r.pid r.tilemap.toNat (tiles.flatMap (fun t => natBytes t 2))
      let s := (s.mirror rid).applyPoint rid
      if start then s.endLaunch r.origin 0
      else match r.generation with
        | none => s
        | some g =>
          let me := (s.fabrics.find? (fun f => f.id == g)).map (·.place)
          let (s, rep) := s.report r.pid (List.replicate 32 0)
          { s with hostOut := s.hostOut ++ [.fabricPlaced g (me.getD 0) (((s.partition r.pid).map (·.dies)).getD []) rep] }

end Sys2Proof.Machine
end

