-- ==== Sys2Proof/Machine/Tasks.lean ====
section
/-! DEFINITION. Tasks, messages, the deque and barriers (08 R151-R170), the commit (R158) and dual runs (02 R41). -/

namespace Sys2Proof.Machine

/-! ### Work becomes ready -/

/-- A record enters its lane (02 R24, R28); with no free slot a continuation is chained onto the overflow chain, its
join block's link written. -/
def State.enqueue (s : State) (rid : Nat) (k : Task) (block : Option Nat) : State :=
  match s.region rid with
  | none => s
  | some r =>
    match r.lanes[k.lane]? with
    | none => s
    | some l =>
      let w := s.ready k (laneLevel r k.lane)
      match block with
      | some b =>
        if 2 ^ l.c ≤ l.queue.length + l.reserved then
          let w := s.ready k r.prio   -- an overflow continuation enters at PRIO (19 R286)
          let s := match l.chain.getLast? with
            | some (prev, _) => s.writeQuiet r.pid (prev + 40) (natBytes b 8)
            | none => s
          s.setRegion rid { r with lanes := setAt r.lanes k.lane { l with chain := l.chain ++ [(b, w)] } }
        else s.setRegion rid { r with lanes := setAt r.lanes k.lane { l with queue := l.queue ++ [w] } }
      | none =>
        s.setRegion rid { r with lanes := setAt r.lanes k.lane { l with queue := l.queue ++ [w], reserved := l.reserved - 1 } }

/-- The counter of a join block reaches 0: a window of every region of the partition that names the block ends (02 R35). -/
def State.windowsAt (s : State) (pid block : Nat) : State :=
  s.regions.foldl (fun s x => if x.2.pid = pid && x.2.winjoin ≠ 0 && x.2.winjoin.toNat = block then s.windowEnd x.1 else s) s

/-- The continuation of a join block becomes ready in the region of the task whose decrement freed it (DESIGN CHOICE, log 53:
02 R28 names no region when tasks of several join one block); `maker` is that task's tile. A continuation that is malformed,
names a disabled lane, or lies on a page that does not translate is a bad one (02 R22, log 53). -/
def State.continuation (s : State) (a : Agent) (super : Bool) (rid block maker : Nat) : State :=
  match s.readVirt a (s.pidOfRegion rid) (some rid) super (block + 8) 40 with
  | (s, .error _) => s.raiseFault rid 0x80 0 (BitVec.ofNat 64 block)
  | (s, .ok l) =>
    let b := l.map (·.1)
    let w0 := BitVec.ofNat 64 (fieldAt b 0 8)
    let mk : Nat → Bool := fun i => ((l[i]?).map (·.2)).getD false
    let off := (((s.region rid).bind (fun r => r.lanes[fld w0 56 4]?)).map (·.disabled)).getD true
    if malformed w0 || off then s.raiseFault rid 0x80 0 (BitVec.ofNat 64 block)
    else s.enqueue rid (recordTask w0 (BitVec.ofNat 64 (fieldAt b 8 8)) (BitVec.ofNat 64 (fieldAt b 16 8))
      (BitVec.ofNat 64 (fieldAt b 24 8)) (mk 8) (mk 16) (mk 24) maker) (some block)

/-- Who steps a join counter: the unit whose translation of the block its check has passed, with its rights, and the strand
it acts for, whose core's L1 loses the line (03 R50); for a command its number, under which the line is noted as written. -/
structure Stepper where
  agent : Agent
  super : Bool
  sid : Nat
  command : Option Nat
deriving DecidableEq, Repr

/-- One step of a join counter at its home (02 R28): by +1 or -1. A step that brings the counter to 0 may end windows (02 R35); an
ordinary store or an `amo` that does so ends none (DESIGN CHOICE, log 53). -/
def State.joinStep (s : State) (w : Stepper) (rid block maker : Nat) (up : Bool) : State :=
  let pid := s.pidOfRegion rid
  match s.readVirt w.agent pid (some rid) w.super block 8 with
  | (s, .error _) => s
  | (s, .ok l) =>
    let c : Word := leWord (l.map (·.1))
    let n : Word := if up then c + 1 else c - 1
    let s := match s.writeFor w.agent pid (some rid) w.super (some (coreOf w.sid))
        ((List.range 8).map (fun i => (block + i, byteAt n i, false))), w.command with
      | (s, .ok keys), some no => s.noteWritten rid w.sid no keys
      | (s, _), _ => s
    let s := if n = 0 then s.windowsAt pid block else s
    if up then s
    else if c = 1 then s.continuation w.agent w.super rid block maker
    else if c.toInt ≤ 0 then s.raiseFault rid 0x81 n (BitVec.ofNat 64 block)
    else s

def State.joinSteps (s : State) (w : Stepper) (rid block maker : Nat) (up : Bool) : Nat → State
  | 0 => s
  | n + 1 => (s.joinStep w rid block maker up).joinSteps w rid block maker up n

/-- A join list is applied: every positive count before any negative one, each as single steps (08 R151). -/
def State.applyJoins (s : State) (w : Stepper) (rid maker : Nat) (l : List (Nat × Int)) : State :=
  let s := (l.filter (fun x => 0 < x.2)).foldl (fun s x => s.joinSteps w rid x.1 maker true x.2.toNat) s
  (l.filter (fun x => x.2 < 0)).foldl (fun s x => s.joinSteps w rid x.1 maker false (-x.2).toNat) s

/-! ### Verdicts (11 R236) -/

/-- The answer to a ticket reaches the relay unit that waits for it. -/
def State.answer (s : State) (ticket code : Nat) : State :=
  s.eachTile (fun _ t =>
    let q := t.relay
    if q.ask.map (·.1) = some ticket then { t with relay := { q with verdict := some code } }
    else if q.rays.any (fun r => r.ask == some ticket) then
      { t with relay := { q with rays := q.rays.map (fun r =>
        if r.ask = some ticket then { r with answer := some code } else r) } }
    else t)

/-- A handler ends and its ticket has had no answer that took effect: its pair is dropped or its candidate ignored, and it
counts toward NO_VERDICT. A verdict still deferred when FATE ends its handler never took effect (11 R224, R236). -/
def State.noVerdict (s : State) (sid : Nat) : State :=
  let t := s.strand sid
  match t.task.bind (·.ticket) with
  | some k =>
    let mine : Tile → Bool := fun x => (x.relay.ask.map (·.1) == some k && x.relay.verdict.isNone) ||
      x.relay.rays.any (fun r => r.ask == some k && r.answer.isNone)
    match s.tiles.find? (fun x => mine x.2) with
    | some x =>
      let s := match x.2.relay.trav with
        | some i => s.onTrav i (fun y => { y with noVerdict := y.noVerdict + 1 })
        | none => s
      s.answer k 0
    | none => s
  | none => s

/-! ### The commit (R158) -/

/-- One deferred operation takes effect (R153). -/
def State.perform (s : State) (sid : Nat) (d : Deferred) : State :=
  let rid := (s.strand sid).rid
  match d with
  | .push hi lo aux tag =>
    s.onTile (tileOf sid) (fun t => { t with
      deque := t.deque ++ [{ rid := rid, hi := hi, lo := lo, aux := aux, tag := tag }] })
  | .arrive h => s.arrive rid h
  | .expect h n => s.expect rid h n.toInt
  | .free h => s.bfree rid h
  | .verdict k c => s.answer k c

/-- The check of a join pointer (02 R27). -/
def joinOk (x : Word) : Bool := x.toNat % 16 == 0 && x.toNat < 2 ^ 56

/-- Adds to the entry of a block in the join list (R151). -/
def addJoin (l : List (Nat × Int)) (b : Nat) (n : Int) : List (Nat × Int) :=
  match l with
  | [] => [(b, n)]
  | (k, m) :: r => if k = b then (k, m + n) :: r else (k, m) :: addJoin r b n

/-- The join list that a task commits: the first record of a launch also notifies its own join block, its s5 (02 R17, R29,
log 51). -/
def Strand.commitJoins (t : Strand) : List (Nat × Int) :=
  match t.task with
  | some k =>
    let b := (k.regs[2]?).getD 0
    if k.first && b ≠ 0 && joinOk b then addJoin t.joins b.toNat (-1) else t.joins
  | none => t.joins

/-- The effects of the task on a strand are committed and the strand falls idle; deferred pushes take the places reserved for
them. A handler of a dual mismatch is the last act of its region (19 R289). -/
def State.commit (s : State) (sid : Nat) : State :=
  let t := s.strand sid
  let s := (s.drain sid).unreserve sid
  let s := t.deferred.foldl (fun s d => s.perform sid d) s
  let s := t.records.foldl (fun s (k, _) => s.enqueue t.rid k none) s
  let s := s.applyJoins { agent := .core (coreOf sid), super := t.super, sid := sid, command := none } t.rid
    (tileOf sid) t.commitJoins
  let s := s.noVerdict sid
  let s := s.count t.rid 0
  let s := s.idle sid
  match t.task with
  | some k => if k.lastAct then s.kill t.rid else s
  | none => s

/-- The signature of a run (02 R41, 19 R289). -/
def signature (t : Strand) : List Byte := shake256 (t.effects ++ [5]) 32

/-- A run of a dual pair has reached its `tend` (R41): with both signatures equal one run's effects are committed; when
they differ a third run is made; when it matches neither nothing is committed and the region faults. -/
def State.compareRuns (s : State) (sid lab : Nat) (d : DualRun) : State :=
  let t := s.strand sid
  let sig := signature t
  match d.done with
  | [] =>
    { s with duals := putKey s.duals lab { d with done := [(sig, sid)] } }.onStrand sid (fun t => { t with wait := .compare })
  | first :: rest =>
    let win := (first :: rest).any (fun x => x.1 == sig)
    if win then
      let s := (s.runsOf lab).foldl (fun s i => if i = sid then s else s.discard i) s
      { s with duals := dropKey s.duals lab }.commit sid
    else if rest.isEmpty then
      let s := s.count t.rid 4
      { s with duals := putKey s.duals lab { d with done := d.done ++ [(sig, sid)] } }.onStrand sid
        (fun t => { t with wait := .compare })
    else (s.count t.rid 7).dualFault sid 0x83 0

/-- An entry of the join list takes its counter, at the place m gives, to 0: its continuation will be read. -/
def State.reachesZero (s : State) (m : List (Nat × Xlat)) (x : Nat × Int) : Bool :=
  let c := (leWord ((List.range 8).map (fun i => let p := placeOf m (x.1 + i); s.readByte p.slot p.key))).toInt
  x.2 < 0 && 0 < c && c ≤ -x.2

/-- `tend` (R158): a `send` or `launch` with token 0 leaves no token pending, and `tend` does not wait for it (05 R100). -/
def execTend (g : Guard) (s : State) : Host.Outcome State Fault Refusal :=
  run s { g := g } <|
    let c := s.cur
    if 0 < s.loadsOut c + s.storesOut c + s.copiesOut c + s.matrixOut c + s.tokensOut c then .stall s
    else
      let t := s.me
      -- the join blocks of the commit must translate before anything is performed (20 R302)
      match s.xlats (.core (coreOf c)) (s.pidOfRegion t.rid) (some t.rid) t.super .atomic
          ((t.commitJoins.filter (fun x => x.2 ≠ 0)).map (·.1)) [] with
      | (s, .error e) => xlatFault s .atomic e
      | (s, .ok m) =>
      match s.xlats (.core (coreOf c)) (s.pidOfRegion t.rid) (some t.rid) t.super .read
          ((t.commitJoins.filter (s.reachesZero m)).map (·.1 + 47)) [] with
      | (s, .error e) => xlatFault s .read e
      | (s, .ok _) =>
        match t.dual with
        | some lab =>
          match lookupKey s.duals lab with
          | some d => .gone (s.compareRuns c lab d)
          | none => .gone (s.discard c)
        | none => .gone (s.commit c)

/-! ### Spawns and joins -/

def joinFull (t : Strand) (b : Nat) : Bool := 16 ≤ t.joins.length && !t.joins.any (fun x => x.1 == b)

def spawnOp (s : State) (g : Guard) (pd : PReg) (a : SReg) (counted : Bool) : Host.Outcome State Fault Refusal :=
  run s { g := g, ss := [a, a + 1, a + 2, a + 3] } <|
    let t := s.me
    let w0 := t.rd a
    let w2 := t.rd (a + 2)
    let counted := counted && w2 != 0
    if malformed w0 then .trap s 0x10 0
    else poisonS s [a, a + 2] <|
    if counted && !joinOk w2 then .trap s 0x11 w2
    else if counted && joinFull t w2.toNat then .trap s 0x12 w2
    else
      let k := recordTask w0 (t.rd (a + 1)) w2 (t.rd (a + 3)) (t.markS (a + 1)) false (t.markS (a + 3)) (tileOf s.cur)
      match (s.myRegion.bind (fun r => r.lanes[k.lane]?)) with
      | some l =>
        if l.disabled || 2 ^ l.c ≤ l.queue.length + l.reserved then .done (s.onMe (fun t => t.wrP pd 0 false))
        else
          let s := s.onRegion t.rid (fun r => { r with lanes := setAt r.lanes k.lane { l with reserved := l.reserved + 1 } })
          let entry := (if counted then [3] else [2]) ++ bytesOf w0 8 ++ bytesOf (t.rd (a + 1)) 8 ++ bytesOf w2 8 ++
            bytesOf (t.rd (a + 3)) 8
          .done (s.onMe (fun t =>
            { (t.wrP pd (BitVec.allOnes 64) false).log entry with
              records := t.records ++ [(k, counted)]
              joins := if counted then addJoin t.joins w2.toNat 1 else t.joins }))
      | none => .done (s.onMe (fun t => t.wrP pd 0 false))

/-- `spawn` (R156). -/
def execSpawn (g : Guard) (pd : PReg) (a : SReg) (s : State) : Host.Outcome State Fault Refusal := spawnOp s g pd a false
/-- `spawnj` (R156): a join pointer of 0 acts as `spawn` (02 R27). -/
def execSpawnj (g : Guard) (pd : PReg) (a : SReg) (s : State) : Host.Outcome State Fault Refusal := spawnOp s g pd a true

/-- `join` (R157). -/
def execJoin (g : Guard) (a : SReg) (s : State) : Host.Outcome State Fault Refusal :=
  run s { g := g, ss := [a] } <| poisonS s [a] <|
    let x := s.me.rd a
    if x = 0 then .done s
    else if !joinOk x then .trap s 0x11 x
    else if joinFull s.me x.toNat then .trap s 0x12 x
    else .done (s.onMe (fun t => { t.log ([4] ++ bytesOf x 8) with joins := addJoin t.joins x.toNat (-1) }))

/-- What a `launch` comes to: its packet is read, its marks being dropped (DESIGN CHOICE, log 77), and then a status or a PLACING
child; or the fault of a page. -/
def State.launchTry (s : State) (a : Agent) (c : LaunchCmd) : State × LaunchRes :=
  match s.readVirt a (s.pidOfRegion c.rid) (some c.rid) c.super c.addr.toNat 128 with
  | (s, .error e) => (s, .fault e)
  | (s, .ok l) => s.launchRegion a c.super c.rid (l.map (·.1)) (.strand c.sid c.taskNo c.token) none

/-- The command waits for `replay` with a page request (R159). -/
def State.launchParks (s : State) (c : LaunchCmd) (die : Nat) (e : XErr × Nat) : State :=
  let s := s.engineFault c.rid die 0 .read e
  { s with launches := s.launches ++ [{ c with parked := true }] }

/-- The die of a strand that has issued a command, or of the tile where a saved one goes on (20 R301). -/
def Region.issuerDie (r : Region) (sid : Nat) : Nat :=
  if sid < 2 ^ 32 then dieOf sid else dieOfTile ((r.tiles[sid % 2 ^ 16 / 16]?).getD 0)

/-- A `launch` that `replay` has released tries again. -/
def State.launchRetry (s : State) (idx : Nat) : State :=
  match takeAt s.launches idx with
  | none => s
  | some (c, rest) =>
    match s.region c.rid with
    | none => { s with launches := rest }
    | some r =>
      if c.parked || r.state = .preempted then s else
      match { s with launches := rest }.launchTry .hw c with
      | (s, .refused n) => (s.completeToken c.sid c.taskNo c.token (BitVec.ofNat 64 n)).wake c.sid
      | (s, .placing _) => s
      | (s, .fault e) => s.launchParks c (r.issuerDie c.sid) e

/-- `launch` (R159): irrevocable, a release at sys scope; the status is 3 for a bad address, else what the launch comes
to; while the region is PLACING, or the packet waits for a page, the token is pending. The command parks on a fault of every
class, as an engine command does (20 R302; DEDUCED, log 37). -/
def execLaunch (g : Guard) (t a : SReg) (s : State) : Host.Outcome State Fault Refusal :=
  run s { g := g, ss := [t, a] } <| poisonS s [a] <| engineRoom s <|
    if s.writesOut s.cur || s.homeBusy s.cur then .stall s else
    irrevocable s fun s =>
      let x := s.me.rd a
      if x.toNat % 64 ≠ 0 || 2 ^ 56 ≤ x.toNat + 127 then .done (s.onMe (fun st => st.wr t 3 false)) else
      let c : LaunchCmd :=
        { sid := s.cur, taskNo := s.me.taskNo, rid := s.me.rid, super := s.me.super, token := t, addr := x, parked := false }
      match s.launchTry (.core (coreOf s.cur)) c with
      | (s, .refused n) => .done (s.onMe (fun st => st.wr t (BitVec.ofNat 64 n) false))
      | (s, .placing _) => .done (s.pendToken t)
      | (s, .fault e) => .done ((s.launchParks c (dieOf s.cur) e).pendToken t)

/-! ### Messages -/

/-- `send` (R160, 02 R33): the message is on its way; MESSAGE_ARRIVAL writes the status. -/
def execSend (g : Guard) (_ : BitVec 2) (t a b : SReg) (rel : BitVec 1) (s : State) : Host.Outcome State Fault Refusal :=
  run s { g := g, ss := [t, a, a + 1, b, b + 1, b + 2, b + 3, b + 4, b + 5] } <| poisonS s [a, a + 1] <|
    let x := s.me
    if !codeOk (x.rd (a + 1)) then .trap s 0x10 0
    else engineRoom s <|
    if rel = 1 && (s.writesOut s.cur || s.homeBusy s.cur) then .stall s else
    irrevocable s fun s =>
      let regs : List SReg := [b, b + 1, b + 2, b + 3, b + 4, b + 5]
      let m : Flight :=
        { rid := x.rid, sid := s.cur, taskNo := x.taskNo, token := t, srcTile := tileOf s.cur, dest := x.rd a
          code := x.rd (a + 1), payload := regs.map x.rd
          marks := (List.range 6).foldl (fun acc i => setBit acc (4 + i) (x.markS (b + BitVec.ofNat 5 i))) 0 }
      .done ({ s with msgs := s.msgs ++ [m] }.pendToken t)

/-- MESSAGE_ARRIVAL (02 R33-R35, 01 R14): accepted, refused because the region's mailbox on the tile is full, or no tile
of the region; an accepted message takes the next sequence number. While the region holds no tile none arrives. -/
def execMessageArrival (idx : Nat) (s : State) : Host.Outcome State Fault Refusal :=
  match takeAt s.msgs idx with
  | none => .next s
  | some (m, rest) =>
    match s.region m.rid with
    | none => .next { s with msgs := rest }
    | some r =>
      if r.state = .preempted then .next s else
      let s := { s with msgs := rest }
      match r.tiles[m.dest.toNat]? with
      | none => .next (s.completeToken m.sid m.taskNo m.token 2)
      | some tl =>
        if r.mailbox ≤ r.mail.countP (fun x => x.tile == tl) then .next (s.completeToken m.sid m.taskNo m.token 1)
        else
          let seq := (s.tile m.srcTile).seq
          let src := BitVec.ofNat 64 ((r.tileNum m.srcTile).getD 0)
          let regs : List Word := 0 :: m.payload ++ [src, BitVec.ofNat 64 seq.toNat]
          let k : Task := { kind := 1, lane := 0, pc := m.code, regs := regs, marks := m.marks, pin := some tl
                            islocal := true, nomig := true, firstPins := false, first := false, lastAct := false, ticket := none }
          let s := s.onTile m.srcTile (fun t => { t with seq := seq + 1 })
          let w := s.ready k r.prio
          let mail : Mail :=
            { rid := m.rid, tile := tl, srcTile := src.toNat, seq := seq, window := r.windows, ready := w }
          let s := s.onRegion m.rid (fun r => { r with mail := r.mail ++ [mail] })
          .next (s.completeToken m.sid m.taskNo m.token 0)

/-! ### The deque (R161-R164) -/

/-- Not in a dual run (R154). A fault-record handler of a dual-run region does not run dual (19 R289) and acts (DESIGN CHOICE,
log 68). -/
def notDual (s : State) (k : Act) : Act := if s.me.dual.isSome then .trap s 0x14 0 else k

/-- `dqpush` (R163). An entry holds no poison mark: marks of S[a] and S[a+1] are dropped (DESIGN CHOICE, log 69). -/
def execDqpush (g : Guard) (pd : PReg) (a : SReg) (s : State) : Host.Outcome State Fault Refusal :=
  run s { g := g, ss := [a, a + 1] } <| notDual s <|
    let t := s.me
    let x := t.rd a
    let y := t.rd (a + 1)
    let d : Deferred := .push (bits x 32 32) (bits x 0 32) (bits y 32 32) (bits y 0 32)
    if (s.tile (tileOf s.cur)).dqFull then .done (s.onMe (fun t => t.wrP pd 0 false))
    else if t.restartable then
      let s := s.onTile (tileOf s.cur) (fun x => { x with dqReserved := x.dqReserved ++ [s.cur] })
      .done (s.onMe (fun t => { t.wrP pd (BitVec.allOnes 64) false with deferred := t.deferred ++ [d] }))
    else if s.writesOut s.cur || s.homeBusy s.cur then .stall s
    else .done (((s.drain s.cur).perform s.cur d).onMe (fun t => t.wrP pd (BitVec.allOnes 64) false))

/-- A take that succeeds: the pair is written, the take recorded for an abort (R152), an acquire at pkg scope (R164). -/
def takeEnds (s : State) (pd : PReg) (d : SReg) (tl : Nat) (e : DqEntry) (deque : List DqEntry) : Act :=
  let s := s.onTile tl (fun t => { t with deque := deque })
  let s := s.onMe (fun t =>
    let t := (t.wrP pd (BitVec.allOnes 64) false).wr d (e.hi ++ e.lo) false
    let t := t.wr (d + 1) (e.aux ++ e.tag) false
    if t.restartable then { t with undo := .take tl e :: t.undo } else t)
  .done (s.acquire s.cur 2)

def takeFails (s : State) (pd : PReg) (d : SReg) (reason : Word) : Act :=
  .done (s.onMe (fun t => ((t.wrP pd 0 false).wr d 0 false).wr (d + 1) reason false))

/-- The number of elements of an entry. -/
def DqEntry.size (e : DqEntry) : Nat := (e.hi - e.lo).toNat

/-- A take from tile `tl`: from the newest end whole or its lower half, or from the oldest end its upper half. -/
def dqTake (s : State) (pd : PReg) (d : SReg) (tl : Nat) (oldest half : Bool) : Act :=
  let t := s.me
  let q := (s.tile tl).deque
  match dqFind q t.rid oldest with
  | none => takeFails s pd d 0
  | some i =>
    if t.restartable && 4 ≤ t.undo.length then takeFails s pd d 1 else
    match q[i]? with
    | none => takeFails s pd d 0
    | some e =>
      let n := e.size
      if half && 2 ≤ n then
        if oldest then
          let k := BitVec.ofNat 32 ((n + 1) / 2)
          takeEnds s pd d tl { e with lo := e.hi - k } (setAt q i { e with hi := e.hi - k })
        else
          let k := BitVec.ofNat 32 (n / 2)
          takeEnds s pd d tl { e with hi := e.lo + k } (setAt q i { e with lo := e.lo + k })
      else takeEnds s pd d tl e (q.take i ++ q.drop (i + 1))

/-- `dqpop` (R163). -/
def execDqpop (g : Guard) (pd : PReg) (d : SReg) (s : State) : Host.Outcome State Fault Refusal :=
  run s { g := g, ss := [d, d + 1] } <| notDual s <| dqTake s pd d (tileOf s.cur) false false

/-- `dqsplit` (R163): the lower half of the newest entry. -/
def execDqsplit (g : Guard) (pd : PReg) (d : SReg) (s : State) : Host.Outcome State Fault Refusal :=
  run s { g := g, ss := [d, d + 1] } <| notDual s <| dqTake s pd d (tileOf s.cur) false true

/-- `dqsteal` (R163): the upper half of the oldest entry of tile S[b], a poisoned one being consumed (DESIGN CHOICE, log 69). -/
def execDqsteal (g : Guard) (pd : PReg) (d b : SReg) (s : State) : Host.Outcome State Fault Refusal :=
  run s { g := g, ss := [d, d + 1, b] } <| notDual s <| poisonS s [b] <|
    match s.myRegion.bind (fun r => r.tiles[(s.me.rd b).toNat]?) with
    | none => takeFails s pd d 2
    | some tl => dqTake s pd d tl true true

/-! ### Barriers (R165-R170) -/

/-- The lowest free place of a pool of 4,096. -/
def freePlace (l : List (Nat × Barrier)) : Nat → Nat → Option Nat
  | 0, _ => none
  | n + 1, i => if (lookupKey l i).isNone then some i else freePlace l n (i + 1)

/-- `balloc` (R168). -/
def execBalloc (g : Guard) (sc : BitVec 2) (d : SReg) (pd : PReg) (b : SReg) (s : State) : Host.Outcome State Fault Refusal :=
  run s { g := g, ss := [d, b] } <| notDual s <| poisonS s [b] <|
    let t := s.me
    let n := (t.rd b).toNat
    let fail : Word → Act := fun x => .done (s.onMe (fun t => (t.wr d x false).wrP pd 0 false))
    let dd := dieOf s.cur
    let budget := (s.myRegion.map (fun r => r.bbudget - r.bused - r.barriersHeld)).getD 0
    if n = 0 || 65535 < n then fail 3
    else if t.restartable && 4 ≤ t.undo.length then fail 4
    else if budget = 0 then fail 2
    else match freePlace (s.die dd).barriers 4096 0 with
      | none => fail 1
      | some i =>
        let serial := (lookupKey (s.die dd).serials i).getD 0 + 1
        let h := handleOf serial dd i
        let s := s.onDie dd (fun x => { x with
          serials := putKey x.serials i serial
          barriers := putKey x.barriers i { count := n, refs := n, arrived := 0, pend := 0, ph := 0, scope := sc
                                            broken := false, serial := serial, rid := t.rid, spent := 0, running := false } })
        let s := s.hold t.rid (fun r => { r with barriersHeld := r.barriersHeld + 1 })
        .done (s.onMe (fun t =>
          let t := (t.wr d h false).wrP pd (BitVec.allOnes 64) false
          if t.restartable then { t with undo := .barrier h :: t.undo } else t))

/-- A barrier operation on a live barrier of the region, else the bad-barrier trap (R165); deferred in a restartable
task, at once in an irrevocable one (R153), after its earlier stores when `rel`. -/
def barrierOp (s : State) (h : Word) (d : Deferred) (w : Strand → Barrier → Strand) (rel : Bool) : Act :=
  let t := s.me
  match s.barrierOf t.rid h with
  | none => .trap s 0x15 h
  | some (_, _, b) =>
    if t.restartable then .done (s.onMe (fun t => { w t b with deferred := t.deferred ++ [d] }))
    else if rel && (s.writesOut s.cur || s.homeBusy s.cur) then .stall s
    else
      let s := if rel then s.drain s.cur else s
      .done ((s.onMe (fun t => w t b)).perform s.cur d)

/-- `bexpect` (R168). A poisoned handle, byte count, phase or count of a barrier operation is consumed (DESIGN CHOICE, log 69: 06
R109 names addresses and indices). -/
def execBexpect (g : Guard) (a b : SReg) (s : State) : Host.Outcome State Fault Refusal :=
  run s { g := g, ss := [a, b] } <| notDual s <| poisonS s [a, b] <|
    barrierOp s (s.me.rd a) (.expect (s.me.rd a) (s.me.rd b)) (fun t _ => t) false

/-- `barrive` (R168): S[d] holds the phase arrived in. -/
def execBarrive (g : Guard) (d a : SReg) (s : State) : Host.Outcome State Fault Refusal :=
  run s { g := g, ss := [d, a] } <| notDual s <| poisonS s [a] <|
    barrierOp s (s.me.rd a) (.arrive (s.me.rd a)) (fun t b => t.wr d (b.ph.zeroExtend 64) false) true

/-- `bfree` (R168). -/
def execBfree (g : Guard) (a : SReg) (s : State) : Host.Outcome State Fault Refusal :=
  run s { g := g, ss := [a] } <| notDual s <| poisonS s [a] <|
    barrierOp s (s.me.rd a) (.free (s.me.rd a)) (fun t _ => t) false

/-- `bwait` (R166, R168, R170): on a broken barrier false, even for a phase that has passed (log 33). -/
def execBwait (g : Guard) (pd : PReg) (a b : SReg) (s : State) : Host.Outcome State Fault Refusal :=
  run s { g := g, ss := [a, b] } <| poisonS s [a, b] <|
    let t := s.me
    let h := t.rd a
    let ph : BitVec 32 := bits (t.rd b) 0 32
    match s.barrierOf t.rid h with
    | none => .trap s 0x15 h
    | some (dd, i, x) =>
      if t.restartable && t.deferred.any (fun d => match d with
        | .arrive k => k == h
        | _ => false) then .trap s 0x16 h
      else if x.broken then .done (s.onMe (fun t => t.wrP pd 0 false))
      else if phasePassed x.ph ph then .done ((s.acquire s.cur x.scope).onMe (fun t => t.wrP pd (BitVec.allOnes 64) false))
      else
        .gone ((s.putBarrier dd i { x with running := true }).onMe (fun t => { t with wait := .barrier pd h ph }))

/-- BARRIER_WATCHDOG (19 R291): a phase that has counted 2^BWDOG mesh cycles breaks; a fault record follows (R292). The
watchdog pauses while the region is not RUNNING or a strand of it holds a trapped task. -/
def execBarrierWatchdog (die idx : Nat) (s : State) : Host.Outcome State Fault Refusal :=
  match lookupKey (s.die die).barriers idx with
  | none => .next s
  | some b =>
    match s.region b.rid with
    | none => .next s
    | some r =>
      if b.running && !b.broken && r.state = .running && 2 ^ r.bwdog ≤ b.spent &&
        !s.strands.any (fun x => x.2.rid == b.rid && x.2.trapped && x.2.task.isSome) then
        .next ((s.breakBarrier die idx b).raiseFault b.rid 0x82 (handleOf b.serial die idx) 0)
      else .next s

end Sys2Proof.Machine
end

