-- ==== Sys2Proof/Machine/CopyEngine.lean ====
section
/-! DEFINITION. The copy engine of a tile and the video encoder of a die (08 R171-R177, 01 R11, R12, 03 R59, R60, 09 R179). -/

namespace Sys2Proof.Machine

/-! ### Engine addresses (R171) -/

inductive EWin where
  | glob | own | remote (n off : Nat) | bad
deriving DecidableEq, Repr

def engineWin (x : Nat) : EWin :=
  if x < 2 ^ 56 then .glob
  else if spadBase ≤ x && x < spadBase + 2 ^ 20 then .own
  else if engineSpad ≤ x && x < engineSpad + 2 ^ 32 then .remote ((x - engineSpad) / 2 ^ 20) ((x - engineSpad) % 2 ^ 20)
  else .bad

/-- An address and its range of n bytes: code 1 when its kind is not admitted or it straddles the global window's end,
code 3 when its tile is none of the region's, else 0. -/
def addrCode (r : Region) (x n : Nat) (glob own remote : Bool) : Nat :=
  match engineWin x with
  | .glob => if !glob || (n != 0 && 2 ^ 56 < x + n) then 1 else 0
  | .own => if own then 0 else 1
  | .remote t _ => if !remote then 1 else if t < r.tiles.length then 0 else 3
  | .bad => 1

/-- The lowest code met; 0 when none. -/
def lowest (l : List Nat) : Nat := l.foldl (fun m c => if c = 0 then m else if m = 0 then c else min m c) 0

/-- The byte j places after an engine address; a global one by the translations m (R171). -/
def State.engineByte (s : State) (r : Region) (tile : Nat) (m : List (Nat × Xlat)) (x j : Nat) : Byte × Bool :=
  match engineWin x with
  | .glob => let p := placeOf m (x + j); s.readOut p.host p.slot p.key
  | .own => (s.tile tile).readSpad r.segs (x - spadBase) j
  | .remote t o => (s.tile ((r.tiles[t]?).getD 0)).readSpad r.segs o j
  | .bad => (0, false)

/-- The bytes at places from engine addresses, with poison; the global ones are all translated first. The reads of a command
with `.acq` count no scope miss in a debug region (DESIGN CHOICE, log 62: 03 R61 counts what an acquire reads, and the acquire of
03 R60 stands at the command's issue). -/
def State.engineRead (s : State) (c : CopyCmd) (tile : Nat) (l : List (Nat × Nat)) :
    State × Except (XErr × Nat) (List (Byte × Bool)) :=
  match s.region c.rid with
  | none => (s, .ok [])
  | some r =>
    match s.xlats (.copy tile) r.pid (some c.rid) c.super .read
        ((l.filter (fun y => decide (y.1 < 2 ^ 56))).map (fun y => y.1 + y.2)) [] with
    | (s, .error e) => (s, .error e)
    | (s, .ok m) => (s, .ok (l.map (fun y => s.engineByte r tile m y.1 y.2)))

/-- Where a unit sits, as the first strand of its tile or of its die's first tile: it counts as a party there (03 R56). -/
def Agent.seat : Agent → Nat
  | .core c => 4 * c
  | .copy t | .relay t => 16 * t
  | .builder d | .enc d => 16 * (tilesOfDie d).headD 0
  | .hw => 0

/-- The lines written at the listed keys carry the scope of a releasing engine command of a debug region, and the unit that
wrote them (03 R61). -/
def State.tagLines (s : State) (a : Agent) (rid : Nat) (rel : Option (BitVec 2)) (keys : List Nat) : State :=
  match rel with
  | some sc =>
    if ((s.region rid).map Region.debug).getD false then
      { s with lineScope := keys.foldl (fun l k => putKey l (k / 64) (sc, a.seat)) s.lineScope }
    else s
  | none => s

/-- For whom an engine acts: the strand's region and strand, the command's number, its rights, the scope of `.rel`. -/
structure Issuer where
  rid : Nat
  sid : Nat
  cmd : Nat
  super : Bool
  rel : Option (BitVec 2)
deriving DecidableEq, Repr

def CopyCmd.issuer (c : CopyCmd) : Issuer := ⟨c.rid, c.sid, c.order, c.super, if c.rel then some c.scope else none⟩
def EncCmd.issuer (c : EncCmd) : Issuer := ⟨c.rid, c.sid, c.no, c.super, if c.rel then some c.scope else none⟩
def BuildCmd.issuer (c : BuildCmd) : Issuer := ⟨c.rid, c.sid, c.no, c.super, if c.rel then some c.scope else none⟩
def RelayCmd.issuer (c : RelayCmd) : Issuer := ⟨c.rid, c.sid, c.no, c.super, if c.rel then some c.scope else none⟩
def Trav.issuer (c : Trav) : Issuer := ⟨c.rid, c.sid, c.no, c.super, if c.rel then some c.scope else none⟩

/-- Lines that an engine has written for a command: they leave the L1 of its strand's core, now and when the command completes
(03 R50), and carry its release (03 R61). -/
def State.engineWrote (s : State) (a : Agent) (w : Issuer) (keys : List Nat) : State :=
  ((s.dropLines (coreOf w.sid) keys).tagLines a w.rid w.rel keys).noteWritten w.rid w.sid w.cmd keys

/-- Writes bytes at global addresses for an engine command of a strand. -/
def State.engineStore (s : State) (a : Agent) (w : Issuer) (l : List (Nat × Byte × Bool)) :
    State × Except (XErr × Nat) Unit :=
  match s.writeVirt a (s.pidOfRegion w.rid) (some w.rid) w.super l with
  | (s, .error e) => (s, .error e)
  | (s, .ok keys) => (s.engineWrote a w keys, .ok ())

/-- Writes bytes at places from the destination of a command. -/
def State.engineWrite (s : State) (c : CopyCmd) (tile : Nat) (l : List (Nat × Byte × Bool)) : State × Except (XErr × Nat) Unit :=
  let x := c.dst.toNat
  match s.region c.rid with
  | none => (s, .ok ())
  | some r =>
    match engineWin x with
    | .glob =>
      s.engineStore (.copy tile) c.issuer (l.map (fun y => (x + y.1, y.2)))
    | .own => (s.onTile tile (fun t => t.writeSpad r.segs (x - spadBase) l), .ok ())
    | .remote t o => (s.onTile ((r.tiles[t]?).getD 0) (fun t => t.writeSpad r.segs o l), .ok ())
    | .bad => (s, .ok ())

/-! ### Length words (R172) -/

def lenOf (c : CopyCmd) : Nat := fld c.len 0 28
def handleIn (c : CopyCmd) : Word := (bits c.len 32 32).zeroExtend 64
def gatherSize (c : CopyCmd) : Nat := 2 ^ fld c.len 16 3
def gatherCount (c : CopyCmd) : Nat := fld c.len 0 16

/-- The bytes that a command's completion credits to its barrier. -/
def creditOf (c : CopyCmd) : Nat := if c.op = 3 then gatherCount c * gatherSize c else lenOf c

/-- Code 2: the length word, for `copyw` with its offset. -/
def lenCode (c : CopyCmd) : Nat :=
  let bad : Bool := match c.op with
    | 0 => fld c.len 28 4 ≠ 0
    | 3 => fld c.len 28 4 ≠ 0 || fld c.len 19 9 ≠ 0 || 6 < fld c.len 16 3
    | 4 => 3 < fld c.len 28 4 || 65536 < c.dst.toNat + lenOf c
    | _ => fld c.len 28 4 ≠ 0 || 2 ^ 20 < lenOf c
  if bad then 2 else 0

def statusWord (code bytes : Nat) : Word := BitVec.ofNat 64 (code + 2 ^ 32 * bytes)

/-- Credits the barrier of a command that is complete, and gives its status (R172, R173). -/
def State.credit' (s : State) (c : CopyCmd) : State × Word :=
  let h := handleIn c
  if h = 0 then (s, statusWord 0 0)
  else match s.barrierOf c.rid h with
    | none => (s, statusWord 5 (creditOf c))
    | some _ => (s.expect c.rid h (-(creditOf c : Int)), statusWord 0 0)

/-! ### Issue -/

/-- Acquire of an engine command (03 R60): every earlier memory operation of the strand has completed, those of its copy
commands and matrix instructions among them (log 34). -/
def acqReady (s : State) (acq : BitVec 1) : Bool :=
  acq = 0 || s.loadsOut s.cur + s.storesOut s.cur + s.copiesOut s.cur + s.matrixOut s.cur == 0

/-- The copy engine of the strand's tile holds its 64 commands (08, before R171). -/
def copyFull (s : State) : Bool := 64 ≤ (s.tile (tileOf s.cur)).copies.length

/-- A command of the copy engine enters its tile's engine and its token is pending (R100, R155, R175); one that finds the
engine full stalls. It waits for the strand's own matrix instructions (09 R189, log 5). A poisoned length word S[t] is consumed
(DESIGN CHOICE, log 69: 06 R109 names addresses and indices). -/
def copyOp (s : State) (g : Guard) (acq : BitVec 1) (sc : BitVec 2) (t a b : SReg) (rel : BitVec 1) (op : Nat) :
    Host.Outcome State Fault Refusal :=
  run s { g := g, ss := [t, a, b] } <| poisonS s [t, a, b] <| engineRoom s <|
    if copyFull s || 0 < s.matrixOut s.cur || !acqReady s acq then .stall s else
    let issue : State → Act := fun s =>
      let x := s.me
      let c : CopyCmd :=
        { op := op, sid := s.cur, taskNo := x.taskNo, rid := x.rid, token := t, super := x.super, dst := x.rd a
          src := x.rd b, len := x.rd t, acq := acq == 1, rel := rel == 1, scope := sc, order := s.nextId, status := none
          parked := false, started := false, listed := [], srcs := [], moved := [], half := [], bad := [] }
      .done (({ s with nextId := s.nextId + 1 }.onTile (tileOf s.cur) (fun y => { y with copies := y.copies ++ [c] })).pendToken t)
    if op = 4 then issue s else irrevocable s issue

/-- `copy` (R175, 01 R11). -/
def execCopy (g : Guard) (acq : BitVec 1) (sc : BitVec 2) (t a b : SReg) (rel : BitVec 1) (s : State) :
    Host.Outcome State Fault Refusal := copyOp s g acq sc t a b rel 0
/-- `put` (R175). -/
def execPut (g : Guard) (acq : BitVec 1) (sc : BitVec 2) (t a b : SReg) (rel : BitVec 1) (s : State) :
    Host.Outcome State Fault Refusal := copyOp s g acq sc t a b rel 1
/-- `put.o` (R175). -/
def execPutO (g : Guard) (acq : BitVec 1) (sc : BitVec 2) (t a b : SReg) (rel : BitVec 1) (s : State) :
    Host.Outcome State Fault Refusal := copyOp s g acq sc t a b rel 2
/-- `gather` (R175). -/
def execGather (g : Guard) (acq : BitVec 1) (sc : BitVec 2) (t a b : SReg) (rel : BitVec 1) (s : State) :
    Host.Outcome State Fault Refusal := copyOp s g acq sc t a b rel 3
/-- `copyw` (R176): not irrevocable. -/
def execCopyw (g : Guard) (acq : BitVec 1) (sc : BitVec 2) (t a b : SReg) (s : State) :
    Host.Outcome State Fault Refusal := copyOp s g acq sc t a b 0 4

/-- `venc` (R177): to the encoder of the issuing tile's die. -/
def execVenc (g : Guard) (acq : BitVec 1) (sc : BitVec 2) (t a : SReg) (rel : BitVec 1) (s : State) :
    Host.Outcome State Fault Refusal :=
  run s { g := g, ss := [t, a] } <| poisonS s [a] <| engineRoom s <|
    if !acqReady s acq then .stall s else
    irrevocable s fun s =>
      let x := s.me
      let c : EncCmd :=
        { no := s.nextId, sid := s.cur, taskNo := x.taskNo, rid := x.rid, token := t, super := x.super, desc := x.rd a, acq := acq == 1
          rel := rel == 1, scope := sc, parked := false, listed := [], frame := none, rows := [], label := 0, wrote := 0 }
      .done (({ s with nextId := s.nextId + 1 }.onDie (dieOf s.cur) (fun d => { d with encCmds := d.encCmds ++ [c] })).pendToken t)

/-! ### Completion -/

/-- The command leaves its engine and its token gets the status (R173). -/
def State.copyEnds (s : State) (tile idx : Nat) (c : CopyCmd) (x : Word) : State :=
  (s.onTile tile (fun t => { t with copies := t.copies.eraseIdx idx })).commandEnds c.sid c.taskNo c.order c.token x

/-- The command as it stands in its engine. -/
def State.setCopy (s : State) (tile idx : Nat) (c : CopyCmd) : State :=
  s.onTile tile (fun t => { t with copies := setAt t.copies idx c })

/-- The command waits for `replay` with a page request (R171). -/
def State.copyParks (s : State) (tile idx : Nat) (c : CopyCmd) (k : AccKind) (e : XErr × Nat) : State :=
  (s.engineFault c.rid (dieOfTile tile) 1 k e).setCopy tile idx { c with parked := true }

/-- The source addresses of a `gather`, in element order. -/
def listAddrs (l : List Byte) (n : Nat) : List Nat := (List.range n).map (fun i => leNat ((l.drop (8 * i)).take 8))

/-! #### Bytes by destination unit (03 R53: an aligned 8-byte unit is performed at one point in time) -/

/-- The number of destination units. -/
def unitCount (c : CopyCmd) : Nat :=
  if creditOf c = 0 then 0 else (c.dst.toNat % 8 + creditOf c - 1) / 8 + 1

/-- The places, from the destination address, of the bytes of a unit. -/
def unitPlaces (c : CopyCmd) (u : Nat) : List Nat :=
  let d := c.dst.toNat % 8
  let lo := 8 * u - d
  (List.range (min (creditOf c) (8 * u + 8 - d) - lo)).map (lo + ·)

/-- The source of a byte: an engine address and a place from it. -/
def sourceOf (c : CopyCmd) (o : Nat) : Nat × Nat :=
  if c.op = 3 then ((c.srcs[o / gatherSize c]?).getD 0, o % gatherSize c) else (c.src.toNat, o)

/-- The weight buffer with bytes at offsets from off on and the form tag of each block that takes one (R176, R179); a block
that takes a poisoned byte is poisoned. -/
def Core.fill (k : Core) (off form : Nat) (l : List (Nat × Byte × Bool)) : Core :=
  { k with
    weight := l.foldl (fun w y => setBits w (8 * (off + y.1)) 8 y.2.1.toNat) k.weight
    form := l.foldl (fun f y => setBits f (2 * ((off + y.1) / 64)) 2 form) k.form
    wPoison := l.foldl (fun m y => if y.2.2 then setBit m ((off + y.1) / 64) true else m) k.wPoison }

/-- The buffer of a core taken over by a region: the owner changes, then every byte and tag is cleared (R179), the poison of its
blocks among them (DESIGN CHOICE, log 78). -/
def Core.takeOver (k : Core) (rid : Nat) : Core :=
  if k.owner = some rid then k else { k with weight := 0, form := 0, wPoison := 0, owner := some rid }

/-- A `copyw` has ended: a block that it wrote whole from unpoisoned data is clean (R176). -/
def Core.cleanBlocks (k : Core) (off n : Nat) (bad : List Nat) : Core :=
  { k with wPoison := (List.range 1024).foldl (fun m b =>
      if off ≤ 64 * b && 64 * b + 64 ≤ off + n && !bad.contains b then setBit m b false else m) k.wPoison }

/-- The weight block that a unit of a `copyw` lies in. -/
def CopyCmd.blockOf (c : CopyCmd) (u : Nat) : Nat := (c.dst.toNat / 8 + u) / 8

/-- The command with a block of its own poisoned. -/
def CopyCmd.spoil (c : CopyCmd) (b : Nat) : CopyCmd := { c with bad := addNum c.bad b }

/-- A block of a core's weight buffer is poisoned: a `copyw` that has written into it does not clean it when it ends (R176, 09
R190). -/
def State.spoilBlock (s : State) (core b : Nat) : State :=
  s.onTile (core / 4) (fun t => { t with copies := t.copies.map (fun c =>
    if c.op = 4 && coreOf c.sid = core && (c.moved.any (fun u => c.blockOf u == b) ||
      c.half.any (fun o => (c.dst.toNat + o) / 64 == b)) then c.spoil b else c) })

/-- Bytes of a started command at places from its destination, read already, are performed. -/
def State.moveBytes (s : State) (c : CopyCmd) (tile u : Nat) (l : List (Nat × Byte × Bool)) :
    State × Except (AccKind × XErr × Nat) Unit :=
  if c.op = 4 then
    let s := s.onCore (coreOf c.sid) (fun k => k.fill c.dst.toNat (fld c.len 28 4) l)
    (if l.any (fun y => y.2.2) then s.spoilBlock (coreOf c.sid) (c.blockOf u) else s, .ok ())
  else
    match s.engineWrite c tile l with
    | (s, .error e) => (s, .error (.write, e))
    | (s, .ok _) => (s, .ok ())

/-- The command with a unit performed. -/
def CopyCmd.note (c : CopyCmd) (u : Nat) (poison : Bool) : CopyCmd :=
  let c := { c with moved := c.moved ++ [u] }
  if poison then c.spoil (c.blockOf u) else c

/-- One unit of a started command: its bytes are read and performed. A page fault stops the command at its byte: those of the
unit before it are performed (R171). -/
def State.moveUnit (s : State) (c : CopyCmd) (tile u : Nat) : State × CopyCmd × Option (AccKind × XErr × Nat) :=
  let offs := (unitPlaces c u).filter (fun o => !c.half.contains o)
  match s.engineRead c tile (offs.map (sourceOf c)) with
  | (s, .ok bs) =>
    match s.moveBytes c tile u (offs.zip bs) with
    | (s, .error e) => (s, c, some e)
    | (s, .ok _) => (s, c.note u (anyMark bs), none)
  | (s, .error e) =>
    match offs.takeWhile (fun o => (sourceOf c o).1 + (sourceOf c o).2 != e.2) with
    | [] => (s, c, some (.read, e))
    | o :: r =>
      match s.engineRead c tile ((o :: r).map (sourceOf c)) with
      | (s, .error e) => (s, c, some (.read, e))
      | (s, .ok bs) =>
        match s.moveBytes c tile u ((o :: r).zip bs) with
        | (s, .error e) => (s, c, some e)
        | (s, .ok _) =>
          let c := { c with half := c.half ++ o :: r }
          (s, if anyMark bs then c.spoil (c.blockOf u) else c, some (.read, e))

/-- The listed units in order; a fault stops at its byte. -/
def State.moveUnits (tile : Nat) : List Nat → State → CopyCmd → State × CopyCmd × Option (AccKind × XErr × Nat)
  | [], s, c => (s, c, none)
  | u :: r, s, c =>
    match s.moveUnit c tile u with
    | (s, c, some e) => (s, c, some e)
    | (s, c, none) => State.moveUnits tile r s c

/-! #### Start, end -/

/-- A put ends at its target and its acknowledgement is on its way; another command ends. -/
def State.copyStops (s : State) (tile idx : Nat) (c : CopyCmd) (x : Word) : State :=
  if c.op = 1 || c.op = 2 then s.setCopy tile idx { c with status := some x } else s.copyEnds tile idx c x

/-- A `copyw` may act: the take-over waits for accepted matrix instructions, for the core's earlier `copyw`s and for those
already writing (R179). One that a pre-emption has suspended is none of the core's until its region goes on (log 34). -/
def copywReady (s : State) (tile idx : Nat) (c : CopyCmd) : Bool :=
  let k := s.core (coreOf c.sid)
  k.owner == some c.rid ||
  (k.mq.isEmpty && (numberedFrom 0 (s.tile tile).copies).all (fun x =>
    x.1 == idx || !(x.2.op == 4 && coreOf x.2.sid == coreOf c.sid) ||
      (idx < x.1 && !(x.2.started && k.owner == some x.2.rid))))

/-- An earlier `put.o` of the same strand to the same tile has not arrived (03 R59). -/
def putBlocked (s : State) (tile idx : Nat) (c : CopyCmd) : Bool :=
  c.op == 2 && ((s.tile tile).copies.take idx).any (fun x =>
    x.op == 2 && x.sid == c.sid && x.status.isNone && (x.dst.toNat - engineSpad) / 2 ^ 20 == (c.dst.toNat - engineSpad) / 2 ^ 20)

/-- The code a command ends with before any byte moves (R173); for a `gather`, before its list is read. -/
def startCode (r : Region) (c : CopyCmd) : Nat :=
  let src := c.src.toNat
  let dst := c.dst.toNat
  let n := creditOf c
  match c.op with
  | 3 => lowest [addrCode r src (8 * gatherCount c) true true false, lenCode c, addrCode r dst n true true false]
  | 4 => lowest [addrCode r src n true true false, lenCode c]
  | 0 => lowest [addrCode r src n true true true, lenCode c, addrCode r dst n true true false]
  | _ => lowest [addrCode r src n true true false, lenCode c, addrCode r dst n false false true]

/-- The bytes of a range of n from va on that come before a fault's address. -/
def beforeFault (va n : Nat) (e : XErr × Nat) : Nat := min n (e.2 - va)

/-- A `gather` reads its address list; the codes of the elements come with those of the command (R173). A page fault parks it at
its byte of the list, what it has read of it being kept (R171). Marks of the list's units are dropped (DESIGN CHOICE, log 77). -/
def State.gatherStart (s : State) (r : Region) (tile idx : Nat) (c : CopyCmd) : State × Option CopyCmd :=
  let cnt := gatherCount c
  let list := addrCode r c.src.toNat (8 * cnt) true true false
  if lenCode c = 2 || list ≠ 0 then (s.copyEnds tile idx c (statusWord (startCode r c) 0), none)
  else
    let at' : Nat → List (Nat × Nat) := fun n => ((List.range n).map (c.listed.length + ·)).map (fun o => (c.src.toNat, o))
    let n := 8 * cnt - c.listed.length
    match s.engineRead c tile (at' n) with
    | (s, .error e) =>
      let (s, l) := s.engineRead c tile (at' (beforeFault (c.src.toNat + c.listed.length) n e))
      let more : List (Byte × Bool) := match l with
        | .ok l => l
        | .error _ => []
      (s.copyParks tile idx { c with listed := c.listed ++ more.map (·.1) } .read e, none)
    | (s, .ok l) =>
      let addrs := listAddrs (c.listed ++ l.map (·.1)) cnt
      let code := lowest (startCode r c :: addrs.map (fun x => addrCode r x (gatherSize c) true true true))
      if code ≠ 0 then (s.copyEnds tile idx c (statusWord code 0), none)
      else (s, some { c with started := true, srcs := addrs })

/-- The start of a command: its tests, a `gather`'s list, a `copyw`'s take-over. None: it has ended, parked, or must wait.
A length of 0 ends a command other than `copyw` with status 0, whatever its addresses (R175). A `copyw` under which the buffer
has lost its owner (a core reset) begins again (R179, log 34). -/
def State.copyStart (s : State) (r : Region) (tile idx : Nat) (c : CopyCmd) : State × Option CopyCmd :=
  if c.started && (c.op != 4 || (s.core (coreOf c.sid)).owner == some c.rid) then (s, some c)
  else if putBlocked s tile idx c then (s, none)
  else if c.op ≠ 4 && creditOf c = 0 then (s.copyStops tile idx c 0, none)
  else if c.op = 3 then s.gatherStart r tile idx c
  else if startCode r c ≠ 0 then (s.copyStops tile idx c (statusWord (startCode r c) 0), none)
  else if c.op = 4 then
    if copywReady s tile idx c then
      (s.onCore (coreOf c.sid) (fun k => k.takeOver c.rid), some { c with started := true, moved := [], half := [], bad := [] })
    else (s, none)
  else (s, some { c with started := true })

/-- A byte of the destination is not performed yet. -/
def CopyCmd.left (c : CopyCmd) (o : Nat) : Bool :=
  !c.moved.contains ((c.dst.toNat + o) / 8 - c.dst.toNat / 8) && !c.half.contains o

/-- The first byte still to perform of a global destination that another owner holds (03 R62). -/
def copyRefusal (s : State) (c : CopyCmd) : Option Nat :=
  if (c.op = 0 || c.op = 3) && c.dst.toNat < 2 ^ 56 then
    woRefused s c.rid 1 (((List.range (creditOf c)).filter c.left).map (c.dst.toNat + ·))
  else none

/-- The units that a command may perform: those before a refused one. -/
def unitLimit (s : State) (c : CopyCmd) : Nat :=
  match copyRefusal s c with
  | some va => va / 8 - c.dst.toNat / 8
  | none => unitCount c

/-- Every unit that may be performed has been: the credit and the status (R172, R173). -/
def State.copyDone (s : State) (tile idx : Nat) (c : CopyCmd) : State :=
  match copyRefusal s c with
  | some va => s.copyEnds tile idx c (statusWord 4 (va / 8 * 8 - c.dst.toNat))
  | none =>
    if c.op = 1 || c.op = 2 then s.setCopy tile idx { c with status := some 0 }
    else
      let s := if c.op = 4 then
          s.onCore (coreOf c.sid) (fun k => k.cleanBlocks c.dst.toNat (lenOf c) c.bad)
        else s
      let (s, x) := s.credit' c
      s.copyEnds tile idx c x

/-- The rest of a command: it starts, if it has not; every unit not yet performed is, in ascending order; it ends. A page
fault parks it there, with what it has performed (R171). -/
def State.copyRuns (s : State) (r : Region) (tile idx : Nat) (c : CopyCmd) : State :=
  match s.copyStart r tile idx c with
  | (s, none) => s
  | (s, some c) =>
    match State.moveUnits tile ((List.range (unitLimit s c)).filter (fun u => !c.moved.contains u)) s c with
    | (s, c, some (k, e)) => s.copyParks tile idx c k e
    | (s, c, none) => s.copyDone tile idx c

/-- One unit of a command, before the others (03 R53, R59, log 41). -/
def State.copyUnit (s : State) (r : Region) (tile idx : Nat) (c : CopyCmd) (u : Nat) : State :=
  match s.copyStart r tile idx c with
  | (s, none) => s
  | (s, some c) =>
    if unitLimit s c ≤ u || c.moved.contains u then s.setCopy tile idx c
    else
      match s.moveUnit c tile u with
      | (s, c, some (k, e)) => s.copyParks tile idx c k e
      | (s, c, none) => s.setCopy tile idx c

/-- The command at a place of a tile's engine, with its region, when it may go on: not parked, its region not PREEMPTED, its
bytes not all performed; a `copyw` only once its strand has a core again. -/
def State.copyAt (s : State) (tile idx : Nat) : Option (CopyCmd × Region) :=
  match (s.tile tile).copies[idx]? with
  | none => none
  | some c =>
    match s.region c.rid with
    | none => none
    | some r =>
      if c.parked || r.state = .preempted || c.status.isSome || (c.op == 4 && 2 ^ 32 ≤ c.sid) then none else some (c, r)

/-- The unit input of the agenda. -/
def State.engineUnit (s : State) (tile idx u : Nat) : State :=
  match s.copyAt tile idx with
  | none => s
  | some (c, r) => s.copyUnit r tile idx c u

/-- COPY_COMPLETION (01 R11, R171-R176): a `copy`, `gather` or `copyw` performs its bytes, credits its barrier and writes its
status. -/
def execCopyCompletion (tile idx : Nat) (s : State) : Host.Outcome State Fault Refusal :=
  match s.copyAt tile idx with
  | none => .next s
  | some (c, r) => .next (if c.op = 1 || c.op = 2 then s else s.copyRuns r tile idx c)

/-- PUT_ARRIVAL (03 R59, R175): the bytes of a put are performed at the target. -/
def execPutArrival (tile idx : Nat) (s : State) : Host.Outcome State Fault Refusal :=
  match s.copyAt tile idx with
  | none => .next s
  | some (c, r) => .next (if c.op = 1 || c.op = 2 then s.copyRuns r tile idx c else s)

/-- PUT_ACK (03 R59, R175): the acknowledgement reaches the source; the barrier is credited, the status written. -/
def execPutAck (tile idx : Nat) (s : State) : Host.Outcome State Fault Refusal :=
  match (s.tile tile).copies[idx]? with
  | none => .next s
  | some c =>
    match c.status with
    | none => .next s
    | some x =>
      if x = 0 && creditOf c ≠ 0 then
        let (s, y) := s.credit' c
        .next (s.copyEnds tile idx c y)
      else .next (s.copyEnds tile idx c x)

/-! ### The encoder (R177) -/

/-- The range checks of a frame descriptor: code 2. -/
def frameOk (d : List Byte) : Bool :=
  let w := fieldAt d 24 2
  let h := fieldAt d 26 2
  let codec := fieldAt d 28 1
  let depth := fieldAt d 29 1
  let rate := fieldAt d 32 1
  let q := fieldAt d 34 2
  let target := fieldAt d 36 4
  let peak := fieldAt d 40 4
  fieldAt d 16 4 % 64 == 0 && fieldAt d 20 4 % 64 == 0 && w % 2 == 0 && 16 ≤ w && w ≤ 7680 && h % 2 == 0 && 16 ≤ h &&
  h ≤ 4320 && codec ≤ 2 && (depth == 8 || (depth == 10 && codec != 1)) && fieldAt d 30 1 < 16 && fieldAt d 31 1 < 8 &&
  rate ≤ 2 && 1 ≤ fieldAt d 33 1 && fieldAt d 33 1 ≤ 240 &&
  (rate != 0 || (target == 0 && peak == 0 && (if codec = 0 then q < 256 else q ≤ 51))) && (rate != 2 || target ≤ peak) &&
  (d.drop 60).all (fun b => b == 0)

/-- The places of a plane that its translation asks for: the first byte of each row, and of each 64 KiB block that begins inside
the row. -/
def planeAddrs (base pitch rowBytes rows : Nat) : List Nat :=
  (List.range rows).flatMap (fun i =>
    let a := base + pitch * i
    let b := (a + rowBytes - 1) / 65536 * 65536
    if a < b then [a, b] else [a])

/-- The stream number of a command, where its descriptor can be read. -/
def EncCmd.stream (s : State) (pid : Nat) (c : EncCmd) : Option Nat :=
  if 30 < c.listed.length then some (fieldAt c.listed 30 1)
  else match (s.readVirt .hw pid (some c.rid) true c.desc.toNat 128).2 with
    | .ok y => some (fieldAt (y.map (·.1)) 30 1)
    | .error _ => none

/-- An earlier command of the same region is of the same stream, or may be: frames of one stream are encoded in order (R177). -/
def encBlocked (s : State) (die idx pid rid stream : Nat) : Bool :=
  ((s.die die).encCmds.take idx).any (fun x => x.rid == rid && (x.stream s pid).all (· == stream))

/-- The ranges of a frame lie in the global window (R173). -/
def frameKinds (d : List Byte) : Bool :=
  let row := fieldAt d 24 2 * (if fieldAt d 29 1 = 10 then 2 else 1)
  let rows := fieldAt d 26 2
  let inGlob : Nat → Nat → Bool := fun x n => x < 2 ^ 56 && x + n ≤ 2 ^ 56
  inGlob (fieldAt d 0 8) (fieldAt d 16 4 * (rows - 1) + row) && inGlob (fieldAt d 8 8) (fieldAt d 20 4 * (rows / 2 - 1) + row) &&
  inGlob (fieldAt d 48 8) (fieldAt d 56 4)

/-- The places that a frame's translation asks for, plane by plane. -/
def frameAddrs (d : List Byte) : List Nat :=
  let row := fieldAt d 24 2 * (if fieldAt d 29 1 = 10 then 2 else 1)
  planeAddrs (fieldAt d 0 8) (fieldAt d 16 4) row (fieldAt d 26 2) ++
  planeAddrs (fieldAt d 8 8) (fieldAt d 20 4) row (fieldAt d 26 2 / 2)

/-- The command leaves the encoder and its token gets the status (R173). -/
def State.encEnds (s : State) (die idx : Nat) (c : EncCmd) (x : Word) : State :=
  (s.onDie die (fun d => { d with encCmds := d.encCmds.eraseIdx idx })).commandEnds c.sid c.taskNo c.no c.token x

/-- The command waits for `replay` with a page request, as far as it has come (R171). -/
def State.encParks (s : State) (die idx : Nat) (c : EncCmd) (k : AccKind) (e : XErr × Nat) : State :=
  (s.engineFault c.rid die 4 k e).onDie die (fun d => { d with encCmds := setAt d.encCmds idx { c with parked := true } })

/-- A frame that has been read is written out: a bitstream of a free size and of free bytes (log 15), up to the capacity or to
the first unit that another owner holds (R62). A page fault parks the command at its byte (R171). Marks of the descriptor and of the
planes are dropped: the bitstream is unmarked (DESIGN CHOICE, log 77). -/
def State.encWrites (s : State) (die idx : Nat) (c : EncCmd) (d : List Byte) : State :=
  let out := fieldAt d 48 8
  let cap := fieldAt d 56 4
  let total := Config.bitstreamSize c.label % 2 ^ 32
  let n := min total cap
  let refused := woRefused s c.rid 4 ((List.range (n - c.wrote)).map (out + c.wrote + ·))
  let m := match refused with
    | some va => max c.wrote (va / 8 * 8 - out)
    | none => n
  let bytes : Nat → List (Nat × Byte × Bool) := fun k =>
    (List.range (k - c.wrote)).map (fun i => (out + c.wrote + i, Config.bitstreamByte (Nat.pair c.label (c.wrote + i)), false))
  match s.engineStore (.enc die) c.issuer (bytes m) with
  | (s, .error e) =>
    let s := (s.engineStore (.enc die) c.issuer (bytes (e.2 - out))).1
    s.encParks die idx { c with wrote := max c.wrote (e.2 - out) } .write e
  | (s, .ok _) =>
    let s := if (fieldAt d 31 1).testBit 2 then
        s.onDie die (fun x => { x with streams := x.streams.filter (fun y => y != (fieldAt d 30 1, c.rid)) })
      else s
    s.encEnds die idx c (if refused.isSome then statusWord 4 m else if cap < total then statusWord 6 cap else statusWord 0 total)

/-- A command whose descriptor has passed its tests translates its planes and writes its frame; a page fault parks it at its place
of a plane (R171). -/
def State.encGoes (s : State) (r : Region) (die idx : Nat) (c : EncCmd) (d : List Byte) : State :=
  match s.xlats (.enc die) r.pid (some c.rid) c.super .read c.rows [] with
  | (s, .error e) => s.encParks die idx { c with rows := c.rows.dropWhile (· != e.2) } .read e
  | (s, .ok _) => s.encWrites die idx { c with rows := [] } d

/-- The tests of a descriptor that is read (R173, R177): an earlier frame of its stream goes first; the codes of a bad one; else its
stream is taken and it goes on. -/
def State.encStarts (s : State) (r : Region) (die idx : Nat) (c : EncCmd) (d : List Byte) : State :=
  let key := (fieldAt d 30 1, c.rid)
  let used := (s.die die).streams
  if encBlocked s die idx r.pid c.rid key.1 then
    s.onDie die (fun x => { x with encCmds := setAt x.encCmds idx { c with listed := d } })
  else if !frameKinds d then s.encEnds die idx c (statusWord 1 0)
  else if !frameOk d then s.encEnds die idx c (statusWord 2 0)
  else if !used.contains key && 16 ≤ used.length then s.encEnds die idx c (statusWord 7 0)
  else
    let c := { c with listed := d, frame := some d, rows := frameAddrs d, label := s.freeCtr }
    let s := { s with freeCtr := s.freeCtr + 1 }.onDie die (fun x =>
      { x with streams := if x.streams.contains key then x.streams else x.streams ++ [key] })
    s.encGoes r die idx c d

/-- VENC_COMPLETION (R177): the frame is read, once, and its bitstream is written at the output buffer. A descriptor address
that is not 64-byte aligned ends it with status 2, one outside the global window with status 1, and a stream is known by its number
and its region (DESIGN CHOICE, log 66). A page fault parks the command at its byte, of the descriptor, a plane or the output (R171). -/
def execVencCompletion (die idx : Nat) (s : State) : Host.Outcome State Fault Refusal :=
  match (s.die die).encCmds[idx]? with
  | none => .next s
  | some c =>
    match s.region c.rid with
    | none => .next s
    | some r =>
      if c.parked || r.state = .preempted then .next s else
      match c.frame with
      | some d => .next (s.encGoes r die idx c d)
      | none =>
      if 2 ^ 56 < c.desc.toNat + 128 then .next (s.encEnds die idx c (statusWord 1 0))
      else if c.desc.toNat % 64 ≠ 0 then .next (s.encEnds die idx c (statusWord 2 0))
      else
        let va := c.desc.toNat + c.listed.length
        let n := 128 - c.listed.length
        match s.readVirt (.enc die) r.pid (some c.rid) c.super va n with
        | (s, .error e) =>
          let (s, l) := s.readVirt (.enc die) r.pid (some c.rid) c.super va (beforeFault va n e)
          let more : List (Byte × Bool) := match l with
            | .ok l => l
            | .error _ => []
          .next (s.encParks die idx { c with listed := c.listed ++ more.map (·.1) } .read e)
        | (s, .ok l) => .next (s.encStarts r die idx c (c.listed ++ l.map (·.1)))

end Sys2Proof.Machine
end

