-- ==== Sys2Proof/Machine/VectorOps.lean ====
section
/-! DEFINITION. Elements, guards and marks of vector registers (04 R68, 07 R135, R136), exact sums (04 R74). -/

namespace Sys2Proof.Machine

/-- Element i of width n bytes. -/
def elemOf (v : Vec) (n i : Nat) : Nat := fld v (8 * n * i) (8 * n)

/-- The register whose element i is f i, taken modulo its width. -/
def mapElems (n : Nat) (f : Nat → Nat) : Vec :=
  BitVec.ofNat 512 ((List.range (64 / n)).foldr (fun i acc => acc * 2 ^ (8 * n) + f i % 2 ^ (8 * n)) 0)

/-- Some byte of element i is enabled (R135). -/
def elemLive (en : BitVec 64) (n i : Nat) : Bool := fld en (n * i) n != 0

/-- Element i is selected by a mask: the bit of its lowest byte (R135). -/
def elemSelected (p : Word) (n i : Nat) : Bool := p.getLsbD (i * n)

/-- The element lies in a marked unit (R136). -/
def elemMark (m : BitVec 8) (n i : Nat) : Bool := bitOf m (i * n / 8)

/-- The units that hold a live element for which f holds. -/
def marksFrom (n : Nat) (en : BitVec 64) (f : Nat → Bool) : BitVec 8 :=
  (List.range (64 / n)).foldl (fun acc i => if elemLive en n i && f i then acc ||| BitVec.twoPow 8 (i * n / 8) else acc) 0

/-- A vector instruction that writes V[d] under its guard: value and marks from the strand and the enabled bytes. With
no byte enabled it has no effect and takes no fault (05 R99). -/
def vecWrite (s : State) (px : Pfx) (ok : Bool) (g : Guard) (d : VReg) (vs : List VReg) (ss : List SReg) (pre : Act → Act)
    (f : Strand → Vec) (m : Strand → BitVec 64 → BitVec 8) : Host.Outcome State Fault Refusal :=
  run s { px := px, ok := ok, g := g, perByte := true, vs := d :: vs, ss := ss } <|
    if s.me.guardBytes g = 0 then .done s else
    pre (.done (s.onMe (fun t => let en := t.guardBytes g; t.wrVBytes d (f t) en (m t en))))

/-- Element-wise on V[a] and V[b] (R141, R143). -/
def vec2 (s : State) (px : Pfx) (ok : Bool) (g : Guard) (d a b : VReg) (n : Nat) (f : Strand → Nat → Nat → Nat) : Host.Outcome State Fault Refusal :=
  vecWrite s px ok g d [a, b] [] id
    (fun t => mapElems n (fun i => f t (elemOf (t.rdV a) n i) (elemOf (t.rdV b) n i))) (fun t _ => t.markV a ||| t.markV b)

/-- Writes the enabled bytes of a predicate. A write of all 64 bits clears the mark, another leaves it (06 R110). -/
def Strand.setVCond (t : Strand) (d : PReg) (en x : BitVec 64) : Strand :=
  t.wrP d ((t.rdP d &&& ~~~ en) ||| (x &&& en)) (if en = BitVec.allOnes 64 then false else t.markP d)

/-- A compare into a predicate (R142, R145): every byte of a live element receives the result. Of two marked operands V[a] is named
(DESIGN CHOICE, log 65). -/
def vecCmp (s : State) (px : Pfx) (ok : Bool) (g : Guard) (d : PReg) (a b : VReg) (n : Nat) (f : Nat → Nat → Bool) : Host.Outcome State Fault Refusal :=
  run s { px := px, ok := ok, g := g, perByte := true, vs := [a, b] } <|
    let t := s.me
    let en := t.guardBytes g
    if en = 0 then .done s
    else if (List.range (64 / n)).any (fun i => elemLive en n i && elemMark (t.markV a) n i) then trapV s a
    else if (List.range (64 / n)).any (fun i => elemLive en n i && elemMark (t.markV b) n i) then trapV s b
    else
      let x : BitVec 64 := (List.range (64 / n)).foldl (fun acc i =>
        if f (elemOf (t.rdV a) n i) (elemOf (t.rdV b) n i) then acc ||| BitVec.ofNat 64 ((2 ^ n - 1) * 2 ^ (n * i)) else acc) 0
      .done (s.onMe (fun t => t.setVCond d en x))

/-- The exact sum of terms with the special order of R74; an exact zero is -0 only when every term is -0 (R64). -/
def sumVals (l : List FVal) : FVal :=
  if l.any FVal.isNan then .nan
  else
    let pos := l.any (fun x => x.isInf && !x.isNeg)
    let neg := l.any (fun x => x.isInf && x.isNeg)
    if pos && neg then .nan else if pos then .inf false else if neg then .inf true
    else
      let q := l.foldl (fun acc x => acc + x.rat) (0 : ℚ)
      if q = 0 then .fin (l.all FVal.isNeg) 0 else .fin (decide (q < 0)) |q|

end Sys2Proof.Machine
end

