-- ==== Sys2Proof/Machine/Matrix.lean ====
section
/-! DEFINITION. The matrix unit (09): issue, check and acceptance (R180-R188), execution (R184-R196), the code table (R197). -/

namespace Sys2Proof.Machine

/-! ### Formats (R183) -/

/-- The `fmt` fields an instruction runs under: AF, BF, SCM, ACC; none for an illegal combination. Codes are those of
05 R103: 1 FP32, 2 FP16, 3 BF16, 4 E4M3, 5 E5M2, 6 l6, 7 c4, 8 i8, 10 i32. -/
def matFmt (fn : Nat) (x : Word) : Option (BitVec 4 × BitVec 4 × Nat × Bool) :=
  let af : BitVec 4 := bits x 16 4
  let bf : BitVec 4 := bits x 12 4
  let df := fld x 8 4
  let scm := fld x 5 3
  let z := bitOf x 4
  let fp8 : BitVec 4 → Bool := fun f => f == 4 || f == 5
  if !bitOf x 60 then
    match fn with
    | 0 => some (2, 2, 0, false)
    | 1 => some (4, 4, 0, false)
    | 2 => some (6, 6, 0, false)
    | 6 => some (4, 0, 0, false)
    | _ => some (0, 0, 0, false)
  else if fld x 20 2 ≠ 0 || fld x 0 4 ≠ 0 then none
  else match fn with
    | 0 =>
      if (af = 2 || af = 3) && bf = af && df = 1 then some (af, bf, scm, z)
      else if fp8 af && fp8 bf && df = 1 then some (af, bf, scm, z)
      else if af = 8 && (bf = 8 || bf = 7) && df = 10 && scm = 0 then some (af, bf, scm, z) else none
    | 1 => if fp8 af && fp8 bf && df = 1 then some (af, bf, scm, z) else none
    | 2 => if af = 6 && bf = 6 && df = 1 && scm = 0 then some (af, bf, scm, z) else none
    | 6 => if fp8 af && bf = 0 && df = 0 && scm = 0 && !z then some (af, bf, 0, false) else none
    | _ => none

/-- K, element size of A, bytes of B, form tag (R181). -/
def matShape (fn : Nat) (af bf : BitVec 4) : Nat × Nat × Nat × Nat :=
  match fn with
  | 1 => (128, 1, 2560, 1)
  | 2 => (128, 1, 4096, 3)
  | _ => if af = 2 || af = 3 then (32, 2, 2048, 0) else if bf = 7 then (64, 1, 1024, 2) else (64, 1, 2048, 0)

/-! ### Issue (R186): the strand holds the instruction in its check -/

/-- The check waits for every earlier `copyw` of the strand before its first test; then tests 1 to 3 of R187, the operands as
read, and the strand holds the instruction for the others. -/
def matOp (s : State) (g : Guard) (fn d : Nat) (px : Pfx) (ss : List SReg) (vs : List VReg) (src : Vec) (marks : BitVec 8)
    (a sc m b : SReg) : Host.Outcome State Fault Refusal :=
  let t := s.me
  let f := matFmt fn t.pfxr
  let scm := (f.map (fun x => x.2.2.1)).getD 0
  if s.copywOut s.cur then finish (.stall (s.onMe (fun t => { t with inCheck := true }))) else
  run s { px := px, ok := f.isSome, g := g, ss := if scm = 0 then ss.erase sc else ss, vs := vs } <|
    poisonS s (if scm = 0 then ss.erase sc else ss) <| engineRoom s <|
      match f with
      | none => .trap s 1 0
      | some (af, bf, scm, z) =>
        let op : MatOp :=
          { fn := fn, d := d, addr := t.rd a, scales := t.rd sc, mask := t.rd m, b := t.rd b, af := af, bf := bf
            scm := scm, z := z, src := src, srcMarks := marks }
        .gone (s.onMe (fun t => { t with wait := .check op }))

/-- The operands of a multiply: S[a] to S[a+2] and S[b]; S[a+1] is read only when SCM is not 0 (R180). -/
def mulOp (s : State) (g : Guard) (fn : Nat) (d : AReg) (a b : SReg) : Host.Outcome State Fault Refusal :=
  matOp s g fn d.toNat .mode [a, a + 1, a + 2, b] [] 0 0 a (a + 1) (a + 2) b

/-- `mma` (R192). -/
def execMma (g : Guard) (d : AReg) (a b : SReg) (s : State) : Host.Outcome State Fault Refusal := mulOp s g 0 d a b
/-- `mmas` (R193). -/
def execMmas (g : Guard) (d : AReg) (a b : SReg) (s : State) : Host.Outcome State Fault Refusal := mulOp s g 1 d a b
/-- `mmal` (R192). -/
def execMmal (g : Guard) (d : AReg) (a b : SReg) (s : State) : Host.Outcome State Fault Refusal := mulOp s g 2 d a b
/-- `mzero` (R194). -/
def execMzero (g : Guard) (d : AReg) (s : State) : Host.Outcome State Fault Refusal :=
  matOp s g 3 d.toNat .none [] [] 0 0 0 0 0 0
/-- `mld` (R195). -/
def execMld (g : Guard) (d : AReg) (a : SReg) (s : State) : Host.Outcome State Fault Refusal :=
  matOp s g 4 d.toNat .none [a] [] 0 0 a 0 0 0
/-- `mst` (R195). -/
def execMst (g : Guard) (d : AReg) (a : SReg) (s : State) : Host.Outcome State Fault Refusal :=
  matOp s g 5 d.toNat .none [a] [] 0 0 a 0 0 0
/-- `prune` (R196): V[a] as it stands at issue. -/
def execPrune (g : Guard) (d a : VReg) (s : State) : Host.Outcome State Fault Refusal :=
  matOp s g 6 d.toNat .mode [] [d, a] (s.me.rdV a) (s.me.markV a) 0 0 0 0

/-- `ctld` (R197): at issue; entry j of the core's code table from byte j of S[a] and S[a+1]. -/
def execCtld (g : Guard) (a : SReg) (s : State) : Host.Outcome State Fault Refusal :=
  run s { g := g, ss := [a, a + 1] } <| poisonS s [a, a + 1] <| engineRoom s <|
    .done (s.onCore (coreOf s.cur) (fun c => { c with
      table := s.me.rd (a + 1) ++ s.me.rd a, tableOwner := some s.me.rid }))

/-! ### The check (R187) -/

def spadAligned (x : Word) : Bool := spadBase ≤ x.toNat && x.toNat < spadBase + 2 ^ 20 && x.toNat % 64 == 0

/-- The legal metadata nibbles (R182). -/
def metaOk (n : Nat) : Bool := n == 4 || n == 8 || n == 12 || n == 9 || n == 13 || n == 14

/-- The nibble of group g of column j, for the operand at off (R182). -/
def metaNibble (w : BitVec 524288) (off j g : Nat) : Nat := fld w (8 * (off + 2048 + 16 * j) + 4 * g) 4

/-- Tests 4 to 8: the cause and detail of the first that fails. Within test 4 the order is A, scales, B, and within test 8 the
lowest column, then the lowest group (DESIGN CHOICE, log 65: R187 orders the tests and not what is inside one). -/
def matCheck (k : Core) (rid : Nat) (op : MatOp) : Option (Nat × Nat) :=
  let (_, _, size, form) := matShape op.fn op.af op.bf
  if op.fn = 3 || op.fn = 6 then none
  else if !spadAligned op.addr then some (0x20, 0)
  else if op.fn = 4 || op.fn = 5 then none
  else if op.scm ≠ 0 && !spadAligned op.scales then some (0x20, 1)
  else if op.b.toNat % 64 ≠ 0 || 65536 < op.b.toNat + size then some (0x20, 2)
  else if k.owner ≠ some rid then some (0x21, 0)
  else
    let off := op.b.toNat
    match ((List.range (size / 64)).map (off / 64 + ·)).find? (fun b => fld k.form (2 * b) 2 != form) with
    | some b => some (0x22, 64 * b + 2 ^ 16 * fld k.form (2 * b) 2)
    | none =>
      if op.bf = 7 && k.tableOwner ≠ some rid then some (0x23, 0)
      else if op.fn = 1 then
        match ((List.range 1024).map (fun i => (i / 32, i % 32))).find? (fun x => !metaOk (metaNibble k.weight off x.1 x.2)) with
        | some (j, g) =>
          some (0x24, off + 2048 + 16 * j + 4 * (g / 8) + 2 ^ 16 * (g % 8) + 2 ^ 20 * metaNibble k.weight off j g)
        | none => none
      else none

/-- Waits of the check: the strand's `copyw`s (R186), for a scratchpad operand its other copies and its scratchpad stores too
(R189, log 5), a free place of the queue. -/
def matReady (s : State) (sid : Nat) (op : MatOp) : Bool :=
  !s.copywOut sid && (op.fn == 3 || op.fn == 6 || (s.copiesOut sid == 0 && (s.strand sid).spadOut == [])) &&
  (s.core (coreOf sid)).mq.length < 8

/-- MATRIX_ACCEPT (R186-R188): the check passes, the strand goes on; or it takes the trap. A failing test goes before the trap of an
`mst` in a dual run (02 R38; DESIGN CHOICE, log 65). -/
def execMatrixAccept (sid : Nat) (s : State) : Host.Outcome State Fault Refusal :=
  let t := s.strand sid
  match t.wait with
  | .check op =>
    if !matReady s sid op then .next s else
    let k := s.core (coreOf sid)
    match matCheck k t.rid op with
    | some (c, d) => .next (s.takeTrap sid c (BitVec.ofNat 64 d))
    | none =>
      if op.fn = 5 && t.dual.isSome then .next (s.takeTrap sid 0x13 0)
      else
        let s := if op.fn = 5 then s.irrevAct sid else s
        let s := s.onCore (coreOf sid) (fun k => { k with mq := k.mq ++ [{ op := op, sid := sid, taskNo := t.taskNo, table := k.table }] })
        .next (s.onStrand sid (fun t =>
          let t := { t.retire with wait := .no }
          if op.fn = 6 then t.pend (.v (BitVec.ofNat 5 op.d) 0 0 0) else t))
  | _ => .next s

/-! ### Execution (R184, R185, R189-R196) -/

/-- The scratchpad operand of n bytes: its bytes as one number, the marked bytes as a bit mask. -/
def spadOperand (s : State) (tile rid : Nat) (addr : Word) (n : Nat) : Nat × Nat :=
  let segs := ((s.region rid).map (·.segs)).getD []
  let l := (List.range n).map ((s.tile tile).readSpad segs (addr.toNat - spadBase))
  (leNat (l.map (·.1)), (l.map (·.2)).foldr (fun b acc => acc * 2 + b.toNat) 0)

/-- Field of w bits from bit lo of a number. -/
def natFld (x lo w : Nat) : Nat := x / 2 ^ lo % 2 ^ w

/-- An element of a format code as a value; i8 and c4 by the table (04 R73). -/
def matElem (f : BitVec 4) (table : BitVec 128) (x : Nat) : FVal :=
  match f.toNat with
  | 2 => FFmt.f16.decode x
  | 3 => FFmt.bf16.decode x
  | 4 => FFmt.fp8.decode x
  | 5 => FFmt.e5m2.decode x
  | 6 => l6decode x
  | 7 =>
    let v := intOf true 8 (fld table (8 * x) 8)
    .fin (decide (v < 0)) (v.natAbs : ℚ)
  | _ =>
    let v := intOf true 8 x
    .fin (decide (v < 0)) (v.natAbs : ℚ)

/-- The scale operand's bytes (R184). -/
def scaleBytes (scm nb : Nat) : Nat :=
  match scm with
  | 1 => 32 | 2 => 32 | 3 => 64 | 4 => 64 * nb | 5 => 128 | 6 => 128 | 7 => 256 | _ => 0

/-- The places of the row and the column scale of (i, j, k), in elements of the operand (R184). -/
def scalePlaces (scm nb i j k : Nat) : Option Nat × Option Nat :=
  match scm with
  | 1 | 5 => (some i, none)
  | 2 | 6 => (none, some j)
  | 3 | 7 => (some i, some (32 + j))
  | 4 => (some (nb * i + k / 32), some (32 * nb + nb * j + k / 32))
  | _ => (none, none)

/-- A scale: E8M0 for modes 1 to 4 (04 R69), FP32 for 5 to 7; a scale the mode does not provide is 1. -/
def scaleVal (scm data : Nat) : Option Nat → FVal
  | none => .fin false 1
  | some i =>
    if scm ≤ 4 then
      let e := natFld data (8 * i) 8
      if e = 255 then .nan else .fin false (dyadic 1 ((e : Int) - 127))
    else FFmt.f32.decode (natFld data (32 * i) 32)

def scaleMark (scm marks : Nat) : Option Nat → Bool
  | none => false
  | some i => if scm ≤ 4 then natFld marks i 1 != 0 else natFld marks (4 * i) 4 != 0

/-- The stored element of B for k of column j: its byte offset from S[b] and its bits; none for a pruned k (R181, R182). -/
def bElem (op : MatOp) (w : BitVec 524288) (j k : Nat) : Option (Nat × Nat) :=
  let off := op.b.toNat
  match op.fn with
  | 1 =>
    let n := metaNibble w off j (k / 4)
    let at' : Nat → Option (Nat × Nat) := fun v =>
      let o := 64 * j + 2 * (k / 4) + v
      some (o, fld w (8 * (off + o)) 8)
    if n % 4 = k % 4 then at' 0 else if n / 4 = k % 4 then at' 1 else none
  | 2 => some (128 * j + k, fld w (8 * (off + 128 * j + k)) 8)
  | _ =>
    if op.bf = 7 then some (32 * j + k / 2, fld w (8 * (off + 32 * j) + 4 * k) 4)
    else if op.af = 2 || op.af = 3 then some (64 * j + 2 * k, fld w (8 * (off + 64 * j + 2 * k)) 16)
    else some (64 * j + k, fld w (8 * (off + 64 * j + k)) 8)

/-- One term of an output: its value and whether a poisoned source reaches it (R190). -/
def matTerm (op : MatOp) (k : Core) (table : BitVec 128) (kk asz : Nat) (a am sc scMark i j q : Nat) : Option (FVal × Bool) :=
  match bElem op k.weight j q with
  | none => none
  | some (o, y) =>
    let p := (kk * i + q) * asz
    let x := natFld a (8 * p) (8 * asz)
    let (r, c) := scalePlaces op.scm (kk / 32) i j q
    let prod := if op.fn = 2 then l6mul x y else (matElem op.af table x).mul (matElem op.bf table y)
    some (prod.mul ((scaleVal op.scm sc r).mul (scaleVal op.scm sc c)),
      natFld am p asz != 0 || bitOf k.wPoison ((op.b.toNat + o) / 64) || scaleMark op.scm scMark r || scaleMark op.scm scMark c)

/-- One enabled output from the old element and its mark (04 R74-R76). -/
def matOut (op : MatOp) (terms : List (FVal × Bool)) (c : BitVec 32) (cm : Bool) : BitVec 32 × Bool :=
  let mark := terms.any (·.2) || (!op.z && cm)
  if op.af = 8 then
    let sum := (terms.foldl (fun acc x => acc + x.1.rat) (0 : ℚ)).num
    (BitVec.ofInt 32 ((if op.z then 0 else c.toInt) + sum), mark)
  else
    let cv : FVal := if op.z then .fin false 0 else FFmt.f32.decode c.toNat
    (BitVec.ofNat 32 (FFmt.f32.ofVal .rne (sumVals (cv :: terms.map (·.1)))), mark)

/-- A multiply on an accumulator and its marks (R185, R192, R193). -/
def matMul (s : State) (x : Accepted) (acc : BitVec 32768) (marks : BitVec 1024) : BitVec 32768 × BitVec 1024 :=
  let op := x.op
  let k := s.core (coreOf x.sid)
  let rid := (s.strand x.sid).rid
  let (kk, asz, _, _) := matShape op.fn op.af op.bf
  let (a, am) := spadOperand s (tileOf x.sid) rid op.addr (32 * kk * asz)
  let (sc, scMark) := if op.scm = 0 then (0, 0) else spadOperand s (tileOf x.sid) rid op.scales (scaleBytes op.scm (kk / 32))
  let cells := (List.range 1024).map (fun e =>
    let i := e / 32
    let j := e % 32
    let c : BitVec 32 := bits acc (32 * e) 32
    if bitOf op.mask i && bitOf op.mask (32 + j) then
      matOut op ((List.range kk).filterMap (matTerm op k x.table kk asz a am sc scMark i j)) c (bitOf marks e)
    else if op.z then (0, false) else (c, bitOf marks e))
  (BitVec.ofNat 32768 (cells.foldr (fun y n => n * 2 ^ 32 + y.1.toNat) 0),
   BitVec.ofNat 1024 (cells.foldr (fun y n => n * 2 + y.2.toNat) 0))

/-- The elements that a multiply reads as C (R190). -/
def readAsC (op : MatOp) : BitVec 1024 :=
  if op.z then 0
  else BitVec.ofNat 1024 ((List.range 1024).foldr (fun e n =>
    n * 2 + (bitOf op.mask (e / 32) && bitOf op.mask (32 + e % 32)).toNat) 0)

/-- A multiply: an element read as C with a parity error marks its output and is counted; every element written is sound
again (R190). -/
def State.multiply (s : State) (x : Accepted) : State :=
  let t := s.strand x.sid
  let d : AReg := BitVec.ofNat 2 x.op.d
  let m := t.aMark[x.op.d % 4]'(Nat.mod_lt _ (by decide))
  if t.errA d = 0 then
    let (a, m) := matMul s x (t.rdA d) m
    s.setStrand x.sid (t.wrA d a m)
  else
    let hit := t.errA d &&& readAsC x.op
    let left := if x.op.z then 0 else t.errA d &&& ~~~ readAsC x.op
    let (a, m) := matMul s x (t.rdA d) (m ||| hit)
    (List.range ((List.range 1024).countP (bitOf hit))).foldl (fun s _ => s.countUe (dieOf x.sid))
      (s.setStrand x.sid ((t.wrA d a m).setErrA d left))

/-- The magnitude order of `prune` (R196): NaN above every number; true when x comes before y, the lower index at a tie, of two NaNs
too (DESIGN CHOICE, log 79). -/
def pruneBefore (f : FFmt) (x y : Nat × Nat) : Bool :=
  match f.decode x.2, f.decode y.2 with
  | .nan, .nan => x.1 < y.1
  | .nan, _ => true
  | _, .nan => false
  | .inf _, .inf _ => x.1 < y.1
  | .inf _, _ => true
  | _, .inf _ => false
  | .fin _ a, .fin _ b => decide (b < a) || (decide (a = b) && x.1 < y.1)

/-- The two kept indices of a group, rising. -/
def pruneKeep (f : FFmt) (e : List Nat) : Nat × Nat :=
  let l := (List.range 4).zip e
  let first := l.foldl (fun m y => if pruneBefore f y m then y else m) (0, (e[0]?).getD 0)
  let rest := l.filter (fun y => y.1 != first.1)
  let second := rest.foldl (fun m y => if pruneBefore f y m then y else m) ((rest[0]?).getD (0, 0))
  (min first.1 second.1, max first.1 second.1)

/-- The result of `prune` and its marks (R196). -/
def pruneVec (f : FFmt) (v : Vec) (m : BitVec 8) : Vec × BitVec 8 :=
  let groups := (List.range 16).map (fun g =>
    let e := (List.range 4).map (fun i => fld v (8 * (4 * g + i)) 8)
    let (i0, i1) := pruneKeep f e
    ((e[i0]?).getD 0, (e[i1]?).getD 0, i0 + 4 * i1))
  let vals := groups.foldr (fun x n => n * 65536 + x.1 + 256 * x.2.1) 0
  let nibs := groups.foldr (fun x n => n * 16 + x.2.2) 0
  let marks : BitVec 8 := (List.range 16).foldl (fun acc g =>
    if bitOf m (g / 2) then setBit (setBit acc (g / 4) true) 4 true else acc) 0
  (BitVec.ofNat 512 (vals + 2 ^ 256 * nibs), marks)

/-- What an accepted instruction does when it completes. -/
def State.matrixDo (s : State) (x : Accepted) : State :=
  let t := s.strand x.sid
  let op := x.op
  let d : AReg := BitVec.ofNat 2 op.d
  match op.fn with
  | 3 => s.setStrand x.sid (t.wrA d 0 0)
  | 4 =>
    let (a, m) := spadOperand s (tileOf x.sid) t.rid op.addr 4096
    let marks := (List.range 1024).foldr (fun e n => n * 2 + (natFld m (4 * e) 4 != 0).toNat) 0
    s.setStrand x.sid (t.wrA d (BitVec.ofNat 32768 a) (BitVec.ofNat 1024 marks))
  | 5 =>
    let segs := ((s.region t.rid).map (·.segs)).getD []
    let a := t.rdA d
    let m := t.aMark[op.d % 4]'(Nat.mod_lt _ (by decide))
    s.onTile (tileOf x.sid) (fun y => y.writeSpad segs (op.addr.toNat - spadBase)
      ((List.range 4096).map (fun i => (i, byteAt a i, bitOf m (i / 4)))))
  | 6 =>
    let (v, m) := pruneVec (if op.af = 5 then FFmt.e5m2 else FFmt.fp8) op.src op.srcMarks
    s.setStrand x.sid (t.apply (.v (BitVec.ofNat 5 op.d) v (BitVec.allOnes 64) m))
  | _ => s.multiply x

/-- MATRIX_COMPLETE (R186): the core's unit completes the oldest accepted instruction. -/
def execMatrixComplete (core : Nat) (s : State) : Host.Outcome State Fault Refusal :=
  match (s.core core).mq with
  | [] => .next s
  | x :: r =>
    let s := s.onCore core (fun k => { k with mq := r })
    if s.mine x.sid x.sid x.taskNo then .next ((s.matrixDo x).wake x.sid) else .next s

/-- CORE_RESET (R179, 04 R73): weight buffer and code table are zeroed and untagged; the poison of the blocks ends (DESIGN CHOICE,
log 78). -/
def Core.wipe (k : Core) : Core :=
  { k with weight := 0, form := 0, wPoison := 0, owner := none, table := 0, tableOwner := none }

def execCoreReset (core : Nat) (s : State) : Host.Outcome State Fault Refusal := .next (s.onCore core Core.wipe)

end Sys2Proof.Machine
end

