-- ==== Sys2Proof/Machine/Pacer.lean ====
section
/-! DEFINITION. Pacer stream arithmetic (12). -/

namespace Sys2Proof.Machine

/-! ### Generators (R238) -/

def lfsrStep (taps s : Nat) : Nat := if 2048 ≤ s then (2 * s) % 4096 ^^^ taps else 2 * s % 4096

/-- TAPS and SEED of g0 to g7. -/
def lfsrTaps (c : Nat) : Nat := if c < 4 then 0x053 else 0x941
def lfsrSeed (c : Nat) : Nat := ([0x001, 0x2C7, 0x9A3, 0xE5D, 0x001, 0x3B1, 0x86F, 0xD14][c]?).getD 0
/-- X(c) of g8 to g15. -/
def revXor (c : Nat) : Nat := ([0x000, 0x801, 0x40A, 0xC93, 0x25C, 0xA6F, 0x6F4, 0xE3B][c]?).getD 0

def rev12 (x : Nat) : Nat := (List.range 12).foldl (fun acc i => 2 * acc + x / 2 ^ i % 2) 0

def lfsrSeq (taps : Nat) : Nat → Nat → List Nat
  | 0, _ => []
  | n + 1, s => s :: lfsrSeq taps n (lfsrStep taps s)

/-- g(c, 0) ... g(c, 4095). -/
def genSeq (c : Nat) : List Nat :=
  if c < 8 then 0 :: lfsrSeq (lfsrTaps c) 4095 (lfsrSeed c)
  else (List.range 4096).map (fun x => rev12 x ^^^ revXor (c - 8))

/-- L of a lap code (R237). -/
def lapLen (lap : BitVec 2) : Nat := if lap = 0 then 256 else if lap = 1 then 1024 else 4096

/-- The bits of the stream that encodes q (R239). -/
def genBits (c p len q : Nat) : BitVec 4096 :=
  let l := genSeq c
  let l := ((l.drop p) ++ (l.take p)).take len
  BitVec.ofNat 4096 (l.foldr (fun g acc => 2 * acc + (if g < q then 1 else 0)) 0)

/-! ### Tags and checks (R240-R242) -/

def Stream.len (k : Stream) : Nat := lapLen k.lap
def Stream.ones (k : Stream) (n : Nat) : Nat := popFrom k.bits n
def lapMask (lap : BitVec 2) : BitVec 4096 := BitVec.ofNat 4096 (2 ^ lapLen lap - 1)

/-- Exactly one MASK bit and MIX 0 (R237). -/
def Stream.simple (k : Stream) : Bool := popCount k.mask == 1 && !k.mix

/-- R241 for `sand` and `sxnor`. -/
def mayCombine (a b : Stream) : Bool :=
  a.mask &&& b.mask == 0 ||
  (a.simple && b.simple && a.mask == b.mask && a.mask.toNat < 256 && a.phase != b.phase)

/-- A control word (R244): class, lap, BIP, phase; none when it is invalid. -/
def ctlWord (x : Word) : Option (Nat × BitVec 2 × Bool × BitVec 12) :=
  if fld x 32 32 = 0 && fld x 7 13 = 0 && fld x 4 2 != 3 then
    some (fld x 0 4, bits x 4 2, bitOf x 6, bits x 20 12)
  else none

/-- The simple stream of a class (R239, R240). -/
def makeStream (c : Nat) (lap : BitVec 2) (phase : BitVec 12) (q : Nat) : Stream :=
  { lap := lap, bits := genBits c phase.toNat (lapLen lap) q, mask := BitVec.twoPow 16 c, phase := phase, mix := false }

/-- Reads full source streams in order; the first empty one traps (R242 test 4). -/
def fullStream (s : State) (r : KReg) (k : Stream → Act) : Act :=
  match s.me.rdK r with
  | some x => k x
  | none => .trap s 0x30 (BitVec.ofNat 64 r.toNat)

def lapTrap (s : State) (a b n : BitVec 2) : Act := .trap s 0x31 (BitVec.ofNat 64 (a.toNat + 4 * b.toNat + 16 * n.toNat))

def writeK (s : State) (d : KReg) (x : Stream) (m : Bool) : Act := .done (s.onMe (fun t => t.wrK d (some x) m))

/-- The tag of a combination (R240): MASK joined, PHASE and LAP of a, MIX set. -/
def combined (a : Stream) (mask : BitVec 16) (f : BitVec 4096) : Stream :=
  { lap := a.lap, bits := f &&& lapMask a.lap, mask := mask, phase := a.phase, mix := true }

def combine (s : State) (g : Guard) (d a b : KReg) (check : Bool) (f : BitVec 4096 → BitVec 4096 → BitVec 4096) : Host.Outcome State Fault Refusal :=
  run s { g := g, ks := [d, a, b] } <|
    fullStream s a fun x => fullStream s b fun y =>
      if x.lap ≠ y.lap then lapTrap s x.lap y.lap 0
      else if check && !mayCombine x y then .trap s 0x32 ((x.mask &&& y.mask).zeroExtend 64)
      else writeK s d (combined x (x.mask ||| y.mask) (f x.bits y.bits)) (s.me.markK a || s.me.markK b)

/-! ### Instructions -/

/-- `sgen` (R245). -/
def execSgen (g : Guard) (d : KReg) (a b : SReg) (s : State) : Host.Outcome State Fault Refusal :=
  run s { g := g, ss := [a, b], ks := [d] } <| poisonS s [b] <|
    match ctlWord (s.me.rd b) with
    | none => .trap s 0x33 ((bits (s.me.rd b) 0 32).zeroExtend 64)
    | some (c, lap, bip, phase) =>
      let v := (s.me.rd a).toInt
      let q : Nat := if bip then ((min (max v (-4096)) 4096 + 4096) / 2).toNat else (min (max v 0) 4096).toNat
      writeK s d (makeStream c lap phase q) (s.me.markS a)

/-- `sand` (R246). -/
def execSand (g : Guard) (d a b : KReg) (s : State) : Host.Outcome State Fault Refusal := combine s g d a b true (fun x y => x &&& y)
/-- `sxnor` (R246). -/
def execSxnor (g : Guard) (d a b : KReg) (s : State) : Host.Outcome State Fault Refusal := combine s g d a b true (fun x y => ~~~ (x ^^^ y))
/-- `sor` (R246): no check of the masks. -/
def execSor (g : Guard) (d a b : KReg) (s : State) : Host.Outcome State Fault Refusal := combine s g d a b false (fun x y => x ||| y)

/-- `snot` (R246). -/
def execSnot (g : Guard) (d a : KReg) (s : State) : Host.Outcome State Fault Refusal :=
  run s { g := g, ks := [d, a] } <|
    fullStream s a fun x => writeK s d { x with bits := ~~~ x.bits &&& lapMask x.lap } (s.me.markK a)

/-- `smux` (R246): b where the select stream is 1. -/
def execSmux (g : Guard) (d a b n : KReg) (s : State) : Host.Outcome State Fault Refusal :=
  run s { g := g, ks := [d, a, b, n] } <|
    fullStream s a fun x => fullStream s b fun y => fullStream s n fun z =>
      if x.lap ≠ y.lap ∨ x.lap ≠ z.lap then lapTrap s x.lap y.lap z.lap
      else if z.mask &&& (x.mask ||| y.mask) ≠ 0 then
        .trap s 0x32 (((z.mask &&& (x.mask ||| y.mask)).zeroExtend 64) ||| 0x10000)
      else writeK s d (combined x (x.mask ||| y.mask ||| z.mask) ((y.bits &&& z.bits) ||| (x.bits &&& ~~~ z.bits)))
        (s.me.markK a || s.me.markK b || s.me.markK n)

/-- `sdelay` (R247). -/
def execSdelay (g : Guard) (d a : KReg) (b : SReg) (s : State) : Host.Outcome State Fault Refusal :=
  run s { g := g, ks := [d, a], ss := [b] } <| poisonS s [b] <|
    fullStream s a fun x =>
      let n := (s.me.rd b).toNat % x.len
      let bits := (x.bits >>> n) ||| ((x.bits <<< (x.len - n)) &&& lapMask x.lap)
      writeK s d { x with bits := bits, phase := x.phase + BitVec.ofNat 12 n } (s.me.markK a)

/-- `scnt` (R248). -/
def execScnt (g : Guard) (d : SReg) (a : KReg) (s : State) : Host.Outcome State Fault Refusal :=
  run s { g := g, ks := [a], ss := [d] } <|
    fullStream s a fun x => .done (s.onMe (fun t => t.wr d (BitVec.ofNat 64 (x.ones x.len)) (t.markK a)))

/-- `scntp` (R248). -/
def execScntp (g : Guard) (d : SReg) (a : KReg) (b : SReg) (s : State) : Host.Outcome State Fault Refusal :=
  run s { g := g, ks := [a], ss := [d, b] } <| poisonS s [b] <|
    fullStream s a fun x =>
      .done (s.onMe (fun t => t.wr d (BitVec.ofNat 64 (x.ones (min (t.rd b).toNat x.len))) (t.markK a)))

/-- `scvt` (R251): always RNE. -/
def execScvt (g : Guard) (d a b : SReg) (s : State) : Host.Outcome State Fault Refusal :=
  run s { g := g, ss := [d, a, b] } <| poisonS s [b] <|
    .done (s.onMe (fun t =>
      let c := (t.rd a).toNat
      let n := fld (t.rd b) 0 13
      let r := if n = 0 || 4096 < n || n < c then FFmt.f32.nan
        else if bitOf (t.rd b) 16 then FFmt.f32.round .rne false (((2 * c : ℚ) - n) / n)
        else FFmt.f32.round .rne false ((c : ℚ) / n)
      t.wr d (BitVec.ofNat 64 r) (t.markS a)))

/-- `sregen` (R252). -/
def execSregen (g : Guard) (d a : KReg) (b : SReg) (s : State) : Host.Outcome State Fault Refusal :=
  run s { g := g, ks := [d, a], ss := [b] } <| poisonS s [b] <|
    fullStream s a fun x =>
      match ctlWord (s.me.rd b) with
      | none => .trap s 0x33 ((bits (s.me.rd b) 0 32).zeroExtend 64)
      | some (c, lap, _, phase) => writeK s d (makeStream c lap phase (x.ones x.len * (4096 / x.len))) (s.me.markK a)

/-! ### Images (R249, R250) -/

/-- The tag word of a register. -/
def tagWord : Option Stream → Nat
  | none => 0
  | some k => 2 ^ 31 + k.lap.toNat * 2 ^ 29 + k.mix.toNat * 2 ^ 28 + k.phase.toNat * 2 ^ 16 + k.mask.toNat

def streamImage (k : Option Stream) : List Byte :=
  natBytes (tagWord k) 64 ++ (match k with
    | none => []
    | some k => bytesOf k.bits (k.len / 8))

/-- The header of an image is valid (R249). -/
def headerOk (tag rest : Nat) : Bool :=
  tag / 2 ^ 32 == 0 && rest == 0 && tag / 2 ^ 29 % 4 != 3 &&
  (if tag / 2 ^ 31 % 2 = 1 then tag % 2 ^ 16 != 0 else tag % 2 ^ 31 == 0)

def streamOf (tag : Nat) (bits : List Byte) : Stream :=
  { lap := BitVec.ofNat 2 (tag / 2 ^ 29), bits := BitVec.ofNat 4096 (leNat bits), mask := BitVec.ofNat 16 tag
    phase := BitVec.ofNat 12 (tag / 2 ^ 16), mix := tag / 2 ^ 28 % 2 == 1 }

/-- The address of an image: in the scratchpad window, 64-byte aligned (R250). -/
def imageAddr (s : State) (a : SReg) (k : Act) : Act :=
  let x := (s.me.rd a).toNat
  if !(spadBase ≤ x && x < spadBase + 2 ^ 20) then .trap s 0x34 0
  else if x % 64 ≠ 0 then .trap s 0x34 1 else k

/-- `sld` (R250): counts as a load; K[d] is pending until it completes. -/
def execSld (g : Guard) (d : KReg) (a : SReg) (s : State) : Host.Outcome State Fault Refusal :=
  run s { g := g, ks := [d], ss := [a] } <| poisonS s [a] <| imageAddr s a <| memRoom s <|
    loadBytes s (s.me.rd a) (List.range 64) .plain fun s h _ =>
      let tag := leNat ((h.take 8).map (·.1))
      if !headerOk tag (leNat ((h.drop 8).map (·.1))) then .trap s 0x35 (BitVec.ofNat 64 (tag % 2 ^ 32))
      else if tag = 0 then .done (s.addLoad [.k d none (anyMark h)])
      else
        let n := lapLen (BitVec.ofNat 2 (tag / 2 ^ 29)) / 8
        loadBytes s (s.me.rd a) (List.range (64 + n)) .plain fun s b _ =>
          .done (s.addLoad [.k d (some (streamOf tag ((b.drop 64).map (·.1)))) (anyMark b)])

/-- `sst` (R250): a scratchpad store, irrevocable; the only reader of an empty register. -/
def execSst (g : Guard) (d : KReg) (a : SReg) (s : State) : Host.Outcome State Fault Refusal :=
  run s { g := g, ks := [d], ss := [a] } <| poisonS s [a] <| imageAddr s a <| memRoom s <|
    let l := streamImage (s.me.rdK d)
    storeBytes s (s.me.rd a) ((List.range l.length).zip (l.map (fun b => (b, s.me.markK d)))) none .done

end Sys2Proof.Machine
end

