-- ==== Sys2Proof/Machine/System.lean ====
section
/-! DEFINITION. System words (06 R134, 19 R278-R281, 20 R303, R304, 22 R332, R333, R335) and `swr` (06 R133, 19 R279,
R280, 20 R294, R301, R309). -/

namespace Sys2Proof.Machine

/-- `trap` (R134): the user-trap of the region's handler. -/
def execTrap (imm : BitVec 10) (s : State) : Host.Outcome State Fault Refusal :=
  run s {} (.trap s 3 (imm.zeroExtend 64))

/-- The default block's handler (19 R278, R283). -/
def State.runtime (s : State) : Word :=
  (((s.partition (s.pidOfRegion s.me.rid)).bind (fun p => s.region p.root)).map (·.fhandler)).getD 0

/-- `syscall` (R134, 19 R283): without a handler of the default block an illegal instruction, tested first; in supervisor
mode a double fault; else a privileged access, then that handler. -/
def execSyscall (imm : BitVec 10) (s : State) : Host.Outcome State Fault Refusal :=
  run s {} <|
    if s.runtime = 0 then .trap s 1 0
    else if s.me.super then .trap s 4 (imm.zeroExtend 64)
    else irrevocable s fun s => .gone (s.onMe (fun t => t.enter 4 (imm.zeroExtend 64) s.runtime))

/-- `rfe` (19 R281). -/
def execRfe (s : State) : Host.Outcome State Fault Refusal :=
  run s { priv := true } <|
    if !s.me.trapped then .trap s 1 0 else .gone (s.onMe Strand.leave)

/-! ### Translations and pages (20 R303, R304) -/

/-- A page is named by a `tlbinv`: kind 0 all, 1 the page at a, 2 b bytes from a. -/
def pageNamed (kind : BitVec 2) (a b : Nat) (base size : Nat) : Bool :=
  if kind = 0 then true
  else if kind = 1 then base ≤ a && a < base + 2 ^ size
  else b != 0 && base < a + b && a < base + 2 ^ size

/-- Every translation cache of the partition drops what `f` names. -/
def State.dropTlbs (s : State) (pid : Nat) (f : Nat → Nat → Bool) : State :=
  let keep : List Tlb → List Tlb := fun l => l.filter (fun t => t.pid != pid || !f t.base t.size)
  { s with
    cores := s.cores.map (fun x => (x.1, { x.2 with tlb := keep x.2.tlb }))
    tiles := s.tiles.map (fun x => (x.1, { x.2 with tlb := keep x.2.tlb, relayTlb := keep x.2.relayTlb }))
    dies := s.dies.map (fun x => (x.1, { x.2 with buildTlb := keep x.2.buildTlb, encTlb := keep x.2.encTlb })) }

/-- Aborts every restartable task of the partition that holds a buffered store of a named page (R304). -/
def State.dropStores (s : State) (pid : Nat) (f : Nat → Nat → Bool) : State :=
  (s.strands.map (·.1)).foldl (fun s i =>
    let t := s.strand i
    if t.task.isSome && t.restartable && s.pidOfRegion t.rid = pid &&
      t.buf.any (fun u => f (u.va / 2 ^ u.size * 2 ^ u.size) u.size) then s.abort i none false
    else s) s

/-- An access through a named page is translated and not yet performed: a unit of an irrevocable task in its store buffer, or
an operation on its way home, whether or not its task has ended; an `xmerge` with the page of its second slot while that is
unread. -/
def usesPage (s : State) (pid : Nat) (f : Nat → Nat → Bool) : Bool :=
  let named : Nat → Nat → Bool := fun va size => f (va / 2 ^ size * 2 ^ size) size
  s.strands.any (fun x => x.2.task.isSome && !x.2.restartable && s.pidOfRegion x.2.rid == pid &&
    x.2.buf.any (fun u => named u.va u.size)) ||
  s.homeQ.any (fun h => h.pid == pid && (named h.va h.size || (h.also.map (fun y => named y.1 y.2)).getD false))

/-- `tlbinv` (R304): the strand's own stores and atomics are performed first; the translations are dropped; it completes when
no access through a dropped one is still to be performed. -/
def execTlbinv (a b : SReg) (kind : BitVec 2) (s : State) : Host.Outcome State Fault Refusal :=
  run s { priv := true, ss := [a, b] } <| poisonS s (if kind = 0 then [] else [a, b]) <|
    if s.homeBusy s.cur || 0 < s.storesOut s.cur then .stall s else
    let t := s.me
    let pid := s.pidOfRegion t.rid
    let f := pageNamed kind (t.rd a).toNat (t.rd b).toNat
    let s := (s.dropTlbs pid f).dropStores pid f
    if s.me.taskNo ≠ t.taskNo then .gone s
    else if usesPage s pid f then .stall s
    else .done (s.acquire s.cur 3)

/-- Everything of a region that waits for a page tries again (R303). -/
def State.replayRegion (s : State) (rid : Nat) : State :=
  let free : Strand → Strand := fun t => if t.wait = .parked then { t with wait := .no } else t
  let s : State := { s with strands := s.strands.map (fun x =>
    (x.1, if x.2.rid = rid && x.2.task.isSome then free x.2 else x.2)) }
  let onTrav : Option Nat → Bool := fun o => match o.bind s.trav with
    | some tr => tr.rid == rid
    | none => false
  let s := s.eachTile (fun _ t => { t with
    copies := t.copies.map (fun c => if c.rid = rid then { c with parked := false } else c)
    relay := if onTrav t.relay.trav || (t.relay.trav.isNone && (t.relay.cmds.head?.map (·.rid)) == some rid) then
      { t.relay with parked := false } else t.relay })
  let s := s.eachDie (fun _ d => { d with
    builds := d.builds.map (fun c => if c.rid = rid then { c with parked := false } else c)
    encCmds := d.encCmds.map (fun c => if c.rid = rid then { c with parked := false } else c) })
  let s : State := { s with launches := s.launches.map (fun c => if c.rid = rid then { c with parked := false } else c) }
  s.onRegion rid (fun r => { r with
    requeue := r.requeue.map (fun w => { w with page := false })
    faults := r.faults.map (fun w => { w with page := false })
    saveParked := false
    strandsSaved := r.strandsSaved.map (fun x => (x.1, free x.2))
    copiesSaved := r.copiesSaved.map (fun x => (x.1, { x.2 with parked := false }))
    relaySaved := r.relaySaved.map (fun x => (x.1, { x.2 with parked := false })) })

/-- `replay` (R303): the whole partition from a task of its default block, else a region at or below the issuing one. -/
def execReplay (a : SReg) (s : State) : Host.Outcome State Fault Refusal :=
  run s { priv := true, ss := [a] } <| poisonS s [a] <|
    if s.homeBusy s.cur || s.putsOut s.cur || 0 < s.storesOut s.cur then .stall s else
    let t := s.me
    let pid := s.pidOfRegion t.rid
    let set : Option (List Nat) :=
      if t.rd a = 0 then
        if (s.partition pid).map (·.root) = some t.rid then some ((s.regions.filter (fun x => x.2.pid == pid)).map (·.1))
        else none
      else match s.regionOfBlock pid (t.rd a) with
        | some (rid, _) =>
          if s.descends rid t.rid then some ((s.regions.filter (fun x => s.descends x.1 rid)).map (·.1)) else none
        | none => none
    match set with
    | none => .done (s.onMe (fun t => { t with regstat := 1 }))
    | some l => .done ((l.foldl State.replayRegion s).onMe (fun t => { t with regstat := 0 }))

/-! ### Phases (19 R282, 22 R330, R333; 03 R62) -/

/-- One entry of a write-owner table: none when its size is 0; refused with a reserved value (03 R62). A base or a size that
is not a multiple of 64 and a base past the global window count as reserved values, in an entry of size 0 too (DESIGN CHOICE,
log 63). -/
def woEntry (l : List Byte) : Except Unit (Option WoEntry) :=
  let base := fieldAt l 0 8
  let size := fieldAt l 8 8
  let fl := fieldAt l 18 1
  if base % 64 ≠ 0 || 2 ^ 56 ≤ base || size % 64 ≠ 0 || 5 < fieldAt l 16 1 || 1 < fl || fieldAt l 19 13 ≠ 0 then .error ()
  else if size = 0 then .ok none
  else .ok (some { base := base, size := size, owner := fieldAt l 16 1, phase := fieldAt l 17 1, allph := fl == 1 })

/-- The write-owner table takes effect (03 R62): ignored entries are counted. A table that does not translate leaves the
entries as they are (DESIGN CHOICE, log 57: the spec does not say). -/
def State.applyOwners (s : State) (rid : Nat) : State :=
  match s.region rid with
  | none => s
  | some r =>
    if r.wotab = 0 then s.onRegion rid (fun r => { r with wo := [] }) else
    match s.readVirt .hw r.pid (some rid) true r.wotab.toNat 512 with
    | (s, .error _) => s
    | (s, .ok l) =>
      let es := (List.range 16).map (fun i => woEntry (((l.map (·.1)).drop (32 * i)).take 32))
      let good := es.filterMap (fun e => match e with
        | .ok x => x
        | .error _ => none)
      let bad := es.countP (fun e => match e with
        | .ok _ => false
        | .error _ => true)
      (List.range bad).foldl (fun s _ => s.count rid 6) (s.onRegion rid (fun r => { r with wo := good }))

/-- KPHASE in a region and in its block. -/
def State.putKphase (s : State) (rid : Nat) (k : BitVec 32) : State :=
  (s.onRegion rid (fun r => { r with kphase := k })).blockOut rid 16 4

/-- A new phase begins under KPHASE (R333). -/
def State.beginPhase (s : State) (rid : Nat) (k : BitVec 32) : State :=
  ((s.putKphase rid k).applyOwners rid).applyPoint rid

/-- KPHASE takes a new value (19 R282): a changed value ends the phase, a changed marker begins one. -/
def State.setKphase (s : State) (rid : Nat) (k : BitVec 32) : State :=
  match s.region rid with
  | none => s
  | some r =>
    if r.kphase = k then s
    else if fld r.kphase 24 8 = fld k 24 8 then (s.phaseEnd rid).putKphase rid k
    else (s.phaseEnd rid).beginPhase rid k

/-- `opmark` (22 R333): the strand's atomics and scratchpad stores are performed first, its buffered stores with the privileged access. -/
def execOpmark (a : SReg) (kind : BitVec 10) (s : State) : Host.Outcome State Fault Refusal :=
  run s { priv := true, ss := [a] } <| poisonS s [a] <|
    let x := s.me.rd a
    if fld x 8 56 ≠ 0 then .trap s 1 0
    else if s.homeBusy s.cur || s.me.spadOut != [] then .stall s
    else irrevocable s fun s =>
      let rid := s.me.rid
      match s.region rid with
      | none => .done s
      | some r =>
        if kind = 0 then
          .done ((s.phaseEnd rid).beginPhase rid (setBits r.kphase 24 8 (fld x 0 8)))
        else .done { s with ops := s.ops.filter (fun o =>
          !(o.pid == r.pid && o.kernel == fld r.kphase 0 24 && o.phase == fld x 0 8)) }

/-! ### Sprint leases and idle tolerance (22 R331, R332, R335) -/

/-- The cores a region has on each of its dies: 4 for each tile. -/
def coresByDie (tiles : List Nat) : List (Nat × Nat) :=
  (tiles.map dieOfTile |>.foldl addNum []).map (fun d => (d, 4 * tiles.countP (fun t => dieOfTile t == d)))

/-- The slots wanted are free on every die (R332). -/
def State.slotsFree (s : State) (l : List (Nat × Nat)) : Bool :=
  l.all (fun x => x.2 + (s.die x.1).sprintUsed ≤ s.config.sprintSlots)

def State.claimSlots (s : State) (rid span : Nat) (l : List (Nat × Nat)) : State :=
  (l.foldl (fun s x => s.onDie x.1 (fun d => { d with sprintUsed := d.sprintUsed + x.2 })) s).onRegion rid
    (fun r => { r with leaseActive := true, leaseLeft := span, leaseSlots := l })

/-- `lease` (R332): kind 0 request, 1 release, 2 query. In a dual-run region it takes the trap of 02 R38, from a fault-record
task too, which does not run dual itself. -/
def execLease (a d : SReg) (kind : BitVec 10) (s : State) : Host.Outcome State Fault Refusal :=
  run s { priv := true, ss := [a, d] } <| poisonS s (if kind = 2 then [] else [a]) <|
    irrevocable s fun s =>
      let rid := s.me.rid
      match s.region rid with
      | none => .done s
      | some r =>
        let set : State → Nat → Act := fun s n =>
          .done ((s.mirror rid).onMe (fun t => t.wr d (BitVec.ofNat 64 n) false))
        if r.dual then .trap s 0x13 0
        else if kind = 0 then
          let span := min (s.me.rd a).toNat s.config.sprintMax
          let l := coresByDie r.tiles
          if r.leaseActive then set (s.onRegion rid (fun r => { r with leaseLeft := span })) span
          else if 0 < span && s.slotsFree l then set ((s.claimSlots rid span l).applyPoint rid) span
          else set s 0
        else if kind = 1 then set (s.dropLease rid) 0
        else set s r.leaseLeft

/-- `idle` (R335): all ones means none. -/
def execIdle (a : SReg) (s : State) : Host.Outcome State Fault Refusal :=
  run s { priv := true, ss := [a] } <| poisonS s [a] <|
    irrevocable s fun s =>
      let x := s.me.rd a
      .done (s.onRegion s.me.rid (fun r => { r with tolerance := if x = BitVec.allOnes 64 then none else some x.toNat }))

/-! ### FATE (19 R280) -/

/-- FATE 1: a restartable task is aborted and requeued, an irrevocable one ends. FATE 2: the trapped task ends. Both
concern a trapped task only, and without one they are ignored (DESIGN CHOICE, log 67). FATE 3: the region is killed. Other
values are ignored. -/
def fate (s : State) (v : Nat) : Act :=
  let t := s.me
  if v = 3 then .gone (s.kill t.rid)
  else if (v = 1 || v = 2) && t.trapped then
    if v = 1 && t.restartable then .gone (s.abort s.cur none false)
    else .gone ((s.noVerdict s.cur).discard s.cur)
  else .done s

/-- A FATE effect as a step of its own acts on a strand in supervisor mode, its `swr` retired with it. -/
def fateStep (s : State) (v : Nat) : Host.Outcome State Fault Refusal :=
  if s.me.super && s.me.task.isSome then finish (fate s v) else .next s

/-- FATE := 1 (R280). -/
def execFateRequeue (s : State) : Host.Outcome State Fault Refusal := fateStep s 1
/-- FATE := 2 (R280). -/
def execFateEnd (s : State) : Host.Outcome State Fault Refusal := fateStep s 2
/-- FATE := 3 (R280). -/
def execFateKill (s : State) : Host.Outcome State Fault Refusal := fateStep s 3

/-! ### `swr` (06 R133) -/

/-- Selectors that may be written by `swr` itself: EPC, KSCRATCH, FATE, PRQBASE. The other writable ones have
constructors of their own. -/
def writableSel (sel : Nat) : Bool := sel == 0x400 || sel == 0x405 || sel == 0x406 || sel == 0x431

/-- `swr` (R133, 05 R92): a read-only selector is illegal; a supervisor selector in user mode takes the privilege trap;
a selector outside 0x400 to 0x40F is a privileged access that makes the task irrevocable (19 R278). A reserved VALUE of a field
that is not reserved (PRQBASE M 1 to 3 and 17 to 31) takes the trap of a reserved field (DESIGN CHOICE, log 58). Where S[a] is
marked and holds a reserved field too, the poison-consumption trap comes before that of 00 R5, here and in the other selectors'
instructions (DESIGN CHOICE, log 65). -/
def execSwr (g : Guard) (a : SReg) (sel : BitVec 11) (s : State) : Host.Outcome State Fault Refusal :=
  run s { ok := writableSel sel.toNat, priv := true, g := g, ss := [a] } <| poisonS s [a] <|
    let x := s.me.rd a
    match sel.toNat with
    | 0x400 => .done (s.onMe (fun t => { t with epc := x }))
    | 0x405 => .done (s.onMe (fun t => { t with kscratch := x }))
    | 0x406 => fate s x.toNat
    | _ =>
      let m := fld x 0 5
      if fld x 48 16 ≠ 0 || fld x 5 7 ≠ 0 || !(m == 0 || (4 ≤ m && m ≤ 16)) then .trap s 1 0
      else irrevocable s fun s =>
        let pid := s.pidOfRegion s.me.rid
        match s.partition pid with
        | some p => .done (s.setPartition pid { p with prqbase := x })
        | none => .done s

/-- STACKBASE (19 R279): 256 KiB aligned; a value that is not takes the trap of a reserved field, bits [63:48] are held as
written (DESIGN CHOICE, log 58: R279 gives no field map). -/
def execStackbase (g : Guard) (a : SReg) (s : State) : Host.Outcome State Fault Refusal :=
  run s { priv := true, g := g, ss := [a] } <| poisonS s [a] <|
    let x := s.me.rd a
    if fld x 0 18 ≠ 0 then .trap s 1 0
    else irrevocable s fun s => .done (s.onMe (fun t => { t with stackbase := x }))

/-- PTROOT (20 R294): cached translations stay until `tlbinv`. A reserved RSZ (27 to 31) takes the trap of a reserved field
(DESIGN CHOICE, log 58). -/
def execPtroot (g : Guard) (a : SReg) (s : State) : Host.Outcome State Fault Refusal :=
  run s { priv := true, g := g, ss := [a] } <| poisonS s [a] <|
    let x := s.me.rd a
    if fld x 48 16 ≠ 0 || fld x 5 7 ≠ 0 || 26 < fld x 0 5 then .trap s 1 0
    else irrevocable s fun s =>
      let pid := s.pidOfRegion s.me.rid
      match s.partition pid with
      | some p => .done (s.setPartition pid { p with ptroot := x })
      | none => .done s

/-- LASTUE (20 R309, 00 R5): W1C, so that a 1 clears its bit, VALID among them; [62:48] are reserved. -/
def execLastue (g : Guard) (a : SReg) (s : State) : Host.Outcome State Fault Refusal :=
  run s { priv := true, g := g, ss := [a] } <| poisonS s [a] <|
    if fld (s.me.rd a) 48 15 ≠ 0 then .trap s 1 0
    else irrevocable s fun s =>
      .done (s.onDie (dieOf s.cur) (fun d => { d with lastue := d.lastue &&& ~~~ (s.me.rd a) }))

end Sys2Proof.Machine
end

