-- ==== Sys2Proof/Machine/Sched.lean ====
section
/-! DEFINITION. The dispenser (19 R286, 02 R25, R34, R35, R39, R41), pre-emption, saves and restores (19 R284, R287,
R288), the end of a region (R285), the region commands (R279, R282), watchdogs and windows. -/

namespace Sys2Proof.Machine

/-! ### What work may run on a strand -/

/-- Where a piece of ready work lies. -/
inductive Src where
  | fault (i : Nat) | dual (label : Nat) | requeue (i : Nat) | chain (lane i : Nat) | mail (i : Nat) | relay (i : Nat)
  | lane (lane i : Nat)
deriving DecidableEq, Repr

/-- The order of kinds within a region (R286); the further runs of a dual pair stand with the requeued work. -/
def Src.rank : Src → Nat
  | .fault _ => 0 | .dual _ => 1 | .requeue _ => 1 | .chain _ _ => 2 | .mail _ => 3 | .relay _ => 4 | .lane _ _ => 5

/-- One choice of the dispenser for a strand. -/
structure Cand where
  rid : Nat
  src : Src
  level : Nat
  w : Ready
deriving DecidableEq, Repr

/-- The level of work at mesh time now (R286). -/
def Ready.levelAt (w : Ready) (agek now : Nat) : Nat := min 7 (w.level + (now - w.t0) / 2 ^ agek)

/-- The work may run on tile t: it waits for no page, and its pin, its die (02 R40) and the tiles it avoids admit t. -/
def Ready.mayRun (w : Ready) (t : Nat) : Bool :=
  !w.page && (w.task.pin.isNone || w.task.pin == some t) && (w.die.isNone || w.die == some (dieOfTile t)) &&
  !w.tileNot.contains t

/-- Places and elements of a list. -/
def numbered {α : Type} (l : List α) : List (Nat × α) := numberedFrom 0 l

/-- A further run of a dual pair may run on a strand (02 R41): on another tile when the region has two or more, for a
third run on neither of the first two when it has three; a region of one tile uses another core. Work that is pinned to its tile
(02 R21, R33) uses another core of that tile (DESIGN CHOICE, log 73). -/
def dualMayRun (r : Region) (d : DualRun) (sid : Nat) : Bool :=
  let t := tileOf sid
  let pinned := d.ready.task.pin.isSome
  let started := d.tiles.length
  (started < 2 || (started = 2 && d.done.length = 2)) &&
  (if pinned then d.ready.task.pin == some t && !d.cores.contains (coreOf sid)
   else if started < r.tiles.length then !d.tiles.contains t
   else !d.cores.contains (coreOf sid))

/-- The parked message that may run on a tile (02 R34, R35): in arrival order, or in ordered delivery the least
(window, sender, number) of a window that has ended while no handler of the region is under way on the tile. -/
def mailChoice (s : State) (rid : Nat) (r : Region) (t : Nat) : List (Nat × Mail) :=
  let here := (numbered r.mail).filter (fun x => x.2.tile == t)
  if !r.ordered then here else
  let busy := s.strands.any (fun x => x.2.rid == rid && tileOf x.1 == t && (x.2.task.map (·.kind)) == some 1) ||
    r.requeue.any (fun w => w.task.kind == 1 && w.task.pin == some t)
  if busy then [] else
  let past := here.filter (fun x => x.2.window < r.windows)
  let less : Mail → Mail → Bool := fun a b => a.window < b.window || (a.window == b.window &&
    (a.srcTile < b.srcTile || (a.srcTile == b.srcTile && a.seq.toNat < b.seq.toNat)))
  match past with
  | [] => []
  | x :: l => [l.foldl (fun m y => if less y.2 m.2 then y else m) x]

/-- All ready work of a region for a strand. -/
def candidates (s : State) (sid rid : Nat) (r : Region) : List Cand :=
  let t := tileOf sid
  let mk : Src → Ready → Cand := fun src w => { rid := rid, src := src, level := w.levelAt r.agek s.meshTime, w := w }
  let ok : List (Nat × Ready) → List (Nat × Ready) := List.filter (fun x => x.2.mayRun t)
  (ok (numbered r.faults)).map (fun x => mk (.fault x.1) x.2) ++
  ((s.duals.filter (fun d => d.2.rid == rid && dualMayRun r d.2 sid)).map (fun d => mk (.dual d.1) d.2.ready)) ++
  (ok (numbered r.requeue)).map (fun x => mk (.requeue x.1) x.2) ++
  (numbered r.lanes).flatMap (fun l => (ok (numbered (l.2.chain.map (·.2)))).map (fun x => mk (.chain l.1 x.1) x.2)) ++
  (mailChoice s rid r t).map (fun x => mk (.mail x.1) x.2.ready) ++
  ((numbered (s.tile t).relay.queue).filter (fun x => x.2.1 == rid)).map (fun x => mk (.relay x.1) x.2.2) ++
  (numbered r.lanes).flatMap (fun l => (ok (numbered l.2.queue)).map (fun x => mk (.lane l.1 x.1) x.2))

/-- A region whose work the dispenser may take for a tile: RUNNING, it holds the tile, it is within its quota, and its
saved strands have run before (R284). -/
def Region.serves (r : Region) (t : Nat) : Bool :=
  r.state == .running && r.tiles.contains t && (r.quota == 0 || r.dispatched < r.quota) && r.strandsSaved.isEmpty

/-- The element that `better` prefers; of equals the first. -/
def pickBest {α : Type} (better : α → α → Bool) : List α → Option α
  | [] => none
  | x :: l => some (l.foldl (fun m y => if better y m then y else m) x)

/-- The drain rule (02 R25): among lanes with work at the level, the highest effective priority, then the greatest fill
fraction, then the lower number; from it the oldest record. -/
def drainRule (r : Region) (l : List Cand) : Option Cand :=
  let info : Cand → Nat × Nat × Nat := fun c =>
    match c.src with
    | .lane i _ =>
      match r.lanes[i]? with
      | some x => (min 7 (r.prio + x.o), x.queue.length, 2 ^ x.c)
      | none => (0, 0, 1)
    | _ => (0, 0, 1)
  pickBest (fun a b =>
    let (pa, na, ca) := info a
    let (pb, nb, cb) := info b
    pb < pa || (pa == pb && nb * ca < na * cb)) l

/-- The choice within a region among its work at the chosen level (R286 item 4): the kinds in their order, each in the order in
which its work waits (02 R28, R34), lane records last under the drain rule, the oldest of the lane. Work of a lower level takes no
part, whatever its kind: that this holds for the kinds which 02 R25, R28, R34, R39 and 11 R222 put ahead of lane records is read
from R286 (DEDUCED, log 38). -/
def choiceIn (r : Region) (l : List Cand) : Option Cand :=
  match pickBest (fun a b => a.src.rank < b.src.rank) (l.filter (fun c => c.src.rank ≤ 4)) with
  | some c => some c
  | none => drainRule r l

/-- Aged work at level 7 is served oldest first, across regions (R286 item 2). -/
def agedChoice (aged : List Cand) : Option Cand := pickBest (fun a b => a.w.t0 < b.w.t0) aged

def State.credit (s : State) (d rid level : Nat) : Nat :=
  ((lookupKey (s.die d).credits rid).bind (fun l => l[level]?)).getD 0

def State.setCredit (s : State) (d rid level n : Nat) : State :=
  s.onDie d (fun x =>
    let l := (lookupKey x.credits rid).getD (List.replicate 8 0)
    { x with credits := putKey x.credits rid (setAt l level n) })

/-- The region served at a level (R286 item 3): the most credit, ties to the lower block address; all are refilled with
their number of tiles on the die when none has credit left. -/
def chooseRegion (s : State) (d level : Nat) (rids : List Nat) : State × Option Nat :=
  let tilesOn : Nat → Nat := fun i => ((s.region i).map (fun r => r.tiles.countP (fun t => dieOfTile t == d))).getD 0
  let block : Nat → Nat := fun i => ((s.region i).map (fun r => r.block.toNat)).getD 0
  let s := if rids.all (fun i => s.credit d i level == 0) then
      rids.foldl (fun s i => s.setCredit d i level (tilesOn i)) s
    else s
  let best := pickBest (fun a b => s.credit d b level < s.credit d a level ||
    (s.credit d a level == s.credit d b level && block a < block b)) rids
  match best with
  | none => (s, none)
  | some i => (s.setCredit d i level (s.credit d i level - 1), some i)

/-- What the dispenser chooses for an idle strand (R286). On a withheld tile only fault records are handed out (22 R328). -/
def chooseWork (s : State) (sid : Nat) : State × Option Cand :=
  let t := tileOf sid
  let x := s.tile t
  let all := (s.regions.filter (fun r => r.2.serves t)).flatMap (fun r => candidates s sid r.1 r.2)
  let all := if x.hot || x.overi then all.filter (fun c => c.src.rank == 0) else all
  let top := all.foldl (fun m c => max m c.level) 0
  let here := all.filter (fun c => c.level == top)
  let aged := here.filter (fun c => c.w.level < 7)
  if top = 7 && !aged.isEmpty then (s, agedChoice aged)
  else
    let (s, o) := chooseRegion s (dieOfTile t) top ((here.map (·.rid)).foldl addNum [])
    match o.bind s.region, o with
    | some r, some rid => (s, choiceIn r (here.filter (fun c => c.rid == rid)))
    | _, _ => (s, none)

/-- Takes the work from where it lies. -/
def State.takeWork (s : State) (sid : Nat) (c : Cand) : State :=
  let onLane : Nat → (Lane → Lane) → State := fun i f => s.onRegion c.rid (fun r =>
    match r.lanes[i]? with
    | some l => { r with lanes := setAt r.lanes i (f l) }
    | none => r)
  match c.src with
  | .fault i => s.onRegion c.rid (fun r => { r with faults := r.faults.eraseIdx i })
  | .requeue i => s.onRegion c.rid (fun r => { r with requeue := r.requeue.eraseIdx i })
  | .chain l i => onLane l (fun x => { x with chain := x.chain.eraseIdx i })
  | .mail i => s.onRegion c.rid (fun r => { r with mail := r.mail.eraseIdx i })
  | .relay i => s.onTile (tileOf sid) (fun t => { t with relay := { t.relay with queue := t.relay.queue.eraseIdx i } })
  | .lane l i => onLane l (fun x => { x with queue := x.queue.eraseIdx i })
  | .dual _ => s

/-- The start state of a task (02 R17, R18, 11 R223, 19 R278): a fault record's pc is the region's FHANDLER of this moment. -/
def Strand.start (t : Strand) (rid : Nat) (r : Region) (k : Task) (dual : Option Nat) : Strand :=
  let t := { t with pc := if k.kind = 3 then r.fhandler else k.pc, task := some k, rid := rid, dual := dual
                    sts := stsOf k.lane k.kind r.dual, svsts := if k.kind = 3 then 1 else 0 }
  let t := (numbered k.regs).foldl (fun t x => t.wr (BitVec.ofNat 5 (3 + x.1)) x.2 false) t
  { t.wr 30 r.globals false with sMark := k.marks &&& ~~~ 1 }

/-- What orders the start of a task after other parties' work lets its core's L1 keep no older line (03 R55, R57 edges 1 and 8,
11 R225): every start but that of a message handler in arrival order, which no edge orders. -/
def State.startAcquires (s : State) (sid : Nat) (r : Region) (k : Task) : State :=
  if k.kind = 1 && !r.ordered then s else s.dropL1 (coreOf sid)

/-- A fault record whose region has no handler any more (R292). -/
def State.faultAgain (s : State) (rid : Nat) (k : Task) : State :=
  s.raise (s.regions.length + 1) true rid ((k.regs[1]?).getD 0).toNat ((k.regs[2]?).getD 0) ((k.regs[3]?).getD 0)

/-- A strand starts a piece of work. The first record of a launch is pinned by its first dispatch (02 R21); in a dual-run
region every task but a fault record becomes one run of a pair (02 R41, 19 R289). -/
def State.startWork (s : State) (sid : Nat) (c : Cand) : State :=
  match s.region c.rid with
  | none => s
  | some r =>
    let tl := tileOf sid
    let k := c.w.task
    let k := if k.firstPins then { k with pin := some tl, islocal := true, firstPins := false } else k
    let s := (s.takeWork sid c).onRegion c.rid (fun r => { r with dispatched := r.dispatched + 1 })
    let s := s.startAcquires sid r k
    if k.kind = 3 && r.fhandler = 0 then s.faultAgain c.rid k else
    match c.src with
    | .dual lab =>
      match lookupKey s.duals lab with
      | none => s
      | some d =>
        let s := { s with duals := putKey s.duals lab { d with
          tiles := d.tiles ++ [tl], cores := d.cores ++ [coreOf sid], running := d.running ++ [sid] } }
        s.onStrand sid (fun t => t.start c.rid r k (some lab))
    | _ =>
      if r.dual && k.kind != 3 then
        let lab := s.nextId
        let d : DualRun := { label := lab, rid := c.rid, ready := { c.w with task := k, die := none }, tiles := [tl]
                             cores := [coreOf sid], running := [sid], done := [] }
        { s with nextId := lab + 1, duals := putKey s.duals lab d }.onStrand sid
          (fun t => t.start c.rid r k (some lab))
      else s.onStrand sid (fun t => t.start c.rid r k none)

/-! ### Saved strands (R287, R288) -/

def netCount (n : Int) : BitVec 64 := BitVec.ofInt 64 n

/-- The cycles a pause must still last. -/
def pauseLeft (t : Strand) : Nat :=
  match t.wait with
  | .paused n => n - 64
  | _ => 0

def vecBytes {w : Nat} (x : BitVec w) (n : Nat) : List Byte := bytesOf x n

/-- The image of a strand in its slot of the save area (R288). -/
def Strand.image (t : Strand) : List Byte :=
  let pad : Nat → List Byte := fun n => List.replicate n 0
  let joins := (t.joins.take 16).flatMap (fun x => natBytes x.1 8 ++ bytesOf (netCount x.2) 8)
  [t.pc, t.sts, t.pfxr, t.svsts, t.epc, t.ecause, t.edetail, t.ests, t.kscratch, BitVec.ofNat 64 (pauseLeft t)].flatMap
    (fun x => bytesOf x 8) ++
  bytesOf t.pendS 4 ++ bytesOf t.sMark 4 ++ bytesOf t.pMark 1 ++ bytesOf t.kMark 2 ++ pad 5 ++ pad 160 ++
  t.s.toList.flatMap (fun x => bytesOf x 8) ++ joins ++ pad (256 - joins.length) ++
  t.vMark.toList.flatMap (fun x => bytesOf x 1) ++ t.aMark.toList.flatMap (fun x => bytesOf x 128) ++
  t.k.toList.flatMap (fun x => natBytes (tagWord x) 8) ++ t.p.toList.flatMap (fun x => bytesOf x 8) ++ pad 32 ++
  t.v.toList.flatMap (fun x => bytesOf x 64) ++ t.a.toList.flatMap (fun x => bytesOf x 4096) ++
  t.k.toList.flatMap (fun x => match x with
    | some k => bytesOf k.bits 512
    | none => pad 512)

/-- A field of an image as a bit vector of w bits. -/
def imageBits (l : List Byte) (off w : Nat) : BitVec w := BitVec.ofNat w (fieldAt l off (w / 8))

/-- The strand as its image gives it back; what the image has no place for stays as saved. A token that was pending at the
save and has had its status since keeps that status. -/
def Strand.ofImage (t : Strand) (l : List Byte) : Strand :=
  let w : Nat → Word := fun i => imageBits l (8 * i) 64
  { t with
    pc := w 0, sts := w 1, pfxr := w 2, svsts := w 3, epc := w 4, ecause := w 5, edetail := w 6, ests := w 7
    kscratch := w 8
    wait := (match t.wait with
      | .paused _ => .paused ((w 9).toNat + 64)
      | x => x)
    pendS := imageBits l 0x50 32 &&& t.pendS
    sMark := (imageBits l 0x54 32 &&& ~~~ (imageBits l 0x50 32 &&& ~~~ t.pendS)) ||| (t.sMark &&& imageBits l 0x50 32 &&& ~~~ t.pendS)
    pMark := imageBits l 0x58 8, kMark := imageBits l 0x59 16
    s := Vector.ofFn (fun i => if bitOf (imageBits l 0x50 32 &&& ~~~ t.pendS) i.val then t.s[i.val]
      else imageBits l (0x100 + 8 * i.val) 64)
    joins := (List.range t.joins.length).map (fun i =>
      (fieldAt l (0x200 + 16 * i) 8, (imageBits l (0x208 + 16 * i) 64).toInt))
    vMark := Vector.ofFn (fun i => imageBits l (0x300 + i.val) 8)
    aMark := Vector.ofFn (fun i => imageBits l (0x320 + 128 * i.val) 1024)
    k := Vector.ofFn (fun i =>
      let tag := fieldAt l (0x520 + 8 * i.val) 8
      if tag / 2 ^ 31 % 2 = 1 then some (streamOf tag ((l.drop (0x4E00 + 512 * i.val)).take 512)) else none)
    p := Vector.ofFn (fun i => imageBits l (0x5A0 + 8 * i.val) 64)
    v := Vector.ofFn (fun i => imageBits l (0x600 + 64 * i.val) 512)
    a := Vector.ofFn (fun i => imageBits l (0xE00 + 4096 * i.val) 32768) }

def Mail.image (m : Mail) : List Byte :=
  bytesOf m.ready.task.pc 8 ++ natBytes m.srcTile 4 ++ bytesOf m.seq 4 ++
  ((m.ready.task.regs.drop 1).take 6).flatMap (fun x => bytesOf x 8)

def DqEntry.image (e : DqEntry) : List Byte := bytesOf e.lo 4 ++ bytesOf e.hi 4 ++ bytesOf e.tag 4 ++ bytesOf e.aux 4

/-- The scratchpad bytes inside the spans of a region's segments. -/
def inSpans (segs : List (Option Seg)) (o : Nat) : Bool :=
  (segs.filterMap id).any (fun g => g.base ≤ o && o < g.base + g.span)

def Hit.words (h : Hit) : List Nat := [h.t, h.u, h.v, h.inst, h.prim]

/-- A ray's state as words: its number, flags, counts and hits. Its stack is in its spill area. -/
def Ray.words (x : Ray) : List Nat :=
  [x.idx, x.ended.toNat + 2 * x.err.toNat, x.spilled, x.tcur, x.tris.length] ++ x.tris ++
  (match x.best with
   | some h => 1 :: h.words
   | none => [0]) ++ x.pending.length :: x.pending.flatMap Hit.words ++
  (match x.ask, x.asked with
   | some k, some h => 1 :: k :: h.words
   | _, _ => [0]) ++
  (match x.answer with
   | some a => [1, a]
   | none => [0])

/-- A handler task as words: its marks, its tile, its pc and its registers, each of 64 bits as two. -/
def Task.words (k : Task) : List Nat :=
  [k.marks.toNat, k.pin.getD 0] ++ (k.pc :: k.regs).flatMap (fun x => [fld x 0 32, fld x 32 32])

/-- A command that waits in a relay unit as words. -/
def RelayCmd.words (c : RelayCmd) : List Nat :=
  [c.ray.toNat + 2 * c.super.toNat + 4 * c.acq.toNat + 8 * c.rel.toNat + 16 * c.scope.toNat + 64 * c.token.toNat,
   fld c.desc 0 32, fld c.desc 32 32]

/-- A traversal as words: what its unit holds of it (11 R216, R224). -/
def Trav.words (c : Trav) : List Nat :=
  let two : Nat → List Nat := fun n => [n % 2 ^ 32, n / 2 ^ 32 % 2 ^ 32]
  [1, c.ray.toNat + 2 * c.super.toNat + 4 * c.rel.toNat + 16 * c.scope.toNat + 64 * c.token.toNat, c.tile, c.pins.length] ++
  (List.range 32).map (fun i => fieldAt c.desc (4 * i) 4) ++ c.pins.flatMap (fun p => two p.1 ++ [p.2]) ++
  [c.poolA.toNat, c.poolB.toNat, c.primsA.toNat, c.orderA.toNat, c.made].flatMap two ++ [c.code, c.detail, c.noVerdict]

/-- The relay unit's part of a tile record (R288, 11 R226), in words of 4 bytes: counts, the traversal it works on, the pair and the
question that wait, the frontier's pairs (11 R220), newest last, the tasks owed and queued, the waiting commands, the rays. The
layout is the model's, and what passes the part's 4,096 bytes is held in State only (log 25). -/
def Relay.image (q : Relay) (tr : Option Trav) : List Byte :=
  let pair : Option (Nat × Nat) → List Nat := fun o => match o with
    | some (a, b) => [1, a, b]
    | none => [0]
  let words := [q.frontier.length, q.owed.length, q.queue.length, q.cmds.length, q.rays.length, q.next, q.limit, q.parked.toNat] ++
    (match tr with
     | some t => t.words
     | none => [0]) ++ pair q.cur ++
    (match q.ask with
     | some (k, a, b) => [1, k % 2 ^ 32, k / 2 ^ 32, a, b]
     | none => [0]) ++
    (match q.verdict with
     | some v => [1, v]
     | none => [0]) ++ q.frontier.reverse.flatMap (fun x => [x.1, x.2]) ++ q.owed.flatMap (fun w => w.task.words) ++
    q.queue.flatMap (fun x => x.2.task.words) ++ q.cmds.flatMap RelayCmd.words ++ q.rays.flatMap Ray.words
  (words.flatMap (fun n => natBytes n 4)).take 4096

/-- A ray's short stack goes into its spill area at a save (11 R226); its entries come back from there (R228). -/
def Ray.spillBytes (x : Ray) : List (Nat × Byte × Bool) :=
  (numbered (x.stack.reverse.flatMap (fun e => natBytes e.1 4))).map
    (fun y => (fieldAt x.record 56 8 + 4 * x.spilled + y.1, y.2, false))
def Ray.spill (x : Ray) : Ray := { x with stack := [], spilled := x.spilled + x.stack.length }

/-- The part of a relay unit that belongs to a region, and the rest. -/
def Relay.part (q : Relay) (mine : Bool) (rid : Nat) : Relay × Relay :=
  let cmds := q.cmds.partition (fun c => c.rid == rid)
  let queue := q.queue.partition (fun c => c.1 == rid)
  let stuck := q.parked && q.trav.isNone && (q.cmds.head?.map (·.rid)) == some rid
  if mine then ({ q with cmds := cmds.1, queue := queue.1 }, { Relay.fresh with cmds := cmds.2, queue := queue.2 })
  else ({ Relay.fresh with cmds := cmds.1, queue := queue.1, parked := stuck },
        { q with cmds := cmds.2, queue := queue.2, parked := q.parked && !stuck })

def padTo (l : List Byte) (n : Nat) : List Byte := l ++ List.replicate (n - l.length) 0

/-- A strand slot: a strand with no task writes its pc and STS only, both 0 (R288). -/
def slotImage (saved : List (Nat × Strand)) (i : Nat) : List Byte :=
  match lookupKey saved i with
  | some st => st.image
  | none => List.replicate 16 0

/-- The record of a logical tile (R288): place, byte, poison. Its part of the deque has 64 places: entries past them, which only takes
that were undone leave (08 R152), are held in State only (log 25). -/
def tileRecord (s : State) (rid : Nat) (r : Region) (n t : Nat) (saved : List (Nat × Strand)) :
    List (Nat × Byte × Bool) :=
  let x := s.tile t
  let mine := match x.relay.trav.bind s.trav with
    | some tr => tr.rid == rid
    | none => false
  let slots := (List.range 16).flatMap (fun i => numberedFrom (0x6E00 * i) (slotImage saved (16 * n + i)))
  let part := (x.relay.part mine rid).1
  let head := padTo (part.image (part.trav.bind s.trav)) 4096 ++
    padTo ((r.mail.filter (fun m => m.tile == t)).flatMap Mail.image) 4096 ++
    padTo (((x.deque.filter (fun e => e.rid == rid)).take 64).flatMap DqEntry.image) 1024
  (slots ++ numberedFrom 0x6E000 head).map (fun b => (b.1, b.2, false)) ++
  (List.range 0x100000).map (fun o => (0x70400 + o,
    if inSpans r.segs o then (Memory.get x.spad o, hasNum x.spadPoison (o / 8)) else (0, false)))

/-- A strand as it is saved (R287, 09 R191): a matrix instruction in its check, which may still wait for a `copyw`, is checked
again from its group's first word. -/
def Strand.asSaved (t : Strand) : Strand :=
  let again : Strand := { t.clearPfx with pc := t.trapPc, wait := .no }
  let t := match t.wait with
    | .check _ => again
    | .stalled => if t.inCheck then again else { t with wait := .no }
    | .no => if t.inCheck then again else t
    | _ => t
  { t with saved := true, inCheck := false, ahead := [] }

/-- The first free slot of a logical tile, from a strand's own on. -/
def freeSlot (l : List (Nat × Strand)) (n i : Nat) : Nat :=
  (((List.range 16).map (fun k => 16 * n + (i + k) % 16)).find? (fun k => (lookupKey l k).isNone)).getD (16 * n + i)

/-- The strands of a region that hold a task, each with the slot it is saved in; strands saved before that have not gone on
yet keep theirs (R284). -/
def savedStrands (s : State) (rid : Nat) (r : Region) : List (Nat × Strand) × List (Nat × Nat) :=
  s.strands.foldl (fun l x =>
    if x.2.task.isSome && x.2.rid = rid then
      match r.tileNum (tileOf x.1) with
      | some n =>
        let k := freeSlot l.1 n (x.1 % 16)
        (putKey l.1 k x.2.asSaved, l.2 ++ [(k, x.1)])
      | none => l
    else l) (r.strandsSaved, [])

/-- The task number that the commands of a strand's ended tasks carry when the strand is named anew: no strand reaches it. -/
def endedTask : Nat := 2 ^ 48

/-- What a strand of a region has under way goes on for the strand that now holds its task: the commands of that task, and
those of its ended tasks, whose order with later ones stands (10 R209, 03 R59). -/
def State.rename (s : State) (rid sid no sid' no' : Nat) : State :=
  let is : Nat → Nat → Bool := fun q i => q == rid && i == sid
  let num : Nat → Nat := fun n => if n = no then no' else endedTask
  let s := s.eachDie (fun _ d => { d with
    builds := d.builds.map (fun c => if is c.rid c.sid then { c with sid := sid', taskNo := num c.taskNo } else c)
    encCmds := d.encCmds.map (fun c => if is c.rid c.sid then { c with sid := sid', taskNo := num c.taskNo } else c) })
  let s := s.eachTile (fun _ t => { t with
    copies := t.copies.map (fun c => if is c.rid c.sid then { c with sid := sid', taskNo := num c.taskNo } else c)
    relay := { t.relay with cmds := t.relay.cmds.map (fun c =>
      if is c.rid c.sid then { c with sid := sid', taskNo := num c.taskNo } else c) } })
  { s with
    travs := s.travs.map (fun x => (x.1,
      let y := { x.2 with held := if x.2.rid = rid then x.2.held.map (fun h => if h = (sid, no) then (sid', no') else h) else x.2.held }
      if is y.rid y.sid then { y with sid := sid', taskNo := num y.taskNo } else y))
    launches := s.launches.map (fun c => if is c.rid c.sid then { c with sid := sid', taskNo := num c.taskNo } else c)
    msgs := s.msgs.map (fun m => if is m.rid m.sid then { m with sid := sid', taskNo := num m.taskNo } else m)
    written := s.written.map (fun w => if is w.rid w.sid then { w with sid := sid' } else w)
    regions := s.regions.map (fun x => (x.1, { x.2 with
      origin := (match x.2.origin with
        | .strand i n r => if x.2.parent = some rid && i = sid then .strand sid' (num n) r else .strand i n r
        | o => o) })) }

def Relay.join (q p : Relay) : Relay :=
  let q' := if p.trav.isSome then { p with cmds := q.cmds, queue := q.queue }
    else { q with parked := q.parked || (q.trav.isNone && q.cmds.isEmpty && p.parked) }
  { q' with cmds := q.cmds ++ p.cmds, queue := q.queue ++ p.queue }

/-- A page fault of a save or a restore: it waits for `replay` with a page request (R288, 20 R302). -/
def State.saveParks (s : State) (rid die : Nat) (k : AccKind) (e : XErr × Nat) : State :=
  (s.engineFault rid die 5 k e).onRegion rid (fun q => { q with saveParked := true })

/-- What a save writes: the records of the tiles and the short stacks of the rays under way (R288, 11 R226). -/
def saveBytes (s : State) (rid : Nat) (r : Region) (saved : List (Nat × Strand)) (mine : Option Nat → Bool) :
    List (Nat × Byte × Bool) :=
  (numbered r.tiles).flatMap (fun x =>
    (tileRecord s rid r x.1 x.2 saved).map (fun y => (r.savearea.toNat + 0x170400 * x.1 + y.1, y.2))) ++
  r.tiles.flatMap (fun t => if mine (s.tile t).relay.trav then (s.tile t).relay.rays.flatMap Ray.spillBytes else [])

/-- A parked command as it is suspended (08 R171): a `copyw` begins again, since the buffer is no part of a save (09 R179,
log 34). -/
def CopyCmd.suspended (c : CopyCmd) : CopyCmd :=
  if c.op = 4 then { c with started := false, moved := [], half := [], bad := [] } else c

/-- What a tile of a saved region holds of it leaves the tile: the relay unit's part, deque entries, parked copies. -/
def State.leaveTile (s : State) (rid n t : Nat) (mine : Option Nat → Bool) : State :=
  let x := s.tile t
  let (p, q) := x.relay.part (mine x.relay.trav) rid
  let p := { p with rays := p.rays.map Ray.spill }
  let s := s.setTile t { x with relay := q, deque := x.deque.filter (fun e => e.rid != rid)
                                copies := x.copies.filter (fun c => c.rid != rid) }
  s.onRegion rid (fun r => { r with
    relaySaved := r.relaySaved ++ [(n, p)]
    dequesSaved := r.dequesSaved ++ [(n, x.deque.filter (fun e => e.rid == rid))]
    copiesSaved := r.copiesSaved ++ (x.copies.filter (fun c => c.rid == rid)).map (fun c => (n, c.suspended)) })

/-- The region is saved and its tiles are released (R284, R288). A page fault parks the save until `replay`. -/
def State.saveRegion (s : State) (rid : Nat) : State :=
  match s.region rid with
  | none => s
  | some r =>
    let s := s.strands.foldl (fun s x => if x.2.task.isSome && x.2.rid = rid then s.drain x.1 else s) s
    let (saved, now) := savedStrands s rid r
    let mine : Option Nat → Bool := fun o => match o.bind s.trav with
      | some tr => tr.rid == rid
      | none => false
    match s.writeVirt .hw r.pid (some rid) true (saveBytes s rid r saved mine) with
    | (s, .error e) => s.saveParks rid (dieOfTile (r.tiles.headD 0)) .write e
    | (s, .ok _) =>
      let s := now.foldl (fun s x =>
        let no := (s.strand x.2).taskNo
        (s.rename rid x.2 no (savedName rid x.1) no).idle x.2) s
      let s := (numbered r.tiles).foldl (fun s x => s.leaveTile rid x.1 x.2 mine) s
      (s.onRegion rid (fun r => { r with state := .preempted, strandsSaved := saved })).mirror rid

/-- Tile numbers of ready work follow the logical numbers to the new tiles (R284); work that a remote home has drawn to a die is
free of it when the region has no tile there any more (02 R40, R42). -/
def movedTile (old new : List Nat) (t : Nat) : Nat := ((findAt (· == t) old).bind (fun i => new[i]?)).getD t

def Ready.moved (w : Ready) (old new : List Nat) : Ready :=
  { w with task := { w.task with pin := w.task.pin.map (movedTile old new) }, tileNot := w.tileNot.map (movedTile old new)
           die := w.die.bind (fun d => if new.any (fun t => dieOfTile t == d) then some d else none) }

/-- A suspended command goes on at its logical tile's new place: the strand of an ended task stands for its number there. -/
def CopyCmd.movedTo (c : CopyCmd) (t : Nat) : CopyCmd :=
  if 2 ^ 32 ≤ c.sid then c else { c with sid := 16 * t + c.sid % 16, taskNo := endedTask }

/-- A take goes back to the deque of the same logical tile (08 R152). -/
def Undo.moved (u : Undo) (old new : List Nat) : Undo :=
  match u with
  | .take t e => .take (movedTile old new t) e
  | u => u

def Region.moved (r : Region) (new : List Nat) : Region :=
  let old := r.tiles
  let f : Ready → Ready := fun w => w.moved old new
  { r with
    requeue := r.requeue.map f, faults := r.faults.map f
    mail := r.mail.map (fun m => { m with tile := movedTile old new m.tile, ready := f m.ready })
    lanes := r.lanes.map (fun l => { l with queue := l.queue.map f, chain := l.chain.map (fun x => (x.1, f x.2)) })
    strandsSaved := r.strandsSaved.map (fun x => (x.1, { x.2 with
      task := x.2.task.map (fun k => { k with pin := k.pin.map (movedTile old new) })
      records := x.2.records.map (fun y => ({ y.1 with pin := y.1.pin.map (movedTile old new) }, y.2))
      undo := x.2.undo.map (fun u => u.moved old new) }))
    tiles := new }

/-- Lease of a resumed region (22 R331): the slots it holds are one for each core of its tiles on each of its dies; where
they are others than before, it moves to them or is forfeited. -/
def State.resumeLease (s : State) (rid : Nat) (new : List Nat) : State :=
  match s.region rid with
  | none => s
  | some r =>
    let l := coresByDie new
    if !r.leaseActive || r.leaseSlots = l then s else
    let left := r.leaseLeft
    let s := s.dropLease rid
    if s.slotsFree l then s.claimSlots rid left l else s

/-- Restores what a save wrote, on the new tiles (R284, R288): the strands' images and the scratchpad spans are read back
from the save area. A page fault leaves the region PREEMPTED until `replay`. -/
def State.restoreRegion (s : State) (rid : Nat) (tiles : List Nat) (posns : List (Nat × Nat)) : State :=
  match s.region rid with
  | none => s
  | some r =>
    let read := (numbered tiles).foldl (fun (acc : State × Except (XErr × Nat) (List (Nat × Nat × List (Byte × Bool)))) x =>
      match acc with
      | (s, .error e) => (s, .error e)
      | (s, .ok l) =>
        match s.readVirt .hw r.pid (some rid) true (r.savearea.toNat + 0x170400 * x.1) 0x170400 with
        | (s, .error e) => (s, .error e)
        | (s, .ok bs) => (s, .ok (l ++ [(x.1, x.2, bs)]))) (s, .ok [])
    match read with
    | (s, .error e) => s.saveParks rid (dieOfTile (tiles.headD 0)) .read e
    | (s, .ok recs) =>
      let s := recs.foldl (fun s x =>
        let (n, t, bs) := x
        let rel := ((r.relaySaved.find? (fun y => y.1 == n)).map (·.2)).getD Relay.fresh
        let rel := { rel with queue := rel.queue.map (fun y => (y.1, y.2.moved r.tiles tiles))
                              owed := rel.owed.map (fun w => w.moved r.tiles tiles) }
        let kept := ((r.dequesSaved.find? (fun y => y.1 == n)).map (·.2)).getD []
        let raw := bs.map (·.1)
        let entry : Nat → DqEntry := fun i =>
          let o := 0x70000 + 16 * i
          { rid := rid, lo := imageBits raw o 32, hi := imageBits raw (o + 4) 32, tag := imageBits raw (o + 8) 32
            aux := imageBits raw (o + 12) 32 }
        s.onTile t (fun x => { x with
          spad := (List.range 0x100000).foldl (fun m o =>
            if inSpans r.segs o then Memory.put m o ((raw[0x70400 + o]?).getD 0) else m) x.spad
          spadPoison := (List.range 0x20000).foldl (fun l u =>
            if inSpans r.segs (8 * u) then
              (if ((bs[0x70400 + 8 * u]?).map (·.2)).getD false then addNum l u else delNum l u) else l) x.spadPoison
          relay := x.relay.join rel
          copies := x.copies ++ (r.copiesSaved.filter (fun y => y.1 == n)).map (fun y => y.2.movedTo t)
          deque := (List.range (min 64 kept.length)).map entry ++ kept.drop 64 ++ x.deque })) s
      let s : State := { s with
        travs := s.travs.map (fun x =>
          (x.1, if x.2.rid = rid then { x.2 with tile := movedTile r.tiles tiles x.2.tile } else x.2))
        msgs := s.msgs.map (fun m => if m.rid = rid then { m with srcTile := movedTile r.tiles tiles m.srcTile } else m) }
      let image : Nat → List Byte := fun slot =>
        ((recs.find? (fun x => x.1 == slot / 16)).map (fun x => ((x.2.2.drop (0x6E00 * (slot % 16))).take 0x6E00).map (·.1))).getD []
      let s := s.onRegion rid (fun r =>
        let r := r.moved tiles
        { r with state := .running, resuming := false, posns := posns, relaySaved := [], copiesSaved := [], dequesSaved := []
                 strandsSaved := r.strandsSaved.map (fun x => (x.1, x.2.ofImage (image x.1))) })
      let s := s.writeQuiet r.pid r.tilemap.toNat (tiles.flatMap (fun t => natBytes t 2))
      (s.resumeLease rid tiles).mirror rid

/-- A saved strand goes on in a strand of its tile (R284, R287): it keeps the strand's own stack base and task number. The core
it goes on on keeps no older line of its L1 (03 R54, R58). -/
def State.restoreStrand (s : State) (sid rid slot : Nat) (t : Strand) : State :=
  let old := s.strand sid
  let s := (s.onRegion rid (fun r => { r with strandsSaved := dropKey r.strandsSaved slot })).dropL1 (coreOf sid)
  let t := match t.wait with
    | .released pd ok => { t.wrP pd (allOnes ok) false with wait := .no, pc := t.pc + 4 }
    | _ => t
  let s := s.setStrand sid { t with stackbase := old.stackbase, taskNo := old.taskNo, saved := false }
  let places := t.deferred.countP (fun d => match d with
    | .push _ _ _ _ => true
    | _ => false)
  let s := s.onTile (tileOf sid) (fun x => { x with dqReserved := x.dqReserved ++ List.replicate places sid })
  s.rename rid (savedName rid slot) t.taskNo sid old.taskNo

/-- The first saved strand that may go on in a tile. -/
def State.savedFor (s : State) (t : Nat) : Option (Nat × Nat × Strand) :=
  (s.regions.filter (fun x => x.2.state == .running)).findSome? (fun x =>
    (x.2.strandsSaved.find? (fun y => x.2.tiles[y.1 / 16]? == some t)).map (fun y => (x.1, y.1, y.2)))

/-- DISPATCH (R286): an idle strand of an enabled, awake tile gets its work; saved strands first. -/
def execDispatch (sid : Nat) (s : State) : Host.Outcome State Fault Refusal :=
  let t := tileOf sid
  if (s.strand sid).task.isSome || !s.enabledTile t || (s.tile t).idle ≠ 0 then .next s else
  match s.savedFor t with
  | some (rid, slot, x) => .next (s.restoreStrand sid rid slot x)
  | none =>
    match chooseWork s sid with
    | (_, none) => .next s
    | (s, some c) => .next (s.startWork sid c)

/-- A pause may end: it has lasted its count, with at most 64 cycles more to go. -/
def Strand.pauseDue (t : Strand) : Bool :=
  match t.wait with
  | .paused n => n ≤ 64
  | _ => false

/-- PAUSE_END (01 R15): a pause whose count has run out. -/
def execPauseEnd (sid : Nat) (s : State) : Host.Outcome State Fault Refusal :=
  .next (if (s.strand sid).pauseDue then s.onStrand sid (fun t => { t with wait := .no }) else s)

/-- RUN_WATCHDOG (R290): before the strand's next instruction. -/
def execRunWatchdog (sid : Nat) (s : State) : Host.Outcome State Fault Refusal :=
  let t := s.strand sid
  match s.region t.rid with
  | none => .next s
  | some r =>
    if t.task.isSome && !t.super && (t.wait = .no || t.wait = .stalled) && 2 ^ r.runlim < t.cycles then
      .next (s.takeTrap sid 0x17 (sat64 t.cycles))
    else .next s

/-- REMOTE_HOME_MIGRATION (02 R40): the die with the greatest count, ties to the lower number. A trapped task is not moved while its
handler runs (DESIGN CHOICE, log 72). -/
def execRemoteHomeMigration (sid : Nat) (s : State) : Host.Outcome State Fault Refusal :=
  let t := s.strand sid
  match t.task, s.region t.rid with
  | some k, some r =>
    if t.super || !t.restartable || k.kind ≠ 0 || k.islocal || k.nomig || r.rhome = 255 ||
      t.counts.foldl (· + ·) 0 ≤ 16 * r.rhome then .next s
    else
      match pickBest (fun a b => b.2 < a.2) (numbered t.counts) with
      | none => .next s
      | some (d, _) =>
        if r.tiles.any (fun x => dieOfTile x == d) then .next ((s.count t.rid 3).abort sid (some d) false)
        else .next (s.onStrand sid (fun t => { t with counts := [] }))
  | _, _ => .next s

/-! ### Region commands (R279, R282, R284) -/

/-- A relay unit that holds a traversal takes no restored one: one traversal at a time (11 R220). -/
def State.relaysFree (s : State) (r : Region) (tiles : List Nat) : Bool :=
  r.relaySaved.all (fun x => x.2.trav.isNone || ((tiles[x.1]?).map (fun t => (s.tile t).relay.trav.isNone)).getD true)

/-- TILES_PLACED (02 R32, R284): of a new region, or of one that RESUME named. -/
def execTilesPlaced (rid : Nat) (tiles : List Nat) (s : State) : Host.Outcome State Fault Refusal :=
  match s.region rid with
  | none => .next s
  | some r =>
    if r.state = .placing then .next (s.placed rid tiles)
    else if r.state = .preempted && r.resuming && !r.saveParked && tiles.length = r.tiles.length then
      match s.placement rid r tiles with
      | some posns => .next (if s.relaysFree r tiles then s.restoreRegion rid tiles posns else s)
      | none => .next s
    else .next s

/-- A command on the region whose block S[a] names: 1 when it is neither the issuing region nor below it nor (`root`) the
partition's default block, 2 when its state does not admit the command, else the effect (R279). -/
def regionCmd (s : State) (g : Guard) (a : SReg) (root : Bool) (admits : Region → Bool) (k : State → Nat → State × Nat) :
    Host.Outcome State Fault Refusal :=
  run s { priv := true, g := g, ss := [a] } <| poisonS s [a] <|
    irrevocable s fun s =>
      let t := s.me
      let set : State → Nat → State := fun s n => s.onMe (fun t => { t with regstat := BitVec.ofNat 64 n })
      match s.regionOfBlock (s.pidOfRegion t.rid) (t.rd a) with
      | none => .done (set s 1)
      | some (rid, r) =>
        if !s.descends rid t.rid && !(root && r.parent.isNone) then .done (set s 1)
        else if !admits r then .done (set s 2)
        else
          let (s, n) := k s rid
          let s := set s n
          if (s.strand s.cur).taskNo = t.taskNo then .done s else .gone s

/-- The restartable tasks of a region are aborted; trapped ones count as irrevocable (R284). -/
def State.preemptRegion (s : State) (rid : Nat) : State :=
  let s := s.onRegion rid (fun r => { r with state := .preempting, preemptAt := s.meshTime })
  let s := (s.strands.map (·.1)).foldl (fun s i =>
    let t := s.strand i
    if t.task.isSome && t.rid = rid && t.restartable && !t.trapped then s.abort i none false else s) s
  s.mirror rid

/-- PREEMPT (R284). -/
def execPreempt (g : Guard) (a : SReg) (s : State) : Host.Outcome State Fault Refusal :=
  regionCmd s g a false (fun r => r.state == .running) (fun s rid => (s.preemptRegion rid, 0))

/-- RESUME (R284). A region that is already resuming does not admit it (DESIGN CHOICE, log 81). -/
def execResume (g : Guard) (a : SReg) (s : State) : Host.Outcome State Fault Refusal :=
  regionCmd s g a false (fun r => r.state == .preempted && !r.resuming)
    (fun s rid => (s.onRegion rid (fun r => { r with resuming := true }), 0))

/-- KILL (R284). -/
def execKill (g : Guard) (a : SReg) (s : State) : Host.Outcome State Fault Refusal :=
  regionCmd s g a false Region.live (fun s rid => (s.kill rid, 0))

/-- The mutable fields of a block as memory or a request gives them. -/
structure RcbVals where
  prio : Nat
  debug : Bool
  scopetrap : Bool
  rhome : Nat
  agek : Nat
  runlim : Nat
  drainlim : Nat
  kphase : BitVec 32
  fhandler : Word
  bwdog : Nat
  quota : Nat
  wotab : Word

def Region.vals (r : Region) : RcbVals :=
  { prio := r.prio, debug := r.debug, scopetrap := r.scopetrap, rhome := r.rhome, agek := r.agek, runlim := r.runlim
    drainlim := r.drainlim, kphase := r.kphase, fhandler := r.fhandler, bwdog := r.bwdog, quota := r.quota, wotab := r.wotab }

/-- The ranges of R282. -/
def RcbVals.ok (v : RcbVals) : Bool :=
  v.prio < 8 && 1 ≤ v.rhome && v.rhome < 256 && 8 ≤ v.agek && v.agek ≤ 40 && 16 ≤ v.runlim && v.runlim ≤ 40 &&
  8 ≤ v.drainlim && v.drainlim ≤ 32 && 16 ≤ v.bwdog && v.bwdog ≤ 40 && v.quota < 65536

/-- New values take effect (R282). -/
def State.setVals (s : State) (rid : Nat) (v : RcbVals) : State :=
  let s := s.onRegion rid (fun r => { r with
    prio := v.prio, debug := v.debug, scopetrap := v.scopetrap, rhome := v.rhome, agek := v.agek, runlim := v.runlim
    drainlim := v.drainlim, fhandler := v.fhandler, bwdog := v.bwdog, quota := v.quota, wotab := v.wotab })
  s.setKphase rid v.kphase

def valsOf (l : List Byte) : RcbVals :=
  let fl := fieldAt l 10 1
  { prio := fieldAt l 9 1, debug := fl.testBit 3, scopetrap := fl.testBit 4, rhome := fieldAt l 12 1, agek := fieldAt l 13 1
    runlim := fieldAt l 14 1, drainlim := fieldAt l 15 1, kphase := BitVec.ofNat 32 (fieldAt l 16 4)
    fhandler := BitVec.ofNat 64 (fieldAt l 24 8), bwdog := fieldAt l 56 2, quota := fieldAt l 58 2
    wotab := BitVec.ofNat 64 (fieldAt l 112 8) }

/-- RCBSYNC (R279, R282): rereads the mutable fields; out of range, the block's values in force stay, and so they do when the
block does not translate (status 2: DESIGN CHOICE, log 67). A supervisor task of any region of the partition may name the default
block (R283). -/
def execRcbsync (g : Guard) (a : SReg) (s : State) : Host.Outcome State Fault Refusal :=
  regionCmd s g a true Region.live (fun s rid =>
    match s.region rid with
    | none => (s, 2)
    | some r =>
      match s.readVirt .hw r.pid (some rid) true r.block.toNat 256 with
      | (s, .error _) => (s, 2)
      | (s, .ok l) =>
        let v := valsOf (l.map (·.1))
        if v.ok then (s.setVals rid v, 0) else (s, 2))

def RcbVals.put (v : RcbVals) (f : RcbField) (x : Nat) : RcbVals :=
  match f with
  | .prio => { v with prio := x }
  | .debug => { v with debug := x != 0 }
  | .scopetrap => { v with scopetrap := x != 0 }
  | .rhome => { v with rhome := x }
  | .agek => { v with agek := x }
  | .runlim => { v with runlim := x }
  | .drainlim => { v with drainlim := x }
  | .kphase => { v with kphase := BitVec.ofNat 32 x }
  | .fhandler => { v with fhandler := BitVec.ofNat 64 x }
  | .bwdog => { v with bwdog := x }
  | .quota => { v with quota := x }
  | .wotab => { v with wotab := BitVec.ofNat 64 x }

/-- Where a field lies in the block: its first byte and its bytes. -/
def fieldSpan : RcbField → Nat × Nat
  | .prio => (9, 1) | .debug => (10, 1) | .scopetrap => (10, 1) | .rhome => (12, 1) | .agek => (13, 1) | .runlim => (14, 1)
  | .drainlim => (15, 1) | .kphase => (16, 4) | .fhandler => (24, 8) | .bwdog => (56, 2) | .quota => (58, 2)
  | .wotab => (112, 8)

/-- A field's value fits the field. -/
def rcbFits (f : RcbField) (x : Nat) : Bool :=
  match f with
  | .debug | .scopetrap => x < 2
  | .kphase => x < 2 ^ 32
  | .fhandler | .wotab => x < 2 ^ 64
  | _ => true

/-- DEFSET (R283): one mutable field of a partition's default block, under the range checks. -/
def execDefset (pid : Nat) (f : RcbField) (x : Nat) (s : State) : Host.Outcome State Fault Refusal :=
  let answer : State → Bool → State := fun s b => { s with hostOut := s.hostOut ++ [.managed b] }
  match (s.partition pid).bind (fun p => (s.region p.root).map (fun r => (p.root, r))) with
  | none => .next (answer s false)
  | some (rid, r) =>
    let v := r.vals.put f x
    if rcbFits f x && v.ok then .next (answer ((s.setVals rid v).blockOut rid (fieldSpan f).1 (fieldSpan f).2) true) else .next (answer s false)

/-! ### Saves, ends, windows -/

/-- Copy-engine commands of a strand that run on: a parked one is suspended where it stands (08 R171). -/
def State.copiesRun (s : State) (sid : Nat) : Nat :=
  (s.tile (tileOf sid)).copies.countP (fun c => !c.parked && c.sid == sid)

/-- Every counter of every strand of a region is 0 (R287), but for commands that are suspended: encoder commands (05 R100) and
parked copies (08 R171). A `send` or `launch` counts in none (08 R155): its pending token is saved. -/
def countersZero (s : State) (rid : Nat) : Bool :=
  s.strands.all (fun x => !(x.2.task.isSome && x.2.rid == rid) ||
    s.loadsOut x.1 + s.storesOut x.1 + s.copiesRun x.1 + s.matrixOut x.1 == 0)

def holdsTask (s : State) (rid : Nat) : Bool := s.strands.any (fun x => x.2.task.isSome && x.2.rid == rid)

/-- PREEMPT_DRAINED (R284): every irrevocable strand has ended. -/
def execPreemptDrained (rid : Nat) (s : State) : Host.Outcome State Fault Refusal :=
  match s.region rid with
  | none => .next s
  | some r => .next (if r.state = .preempting && !holdsTask s rid && !r.saveParked then s.saveRegion rid else s)

/-- DRAIN_LIMIT (R284, R287): 2^DRAINLIM mesh cycles have passed; the remaining strands are saved once their counters
are 0. -/
def execDrainLimit (rid : Nat) (s : State) : Host.Outcome State Fault Refusal :=
  match s.region rid with
  | none => .next s
  | some r =>
    .next (if r.state = .preempting && r.preemptAt + 2 ^ r.drainlim ≤ s.meshTime && countersZero s rid && !r.saveParked
      then s.saveRegion rid else s)

/-- A RUNNING region is quiescent (R285). A default block is not ended this way (log 26). -/
def quiescent (s : State) (rid : Nat) (r : Region) : Bool :=
  r.state == .running && r.parent.isSome && !holdsTask s rid && r.faults.isEmpty && r.requeue.isEmpty && r.mail.isEmpty &&
  r.strandsSaved.isEmpty && r.first.isNone && r.lanes.all (fun l => l.queue.isEmpty && l.chain.isEmpty) &&
  s.duals.all (fun d => d.2.rid != rid) && s.travs.all (fun x => x.2.rid != rid) && s.msgs.all (fun m => m.rid != rid) &&
  s.launches.all (fun c => c.rid != rid) &&
  s.tiles.all (fun x => x.2.copies.all (fun c => c.rid != rid) && x.2.relay.cmds.all (fun c => c.rid != rid) &&
    x.2.relay.queue.all (fun c => c.1 != rid)) &&
  s.dies.all (fun x => x.2.builds.all (fun c => c.rid != rid) && x.2.encCmds.all (fun c => c.rid != rid)) &&
  s.regions.all (fun x => x.1 == rid || !s.descends x.1 rid || !x.2.live)

/-- REGION_END (R285). -/
def execRegionEnd (rid : Nat) (s : State) : Host.Outcome State Fault Refusal :=
  match s.region rid with
  | none => .next s
  | some r =>
    if !quiescent s rid r then .next s else
    let s := (((s.freeBarriers rid).releasePins rid).dropShared rid).returnBudgets rid
    let s := (s.dropLease rid).phaseEnd rid
    .next ((s.onRegion rid (fun r => { r with state := .ended })).mirror rid)

/-- QUOTA_WINDOW (R286): a window of 2^20 mesh cycles ends. -/
def execQuotaWindow (s : State) : Host.Outcome State Fault Refusal :=
  if s.quotaEnd ≤ s.meshTime then
    .next { s with quotaEnd := (s.meshTime / 2 ^ 20 + 1) * 2 ^ 20
                   regions := s.regions.map (fun x => (x.1, { x.2 with dispatched := 0 })) }
  else .next s

/-- LEASE_EXPIRY (22 R331): the remaining span has reached 0. -/
def execLeaseExpiry (rid : Nat) (s : State) : Host.Outcome State Fault Refusal :=
  match s.region rid with
  | none => .next s
  | some r => .next (if r.leaseActive && r.leaseLeft = 0 then (s.dropLease rid).mirror rid else s)

end Sys2Proof.Machine
end

