-- ==== Sys2Proof/Machine/HostLink.lean ====
section
/-! DEFINITION. The host link and the fabric (21 R317-R323), management requests of keys and attestation (R314, 22 R334,
R338), the partitioning (R310, R313, 19 R283). -/

namespace Sys2Proof.Machine

/-! ### Host requests (R317, R318) -/

def State.send (s : State) (m : HostMsg) : State := { s with hostOut := s.hostOut ++ [m] }

def State.managed (s : State) (ok : Bool) : State := s.send (.managed ok)

def State.complete (s : State) (tag : BitVec 32) (status : Nat) : State := s.send (.completion tag status [] [])

/-- A request reaches its partition's service core: the link is up, the partition exists (R319). -/
def State.hostReaches (s : State) (pid : Nat) : Option Partition := if s.linkUp then s.partition pid else none

/-- QUEUE is one of the partition's (R317). -/
def Partition.hasQueue (p : Partition) (q : Nat) : Bool := q < 4 * p.dies.length

/-- A NOTIFY of the queue has not yet written its status (R318, R320, R322). -/
def State.queueBusy (s : State) (pid q : Nat) : Bool :=
  s.regions.any (fun x => match x.2.origin with
    | .host p n _ _ => p == pid && (n.map (·.1)) == some q
    | _ => false) ||
  s.fabrics.any (fun f => f.pid == pid && (f.notify.map (·.1)) == some q)

/-- The range of a host request: where it starts, its status otherwise (R317). A range outside one page is status 1, a
failed translation status 2; nothing is performed. -/
def State.hostRange (s : State) (pid : Nat) (p : Partition) (queue len : Nat) (addr : Word) (k : AccKind) :
    State × Except Nat Xlat :=
  if !p.hasQueue queue || len < 8 || 4096 < len || len % 8 ≠ 0 || addr.toNat % 8 ≠ 0 || 2 ^ 56 < addr.toNat + len then
    (s, .error 1)
  else match s.xlat .hw pid none true k addr.toNat with
    | (s, .error _) => (s, .error 2)
    | (s, .ok x) =>
      if addr.toNat / 2 ^ x.size = (addr.toNat + len - 1) / 2 ^ x.size then (s, .ok x) else (s, .error 1)

/-- MRD (R317): the data, and the units that were poisoned. -/
def State.hostRead (s : State) (p : Partition) (pid queue len : Nat) (tag : BitVec 32) (addr : Word) : State :=
  match s.hostRange pid p queue len addr .read with
  | (s, .error c) => s.complete tag c
  | (s, .ok x) =>
    let bs := (List.range len).map (fun i => s.readOut x.host x.slot (x.key + i))
    let bad := (List.range (len / 8)).filter (fun u => ((bs[8 * u]?).map (·.2)).getD false)
    s.send (.completion tag (if bad.isEmpty then 0 else 3) (bs.map (·.1)) bad)

/-- MWR (R317): made on behalf of no region, so that no write-owner table applies. -/
def State.hostWrite (s : State) (p : Partition) (pid queue : Nat) (tag : BitVec 32) (addr : Word) (data : List Byte) : State :=
  match s.hostRange pid p queue data.length addr .write with
  | (s, .error c) => s.complete tag c
  | (s, .ok x) =>
    let units := intoUnits ((numberedFrom x.key data).map (fun y => (y.1, y.2, false)))
    (units.foldl (fun s (u, mask, d, p) => s.writeOut x.host x.slot u mask d p) s).complete tag 0

/-- The host stores to its own memory, or another package to its own: the bytes are those of State.mem, unencrypted here
(R319, R324). A key of this package's device memory is neither's. -/
def State.outsideStore (s : State) (key : Nat) (data : List Byte) : State :=
  if key < 2 ^ 46 then s else
  (intoUnits ((numberedFrom key data).map (fun y => (y.1, y.2, false)))).foldl
    (fun s (u, mask, d, p) => s.writeUnit none u mask d p) s

/-! ### Launches from the host (R320) -/

/-- The STATUS word of a NOTIFY can be written, PACKET is a place `launch` admits and translates: its bytes; 2 for a
translation that fails, `none` for an address of code 3 (08 R159). -/
def State.hostPacket (s : State) (pid root : Nat) (payload : List Byte) : State × Except Nat (Option (List Byte)) :=
  let status := fieldAt payload 16 8
  let packet := fieldAt payload 8 8
  match s.xlat .hw pid none true .write status with
  | (s, .error _) => (s, .error 2)
  | (s, .ok _) =>
    if packet % 64 ≠ 0 || 2 ^ 56 ≤ packet + 127 then (s, .ok none) else
    match s.readVirt .hw pid (some root) true packet 128 with
    | (s, .error _) => (s, .error 2)
    | (s, .ok l) => (s, .ok (some (l.map (·.1))))

/-- The fields of a NOTIFY's payload in range: kind, reserved bytes, alignment of STATUS. -/
def notifyOk (kind : Nat) (payload : List Byte) : Bool :=
  payload.length == 48 && fieldAt payload 0 8 == kind && fieldAt payload 28 4 == 0 && fieldAt payload 40 8 == 0 &&
  fieldAt payload 16 8 % 8 == 0 && fieldAt payload 16 8 < 2 ^ 56 && (kind != 0 || fieldAt payload 32 8 == 0)

/-- NOTIFY launch (R320): a child of the default block; the status word and the interrupt. A launch that waits for its tiles is
not performed yet: the status, the completion and the queue's next request come then (R318). -/
def State.hostLaunch (s : State) (p : Partition) (pid queue : Nat) (tag : BitVec 32) (payload : List Byte) : State :=
  if !p.hasQueue queue || !notifyOk 0 payload then s.complete tag 1 else
  let st := BitVec.ofNat 64 (fieldAt payload 16 8)
  let v := fieldAt payload 24 4
  match s.hostPacket pid p.root payload with
  | (s, .error c) => s.complete tag c
  | (s, .ok none) => (s.writeStatus pid st 3 v).complete tag 0
  | (s, .ok (some pk)) =>
    match s.launchRegion .hw true p.root pk (.host pid (some (queue, tag)) st v) none with
    | (s, .refused c) => (s.writeStatus pid st (BitVec.ofNat 64 c) v).complete tag 0
    | (s, .placing _) => s
    | (s, .fault _) => s.complete tag 2

/-! ### Fabric launches (R321-R323) -/

/-- A package list: count and entries of 8-byte words (log 30): fabric id and partition of each package. -/
def packageList (l : List Byte) (pid : Nat) : Option (List (Nat × Nat)) :=
  let n := fieldAt l 0 8
  if n = 0 || 64 < n then none else
  let ws := (List.range n).map (fun i => fieldAt l (8 + 8 * i) 8)
  let es := ws.map (fun w => (w % 2 ^ 16, w / 2 ^ 16 % 16))
  if ws.any (fun w => 2 ^ 20 ≤ w) || es.head? ≠ some (Config.fabricId % 2 ^ 16, pid) then none else some es

/-- A package's own copy of the packet: the first record's argument (R322). -/
def ownPacket (pk : List Byte) (place n gen : Nat) : List Byte := putField pk 24 8 (place + 2 ^ 8 * n + 2 ^ 32 * gen)

def State.fabric (s : State) (id : LaunchId) : Option Fabric := s.fabrics.find? (fun f => f.id == id)

def State.onFabric (s : State) (id : LaunchId) (g : Fabric → Fabric) : State :=
  { s with fabrics := s.fabrics.map (fun f => if f.id = id then g f else f) }

/-- The record of a fabric launch at this package, with a link key of its own (R322, 22 R338). -/
def State.addFabric (s : State) (f : Fabric) : State :=
  { s with nextId := s.nextId + 1, fabrics := s.fabrics.filter (fun x => x.id != f.id) ++ [{ f with key := s.nextId }] }

/-- NOTIFY fabric launch (R322): the origin chooses a generation, sends the packet and its attestation to every other package
over the ports of its partition (R321) and places its own region, whose refusal is a package's refusal. Without a port no
other package can be reached. The NOTIFY is performed when its status is written (R318). -/
def State.hostFabric (s : State) (p : Partition) (pid queue : Nat) (tag : BitVec 32) (payload : List Byte) : State :=
  let list := fieldAt payload 32 8
  if !p.hasQueue queue || !notifyOk 1 payload || list % 64 ≠ 0 || 2 ^ 56 < list + 8 then s.complete tag 1 else
  let st := BitVec.ofNat 64 (fieldAt payload 16 8)
  let v := fieldAt payload 24 4
  match s.hostPacket pid p.root payload with
  | (s, .error c) => s.complete tag c
  | (s, .ok opk) =>
    match s.readVirt .hw pid none true list 8 with
    | (s, .error _) => s.complete tag 2
    | (s, .ok n8) =>
      let len := 8 + 8 * min 64 (fieldAt (n8.map (·.1)) 0 8)
      if 2 ^ 56 < list + len then s.complete tag 1 else
      match s.readVirt .hw pid none true list len with
      | (s, .error _) => s.complete tag 2
      | (s, .ok l) =>
        let gen := if (s.fabricCount + 1) % 2 ^ 32 = 0 then 1 else (s.fabricCount + 1) % 2 ^ 32
        let s : State := { s with fabricCount := gen }
        let pkgs := (packageList (l.map (·.1)) pid).getD []
        let id : LaunchId := { origin := none, gen := gen }
        let s := s.addFabric
          { id := id, pid := pid, rid := none, place := 0, packages := pkgs, dies := [(0, p.dies)], key := 0
            started := false, status := some st, vector := v, notify := some (queue, tag) }
        match opk with
        | none => s.endFabric id 3 0
        | some pk =>
          if pkgs = [] then s.endFabric id 1 0 else
          let n := pkgs.length
          if 1 < n && p.ports == 0 then s.endFabric id 4 1 else
          let (s, rep) := s.report pid (List.replicate 32 0)
          let s : State :=
            { s with hostOut := s.hostOut ++ (pkgs.drop 1).map (fun e => .fabricPacket gen e.1 e.2 p.ports rep pk) }
          match s.launchRegion .hw true p.root (ownPacket pk 0 n gen) (.fabric id) (some id) with
          | (s, .placing rid) => s.onFabric id (fun x => { x with rid := some rid })
          | (s, _) => (s.endFabric id 4 0).send (.fabricKill id)

/-! ### The requests (R317, R318) -/

/-- A request is performed at the service core of its queue. A FENCE: each request is performed whole before the next, so the
earlier ones of its queue have been. A header with a reserved TYPE, or a NOTIFY or FENCE with a LENGTH or ADDRESS that is not 0:
status 1, nothing performed (R317). -/
def State.performed (s : State) (p : Partition) (pid queue : Nat) : HostReq → State
  | .mrd len tag addr => s.hostRead p pid queue len tag addr
  | .mwr tag addr data => s.hostWrite p pid queue tag addr data
  | .fence tag => s.complete tag (if p.hasQueue queue then 0 else 1)
  | .launch tag payload => s.hostLaunch p pid queue tag payload
  | .fabricLaunch tag payload => s.hostFabric p pid queue tag payload
  | .header type len tag addr => if 3 < type || (1 < type && (len != 0 || addr != 0)) then s.complete tag 1 else s

/-- A request reaches the service core of its queue: it waits while a NOTIFY of the queue is not performed (R318). -/
def State.request (s : State) (pid queue : Nat) (r : HostReq) : State :=
  match s.hostReaches pid with
  | none => s
  | some p =>
    if s.queueBusy pid queue then { s with waiting := s.waiting ++ [(pid, queue, r)] } else s.performed p pid queue r

/-- MRD (R317). -/
def execMrd (pid queue len : Nat) (tag : BitVec 32) (addr : Word) (s : State) : Host.Outcome State Fault Refusal :=
  .next (s.request pid queue (.mrd len tag addr))
/-- MWR (R317). -/
def execMwr (pid queue : Nat) (tag : BitVec 32) (addr : Word) (data : List Byte) (s : State) :
    Host.Outcome State Fault Refusal := .next (s.request pid queue (.mwr tag addr data))
/-- FENCE (R318). -/
def execFence (pid queue : Nat) (tag : BitVec 32) (s : State) : Host.Outcome State Fault Refusal :=
  .next (s.request pid queue (.fence tag))
/-- NOTIFY launch (R320). -/
def execNotifyLaunch (pid queue : Nat) (tag : BitVec 32) (payload : List Byte) (s : State) :
    Host.Outcome State Fault Refusal := .next (s.request pid queue (.launch tag payload))
/-- NOTIFY fabric launch (R322). -/
def execNotifyFabricLaunch (pid queue : Nat) (tag : BitVec 32) (payload : List Byte) (s : State) :
    Host.Outcome State Fault Refusal := .next (s.request pid queue (.fabricLaunch tag payload))

/-- The six stages of the measured boot have started (22 R336): the host link's firmware is the last of them. -/
def State.booted (s : State) : Bool := 6 ≤ s.bootStage && !s.recovery

/-- What arrives on a port that is none of its target partition's is dropped and counted (R321). -/
def State.onPort (s : State) (pid port : Nat) (k : Partition → State) : State :=
  match s.partition pid with
  | none => { s with portDropped := s.portDropped + 1 }
  | some p => if p.ports.getLsbD port then k p else { s with portDropped := s.portDropped + 1 }

/-- A fabric launch packet arrives at a listed package (R321, R322): it is placed, or refused; an origin whose attestation does
not verify is refused too (22 R338), and so is every launch at a package whose boot has not completed (22 R336). -/
def execFabricLaunchPacket (pid port : Nat) (id : LaunchId) (place count : Nat) (packet : FabricPacket) (s : State)
    : Host.Outcome State Fault Refusal :=
  .next (s.onPort pid port fun p =>
    if !s.booted || !packet.verified then s.send (.fabricRefused id place) else
    match s.launchRegion .hw true p.root (ownPacket packet.bytes place count id.gen) (.fabric id) (some id) with
    | (s, .placing rid) => s.addFabric
        { id := id, pid := pid, rid := some rid, place := place, packages := setAt (List.replicate count (0, 0)) place (Config.fabricId % 2 ^ 16, pid)
          dies := [(place, p.dies)], key := 0, started := false, status := none, vector := 0, notify := none }
    | (s, _) => s.send (.fabricRefused id place))

/-- What a home unit answers another package: the value and its mark. -/
def RegWrite.answer : RegWrite → List Byte × Bool
  | .s _ x m => (bytesOf x 8, m)
  | .v _ _ _ _ | .k _ _ _ => ([], false)

/-- The last place that an access names, and the second slot of an `xmerge`, read under the same key. -/
def FabricOp.last (pa : Nat) : FabricOp → Nat
  | .read n => pa + (n - 1)
  | .write data => pa + (data.length - 1)
  | .home (.xmerge y _) _ _ => y
  | .home _ _ _ => pa

def HomeKind.under (slot : Option Nat) : HomeKind → HomeKind
  | .xmerge y _ => .xmerge y slot
  | k => k

/-- Another package's access to device memory homed here (R321, R324): a place of the partition is read or written under its
default key, an operation of a home unit is performed in the unit's order; the answer goes back. A place of another partition
is not reached (R312). -/
def State.fabricRequest (s : State) (pid port pa : Nat) (op : FabricOp) : State :=
  s.onPort pid port fun p =>
    if !p.reaches pa then s.lost pa
    else if !p.reaches (op.last pa) then s.lost (op.last pa) else
    let slot := some p.kbase
    match op with
    | .read n =>
      let bs := (List.range n).map (fun i => s.readOut false slot (pa + i))
      s.send (.fabricReply (bs.map (·.1)) ((List.range n).filter (fun i => ((bs[i]?).map (·.2)).getD false)))
    | .write data =>
      ((intoUnits ((numberedFrom pa data).map (fun y => (y.1, y.2, false)))).foldl
        (fun s (u, mask, d, p) => s.writeUnit slot u mask d p) s).send (.fabricReply [] [])
    | .home kind x m =>
      let h : HomeOp := { kind := kind.under slot, sid := 0, taskNo := 0, key := pa, slot := slot, pid := pid, va := 0, size := 16
                          also := none, x := x, xMark := m, d := 1, e := 2, acq := 0, rel := none }
      let (s, w) := s.performHome h
      s.send (.fabricReply (w.flatMap (fun y => y.answer.1)) ((numbered w).filterMap (fun y => if y.2.answer.2 then some y.1 else none)))

/-- The first record of a region of a fabric launch becomes dispatchable (R322). -/
def State.releaseFirst (s : State) (rid : Nat) : State :=
  s.onRegion rid (fun r =>
    match r.first with
    | none => r
    | some f =>
      let i := f.task.lane
      { r with first := none, origin := .no
               lanes := (match r.lanes[i]? with
                 | some l => setAt r.lanes i { l with queue := l.queue ++ [{ f with t0 := s.meshTime, level := min 7 (laneLevel r i) }] }
                 | none => r.lanes) })

/-- Every package of the launch has placed. -/
def Fabric.allPlaced (f : Fabric) : Bool := (List.range f.packages.length).all (fun i => (lookupKey f.dies i).isSome)

/-- START_BARRIER (R322): every package has placed; the reports of the others come from outside (log 30). The first record
becomes dispatchable; the origin tells the others and writes its status. -/
def execStartBarrier (id : LaunchId) (s : State) : Host.Outcome State Fault Refusal :=
  match s.fabric id with
  | none => .next s
  | some f =>
    match f.rid.bind s.region with
    | none => .next s
    | some r =>
      if f.started || r.state ≠ .running || !f.allPlaced then .next s else
      let s := (s.releaseFirst (f.rid.getD 0)).onFabric id (fun f => { f with started := true })
      if f.place = 0 then .next ((s.endFabric id 0 0).send (.fabricStart id)) else .next s

/-- The region of a launch here is killed with the launch (R323). -/
def State.killFabric (s : State) (id : LaunchId) : State :=
  match (s.fabric id).bind (·.rid) with
  | none => s
  | some rid => if ((s.region rid).map (fun r => r.live && r.generation == some id)).getD false then s.kill rid else s

/-- PACKAGE_UNREACHABLE (R322, R323): a package of a launch that runs or is being placed. Code 5 of a running launch, also
where the origin's own region has ended or fallen already, code 4 of one that has not started. -/
def execPackageUnreachable (id : LaunchId) (place : Nat) (s : State) : Host.Outcome State Fault Refusal :=
  match s.fabric id with
  | none => .next s
  | some f => .next ((s.endFabric id (if f.started then 5 else 4) place).killFabric id)

/-- A launch that has not started is refused at its origin: code 4, and what it placed is killed (R322). -/
def State.refuseFabric (s : State) (id : LaunchId) (place : Nat) : State :=
  match s.fabric id with
  | none => s
  | some f => if f.started || f.place ≠ 0 then s else (s.endFabric id 4 place).killFabric id

/-- PACKAGE_REFUSED (R322): at the origin, before the start. -/
def execPackageRefused (id : LaunchId) (place : Nat) (s : State) : Host.Outcome State Fault Refusal :=
  .next (s.refuseFabric id place)

/-- A package of the list reports that it has placed, with its partition's dies and, where this package holds no list, who it is
(R322, R324). -/
def Fabric.hears (f : Fabric) (place : Nat) (who : Nat × Nat) (dies : List Nat) : Fabric :=
  if place < f.packages.length then
    { f with dies := putKey f.dies place dies
             packages := if f.id.origin.isNone || place = f.place then f.packages else setAt f.packages place who }
  else f

/-- The report of a package that has placed (R322); one whose attestation does not verify takes no part (22 R338). -/
def State.fabricReport (s : State) (id : LaunchId) (place : Nat) (who : Nat × Nat) (dies : List Nat) (verified : Bool) : State :=
  if verified then s.onFabric id (fun f => f.hears place who dies) else s.refuseFabric id place

/-- A region's launch goes on, its host request has ended (R319). -/
def Region.unasked (r : Region) : Region :=
  { r with origin := match r.origin with
      | .host pid _ st v => .host pid none st v
      | o => o }

/-- LINK_DOWN (R319): host requests, a NOTIFY whose launch still waits among them, end without completions. -/
def execLinkDown (s : State) : Host.Outcome State Fault Refusal :=
  .next { s with linkUp := false, waiting := [], regions := s.regions.map (fun x => (x.1, x.2.unasked))
                 fabrics := s.fabrics.map (fun f => { f with notify := none }) }
/-- LINK_TRAINED (R319): by the host link's firmware, once it runs (22 R336). -/
def execLinkTrained (s : State) : Host.Outcome State Fault Refusal := .next (if s.booted then { s with linkUp := true } else s)

/-! ### Keys (R314, R315) -/

/-- Slot k of a die loses the key it holds (R315). -/
def Die.loseKey (x : Die) (k : Nat) : Die :=
  if (lookupKey x.keys k).isSome then { x with keys := dropKey x.keys k, rekeyed := addNum x.rekeyed k } else x

/-- Slot k holds a fresh key on the listed dies. -/
def State.installKey (s : State) (dies : List Nat) (k : Nat) : State :=
  let v := s.nextId
  dies.foldl (fun s d => s.onDie d (fun x => { x.loseKey k with keys := putKey x.keys k v })) { s with nextId := v + 1 }

def State.clearKey (s : State) (dies : List Nat) (k : Nat) : State :=
  dies.foldl (fun s d => s.onDie d (fun x => x.loseKey k)) s

/-- KEYGEN (R314, R315). -/
def execKeygen (pid k : Nat) (s : State) : Host.Outcome State Fault Refusal :=
  match s.partition pid with
  | none => .next (s.managed false)
  | some p => if p.hasKey k then .next ((s.installKey p.dies k).managed true) else .next (s.managed false)

/-- KEYCLR (R314, R315): of the default key it is refused. -/
def execKeyclr (pid k : Nat) (s : State) : Host.Outcome State Fault Refusal :=
  match s.partition pid with
  | none => .next (s.managed false)
  | some p =>
    if p.hasKey k && k ≠ p.kbase then .next ((s.clearKey p.dies k).managed true) else .next (s.managed false)

/-- LATTOL (22 R334): the host's tolerance for the partition. -/
def execLattol (pid ns : Nat) (s : State) : Host.Outcome State Fault Refusal :=
  match s.partition pid with
  | none => .next (s.managed false)
  | some p => .next ((s.setPartition pid { p with tolerance := some ns }).managed true)

/-- ATTESTATION (22 R338): the report. -/
def execAttestation (pid : Nat) (nonce : List Byte) (s : State) : Host.Outcome State Fault Refusal :=
  match s.partition pid with
  | none => .next (s.managed false)
  | some _ =>
    if nonce.length ≠ 32 then .next (s.managed false) else
    .next ((s.report pid nonce).1.send (.report (s.report pid nonce).2))

/-! ### The partitioning (R310, R313) -/

/-- The dies next to a die in the grid. -/
def dieNext (d : Nat) : List Nat :=
  (if d % 4 = 0 then [] else [d - 1]) ++ (if d % 4 = 3 then [] else [d + 1]) ++ (if d < 4 then [] else [d - 4]) ++
  (if 8 ≤ d then [] else [d + 4])

/-- The dies of a set reached from the listed ones; the fuel is the number of dies. -/
def spreadDies (set : List Nat) : Nat → List Nat → List Nat
  | 0, l => l
  | n + 1, l => spreadDies set n ((l.flatMap dieNext).foldl (fun acc d => if set.contains d then addNum acc d else acc) l)

def edgeConnected (set : List Nat) : Bool :=
  match set with
  | [] => false
  | d :: _ => set.all (fun x => hasNum (spreadDies set Config.dieCount [d]) x)

/-- One partition alone (R310, R311). -/
def partOk (p : PartCfg) : Bool :=
  p.pid < 12 && p.dies.all (fun d => d < Config.dieCount) && p.dies.Nodup && edgeConnected p.dies && 1 ≤ p.kbase && 1 ≤ p.kcount &&
  p.kbase + p.kcount ≤ 512 && p.block.toNat % 64 == 0 && p.block.toNat + 512 ≤ 2 ^ 56

/-- Two partitions share nothing (R310). -/
def partApart (p q : PartCfg) : Bool :=
  p.pid != q.pid && p.dies.all (fun d => !q.dies.contains d) && p.ports &&& q.ports == 0 &&
  (p.kbase + p.kcount ≤ q.kbase || q.kbase + q.kcount ≤ p.kbase)

def partsApart : List PartCfg → Bool
  | [] => true
  | p :: r => r.all (partApart p) && partsApart r

/-- A valid partitioning (R310). -/
def partsOk (ports : BitVec 16) (l : List PartCfg) : Bool :=
  l.all partOk && partsApart l && l.all (fun p => p.ports &&& ~~~ ports == 0)

/-- A tile as a clean die has it (R313): scratchpad 0, caches and queues empty. Its power state stays. -/
def Tile.clean (t : Tile) : Tile :=
  { t with spad := [], spadPoison := [], deque := [], dqReserved := [], copies := [], tlb := [], relayTlb := []
           relay := Relay.fresh, seq := 0 }

/-- A core as a clean die has it (R313). -/
def Core.clean (k : Core) : Core := { k.wipe with l1 := [], tlb := [], mq := [], last := 3 }

/-- A die is brought to a clean state (R313): registers, scratchpads, weight buffers, tables, caches, streams, memory; no
operation that the old partition sent is performed on it any more. -/
def State.cleanDie (s : State) (d : Nat) : State :=
  let onDie : Nat → Bool := fun key => key < 12 * 2 ^ 36 && homeDie key == d
  { s with
    strands := s.strands.filter (fun x => dieOf x.1 != d)
    cores := s.cores.map (fun x => (x.1, if dieOfTile (x.1 / 4) = d then x.2.clean else x.2))
    tiles := s.tiles.map (fun x => (x.1, if dieOfTile x.1 = d then x.2.clean else x.2))
    dies := s.dies.map (fun x => (x.1, if x.1 = d then
      { x.2 with barriers := [], pins := [], builds := [], buildTlb := [], encTlb := [], encCmds := [], streams := []
                 credits := [], sprintUsed := 0, rekeyed := [] } else x.2))
    mem := s.mem.filter (fun c => !onDie c.1)
    memPoison := s.memPoison.filter (fun u => !onDie (8 * u))
    lineKey := s.lineKey.filter (fun c => !onDie (64 * c.1))
    lineScope := s.lineScope.filter (fun c => !onDie (64 * c.1))
    written := s.written.filter (fun w => dieOf w.sid != d)
    homeQ := s.homeQ.filter (fun h => !onDie h.key && dieOf h.sid != d) }

/-- A die that belongs to no partition is in its deepest idle state (R310). -/
def State.sleepDie (s : State) (d : Nat) : State :=
  (s.eachTile (fun t x => if dieOfTile t = d then { x with idle := 3 } else x)).onDie d (fun x => { x with idle := 4 })

/-- The physical stack area of a strand: 256 KiB in the top GiB of its die's memory (DESIGN CHOICE, log 12). -/
def stackArea (sid : Nat) : Nat :=
  let t := tileOf sid
  let pos := tileRow t % 16 * 16 + tileCol t % 16
  dieOfTile t * 2 ^ 36 + (2 ^ 36 - 2 ^ 30) + (pos * 16 + sid % 16) * 2 ^ 18

/-- STACKBASE of every strand of the listed tiles (19 R283). -/
def State.giveStacks (s : State) (tiles : List Nat) : State :=
  tiles.foldl (fun s t => (List.range 16).foldl (fun s i =>
    s.onStrand (16 * t + i) (fun x => { x with stackbase := BitVec.ofNat 64 (stackArea (16 * t + i)) })) s) s

def fullSegs : List (Option Seg) := some { base := 0, size := 0x100000, swz := 0 } :: List.replicate 7 none

/-- A default block (19 R283) on the listed tiles of n dies. -/
def defaultBlock (pid : Nat) (block save qarea tmap segtab : Word) (tiles : List Nat) (n : Nat) : Region :=
  { pid := pid, block := block, parent := none, state := .running, prio := 0, ordered := false, dual := false, fixed := false
    debug := false, scopetrap := false, mailbox := 16, rhome := 255, agek := 20, runlim := 26, drainlim := 16, kphase := 0
    fdomain := 0, fhandler := 0, globals := 0, qbudget := n * 2 ^ 30, bbudget := 4096 * n, pbudget := 4096 * n, bwdog := 30
    quota := 0
    lanes := List.replicate 16 { disabled := false, c := 10, o := 0, queue := [], reserved := 0, chain := [] }
    segtab := segtab, segs := fullSegs, winjoin := 0, wotab := 0, wo := [], savearea := save, qarea := qarea, tilemap := tmap
    leaseLeft := 0, leaseActive := false, leaseSlots := [], counters := List.replicate 8 0, tiles := tiles
    want := some tiles.length, rectW := tiles.length, rectH := 1, posns := (List.range tiles.length).map (fun i => (0, i))
    inherits := false, resuming := false, saveParked := false, requeue := [], faults := [], mail := [], windows := 0
    charged := (0, 0, 0), qused := 0, bused := 0, pused := 0, barriersHeld := 0, pinsHeld := 0, preemptAt := 0
    strandsSaved := [], dequesSaved := [], relaySaved := [], copiesSaved := [], dispatched := 0, tolerance := none, origin := .no, first := none
    generation := none, points := [] }

/-- Bytes that the root security core writes into a partition's memory when it forms it, before any table maps them: at the
physical address, under the default key (log 12). -/
def State.writePhys (s : State) (p : Partition) (pa : Nat) (l : List Byte) : State :=
  if p.reaches pa && p.reaches (pa + l.length - 1) then
    (intoUnits ((numberedFrom pa l).map (fun y => (y.1, y.2, false)))).foldl
      (fun s (u, mask, d, z) => s.writeUnit (some p.kbase) u mask d z) s
  else s

/-- A partition is formed (R283, R310, R314): its record, its default key, its stack areas, its default block with the bytes
of the block, of SEGTAB and of the tile map in memory. What is allotted lies on the partition's first die (log 12). -/
def State.formPartition (s : State) (c : PartCfg) : State :=
  let rid := s.nextId
  let s := { s with nextId := rid + 1 }
  let p : Partition :=
    { dies := c.dies.foldl addNum [], ports := c.ports, kbase := c.kbase, kcount := c.kcount, ptroot := 0, prqbase := 0
      root := rid, tolerance := none }
  let tiles := s.partTiles p
  let need := 16 * 32 * 2 ^ 10 + 128 * 16 * tiles.length
  let base : Word := BitVec.ofNat 64 (c.dies.headD 0 * 2 ^ 36)
  let (s, save) := s.allot (0x170400 * tiles.length)
  let (s, qarea) := s.allot need
  let (s, tmap) := s.allot (2 * tiles.length)
  let (s, segtab) := s.allot 64
  let r := defaultBlock c.pid c.block (base + save) (base + qarea) (base + tmap) (base + segtab) tiles p.dies.length
  let s := (((s.setPartition c.pid p).setRegion rid r).installKey p.dies c.kbase).giveStacks tiles
  ((s.writePhys p c.block.toNat (r.image s)).writePhys p (base + segtab).toNat (natBytes 0x100000000000 64)).writePhys p
    (base + tmap).toNat (tiles.flatMap (fun t => natBytes t 2))

/-- A partition ends (R313): its regions are killed, its keys are cleared, its fabric launches and waiting host requests are
gone. -/
def State.dissolve (s : State) (pid : Nat) (p : Partition) : State :=
  let s := s.kill p.root
  let s := (List.range p.kcount).foldl (fun s i => s.clearKey p.dies (p.kbase + i)) s
  { s with partitions := dropKey s.partitions pid, regions := s.regions.filter (fun x => x.2.pid != pid)
           fabrics := s.fabrics.filter (fun f => f.pid != pid), waiting := s.waiting.filter (fun x => x.1 != pid) }

/-- An old partition that stays: its dies are all kept, its key range too (R313). -/
def staysIn (pid : Nat) (p : Partition) (l : List PartCfg) : Bool :=
  l.any (fun c => c.pid == pid && p.dies.all c.dies.contains && c.kbase == p.kbase && c.kcount == p.kcount)

/-- A partition that stays gets its new dies and ports: their slots take the keys it holds, its default block their tiles, with
areas of the new size. -/
def State.extendPartition (s : State) (c : PartCfg) (p : Partition) : State :=
  let more := c.dies.filter (fun d => !p.dies.contains d)
  let p' : Partition := { p with dies := c.dies.foldl addNum [], ports := c.ports }
  let s := s.setPartition c.pid p'
  if more.isEmpty then s else
  let have' := ((s.die (p.dies.headD 0)).keys).filter (fun x => p.hasKey x.1)
  let s := more.foldl (fun s d => s.onDie d (fun x => { x with keys := have'.foldl (fun k y => putKey k y.1 y.2) x.keys })) s
  let tiles := s.partTiles p'
  let n := more.length
  let base : Word := BitVec.ofNat 64 (c.dies.headD 0 * 2 ^ 36)
  let (s, save) := s.allot (0x170400 * tiles.length)
  let (s, qarea) := s.allot (16 * 32 * 2 ^ 10 + 128 * 16 * tiles.length)
  let (s, tmap) := s.allot (2 * tiles.length)
  let s := (s.onRegion p.root (fun r => { r with
      savearea := base + save, qarea := base + qarea, tilemap := base + tmap
      tiles := tiles, want := some tiles.length, rectW := tiles.length, posns := (List.range tiles.length).map (fun i => (0, i))
      qbudget := r.qbudget + n * 2 ^ 30, bbudget := r.bbudget + 4096 * n, pbudget := r.pbudget + 4096 * n })).giveStacks
    (tiles.filter (fun t => more.contains (dieOfTile t)))
  match s.region p.root with
  | none => s
  | some r =>
    ((s.writePhys p' (r.block.toNat + 40) (((r.image s).drop 40).take 16)).writePhys p' (r.block.toNat + 120)
      (((r.image s).drop 120).take 24)).writePhys p' (base + tmap).toNat (tiles.flatMap (fun t => natBytes t 2))

/-- The partitioning becomes the listed one (R313): partitions that lose a die or their key range end, every die that leaves or
joins a partition is cleaned and the others keep their state, the new partitions are formed, dies of none fall into their
deepest idle state (R310), the operating points are cleared (22 R330). `all` ends every old partition. -/
def State.applyParts (s : State) (l : List PartCfg) (all : Bool) : State :=
  let old := s.partitions
  let ends := old.filter (fun x => all || !staysIn x.1 x.2 l)
  let kept := old.filter (fun x => !(all || !staysIn x.1 x.2 l))
  let ownerOld : Nat → Option Nat := fun d => (old.find? (fun x => x.2.dies.contains d)).map (·.1)
  let ownerNew : Nat → Option Nat := fun d => (l.find? (fun c => c.dies.contains d)).map (·.pid)
  let s := ends.foldl (fun s x => s.dissolve x.1 x.2) s
  let dirty := (List.range Config.dieCount).filter (fun d => ownerOld d != ownerNew d)
  let s := dirty.foldl State.cleanDie s
  let s := (dirty.filter (fun d => (ownerNew d).isNone)).foldl State.sleepDie s
  let s := l.foldl (fun s c =>
    match kept.find? (fun x => x.1 == c.pid) with
    | some x => s.extendPartition c x.2
    | none => s.formPartition c) s
  { s with ops := [] }

/-- PARTITIONING_CHANGE (R313): an invalid partitioning is refused. -/
def execPartitioningChange (parts : List PartCfg) (s : State) : Host.Outcome State Fault Refusal :=
  if partsOk s.ports parts then .next ((s.applyParts parts false).managed true) else .next (s.managed false)

end Sys2Proof.Machine
end

