-- ==== Sys2Proof/Machine/LoadStore.lean ====
section
/-! DEFINITION. Scalar loads and stores (06 R123, R124). -/

namespace Sys2Proof.Machine

/-- The address of an M-format access: the offset scaled by the size (05 R83, R104). -/
def scaled (t : Strand) (a : SReg) (k : BitVec 12) (n : Nat) : Word := t.rd a + t.imm k * BitVec.ofNat 64 n

def ldOp (s : State) (g : Guard) (d a : SReg) (k : BitVec 12) (n : Nat) (signed : Bool) : Host.Outcome State Fault Refusal :=
  run s { px := .immLoad, g := g, ss := [d, a] } <| poisonS s [a] <| scalarLoad s d (scaled s.me a k n) n signed .plain

def stOp (s : State) (g : Guard) (d a : SReg) (k : BitVec 12) (n : Nat) : Host.Outcome State Fault Refusal :=
  run s { px := .imm, g := g, ss := [d, a] } <| poisonS s [a] <| scalarStore s d (scaled s.me a k n) n none

/-- `ldB` (R123). -/
def execLdB (g : Guard) (d a : SReg) (k : BitVec 12) (s : State) : Host.Outcome State Fault Refusal := ldOp s g d a k 1 true
/-- `ldBz` (R123). -/
def execLdBz (g : Guard) (d a : SReg) (k : BitVec 12) (s : State) : Host.Outcome State Fault Refusal := ldOp s g d a k 1 false
/-- `ldH` (R123). -/
def execLdH (g : Guard) (d a : SReg) (k : BitVec 12) (s : State) : Host.Outcome State Fault Refusal := ldOp s g d a k 2 true
/-- `ldHz` (R123). -/
def execLdHz (g : Guard) (d a : SReg) (k : BitVec 12) (s : State) : Host.Outcome State Fault Refusal := ldOp s g d a k 2 false
/-- `ldW` (R123). -/
def execLdW (g : Guard) (d a : SReg) (k : BitVec 12) (s : State) : Host.Outcome State Fault Refusal := ldOp s g d a k 4 true
/-- `ldWz` (R123). -/
def execLdWz (g : Guard) (d a : SReg) (k : BitVec 12) (s : State) : Host.Outcome State Fault Refusal := ldOp s g d a k 4 false
/-- `ldD` (R123). -/
def execLdD (g : Guard) (d a : SReg) (k : BitVec 12) (s : State) : Host.Outcome State Fault Refusal := ldOp s g d a k 8 false
/-- `stB` (R123). -/
def execStB (g : Guard) (d a : SReg) (k : BitVec 12) (s : State) : Host.Outcome State Fault Refusal := stOp s g d a k 1
/-- `stH` (R123). -/
def execStH (g : Guard) (d a : SReg) (k : BitVec 12) (s : State) : Host.Outcome State Fault Refusal := stOp s g d a k 2
/-- `stW` (R123). -/
def execStW (g : Guard) (d a : SReg) (k : BitVec 12) (s : State) : Host.Outcome State Fault Refusal := stOp s g d a k 4
/-- `stD` (R123). -/
def execStD (g : Guard) (d a : SReg) (k : BitVec 12) (s : State) : Host.Outcome State Fault Refusal := stOp s g d a k 8
/-- A misaligned acquire or release access (R124). -/
def alignedOr (s : State) (a : Word) (n : Nat) (k : Act) : Act :=
  if a.toNat % n = 0 then k else .trap s 6 a

/-- Indexed load with its modifier (R124): 0 none, 1 `.vol`, 2 `.fg`, 4 to 7 `.acq` at a scope. In the scratchpad and
stack windows `.vol` and `.fg` act as plain accesses. -/
def execLdIndexed (g : Guard) (d a b : SReg) (size mod : BitVec 3) (s : State) : Host.Outcome State Fault Refusal :=
  let n := sizeBytes size
  let addr := s.me.rd a + s.me.rd b * BitVec.ofNat 64 n
  let signed := size == 0 || size == 2 || size == 4
  run s { px := .load, g := g, ss := [d, a, b] } <| poisonS s [a, b] <|
    if 4 ≤ mod.toNat then alignedOr s addr n (scalarLoad s d addr n signed (.acq (mod.truncate 2)))
    else scalarLoad s d addr n signed (if mod = 0 then .plain else .vol)

/-- Indexed store with its modifier (R124): a `.rel` store waits for every earlier access and put of the strand. -/
def execStIndexed (g : Guard) (d a b : SReg) (size mod : BitVec 3) (s : State) : Host.Outcome State Fault Refusal :=
  let n := sizeBytes size
  let addr := s.me.rd a + s.me.rd b * BitVec.ofNat 64 n
  run s { g := g, ss := [d, a, b] } <| poisonS s [a, b] <|
    if 4 ≤ mod.toNat then
      alignedOr s addr n (if s.writesOut s.cur then .stall s else scalarStore s d addr n (some (mod.truncate 2)))
    else scalarStore s d addr n none

end Sys2Proof.Machine
end

