-- ==== Sys2Proof/Machine/TreeBuild.lean ====
section
/-! DEFINITION. What a builder computes (10 R201-R204): degenerate primitives, MEDIAN and SAH16, node fields, quality
figures. Everything is exact and rounded once. -/

namespace Sys2Proof.Machine

/-! ### Primitives (R201) -/

def primSize (kind : Nat) : Nat := if kind = 0 then 16 else if kind = 1 then 32 else 48
/-- Coordinates a primitive uses. -/
def primCoords (kind : Nat) : Nat := 3 * (kind + 1)

def f32Val (x : Nat) : FVal := FFmt.f32.decode x
def f32Rat (x : Nat) : ℚ := (f32Val x).rat

/-- The record's coordinates and w, as FP32 bits. -/
def primOf (kind idx : Nat) (raw : List Byte) : Prim :=
  { idx := idx, coords := (List.range (primCoords kind)).map (fun i => leNat ((raw.drop (4 * i)).take 4))
    w := leNat ((raw.drop (4 * primCoords kind)).take 4) }

def Prim.c (p : Prim) (i : Nat) : Nat := (p.coords[i]?).getD 0
def Prim.q (p : Prim) (i : Nat) : ℚ := f32Rat (p.c i)

/-- The exact cross product (v1 - v0) × (v2 - v0) is zero. -/
def Prim.flat (p : Prim) : Bool :=
  let e : Nat → ℚ := fun k => p.q (3 + k) - p.q k
  let f : Nat → ℚ := fun k => p.q (6 + k) - p.q k
  decide (e 1 * f 2 - e 2 * f 1 = 0 ∧ e 2 * f 0 - e 0 * f 2 = 0 ∧ e 0 * f 1 - e 1 * f 0 = 0)

/-- A degenerate primitive (R201). -/
def Prim.degenerate (p : Prim) (kind summary : Nat) : Bool :=
  p.coords.any (fun x => (f32Val x).isNan || (f32Val x).isInf) ||
  (kind == 1 && (List.range 3).any (fun k => decide (p.q (3 + k) < p.q k))) ||
  (kind == 2 && p.flat) ||
  (summary != 0 && ((f32Val p.w).isNan || (f32Val p.w).isInf || decide (f32Rat p.w < 0)))

/-- Componentwise box, FP32 bits: -0 is less than +0 (R202). -/
def Prim.lo (p : Prim) (kind k : Nat) : Nat :=
  if kind = 2 then FFmt.f32.min (FFmt.f32.min (p.c k) (p.c (3 + k))) (p.c (6 + k)) else p.c k
def Prim.hi (p : Prim) (kind k : Nat) : Nat :=
  if kind = 0 then p.c k else if kind = 1 then p.c (3 + k)
  else FFmt.f32.max (FFmt.f32.max (p.c k) (p.c (3 + k))) (p.c (6 + k))

/-- A finite value times a positive rational; the sign of zero stays (04 R64). -/
def FVal.scale (x : FVal) (q : ℚ) : FVal :=
  match x with
  | .fin n m => .fin n (m * q)
  | y => y

/-- Centroid (R201). -/
def Prim.cen (p : Prim) (kind k : Nat) : FVal :=
  if kind = 0 then f32Val (p.c k)
  else if kind = 1 then (sumVals [f32Val (p.c k), f32Val (p.c (3 + k))]).scale (1 / 2)
  else (sumVals [f32Val (p.c k), f32Val (p.c (3 + k)), f32Val (p.c (6 + k))]).scale (1 / 3)

def Prim.cq (p : Prim) (kind k : Nat) : ℚ := (p.cen kind k).rat

/-! ### Boxes -/

/-- A box as exact values: minimum and maximum on each axis. -/
structure QBox where
  lo : Nat → ℚ
  hi : Nat → ℚ

def boxOf (kind : Nat) : List Prim → QBox
  | [] => ⟨fun _ => 0, fun _ => 0⟩
  | p :: r => r.foldl (fun b x =>
      ⟨fun k => min (b.lo k) (f32Rat (x.lo kind k)), fun k => max (b.hi k) (f32Rat (x.hi kind k))⟩)
      ⟨fun k => f32Rat (p.lo kind k), fun k => f32Rat (p.hi kind k)⟩

/-- A(B) (R204). -/
def QBox.area (b : QBox) : ℚ :=
  let d : Nat → ℚ := fun k => b.hi k - b.lo k
  d 0 * d 1 + d 1 * d 2 + d 2 * d 0

/-- A of the intersection, 0 when it is empty (R215). -/
def QBox.common (a b : QBox) : ℚ :=
  let c : QBox := ⟨fun k => max (a.lo k) (b.lo k), fun k => min (a.hi k) (b.hi k)⟩
  if (List.range 3).any (fun k => decide (c.hi k < c.lo k)) then 0 else c.area

/-! ### Splits (R203, R204) -/

def insertBy {α : Type} (lt : α → α → Bool) (x : α) : List α → List α
  | [] => [x]
  | y :: r => if lt x y then x :: y :: r else y :: insertBy lt x r

/-- A stable sort. -/
def sortBy {α : Type} (lt : α → α → Bool) (l : List α) : List α := l.foldl (fun acc x => insertBy lt x acc) []

def minQ (l : List ℚ) : ℚ :=
  match l with
  | [] => 0
  | x :: r => r.foldl min x
def maxQ (l : List ℚ) : ℚ :=
  match l with
  | [] => 0
  | x :: r => r.foldl max x

/-- Centroid bounds on an axis. -/
def cenBounds (kind k : Nat) (l : List Prim) : ℚ × ℚ :=
  (minQ (l.map (fun p => p.cq kind k)), maxQ (l.map (fun p => p.cq kind k)))

/-- MEDIAN (R203). -/
def splitMedian (kind : Nat) (l : List Prim) : List Prim × List Prim :=
  let ext : Nat → ℚ := fun k => (cenBounds kind k l).2 - (cenBounds kind k l).1
  let ax := if ext 1 ≤ ext 0 ∧ ext 2 ≤ ext 0 then 0 else if ext 2 ≤ ext 1 then 1 else 2
  let keyed := l.map (fun p => (p.cq kind ax, p))
  let o := (sortBy (fun a b => decide (a.1 < b.1) || (decide (a.1 = b.1) && a.2.idx < b.2.idx)) keyed).map (·.2)
  o.splitAt ((l.length + 1) / 2)

/-- One candidate of SAH16: its cost, the primitives of both parts. -/
def sahCandidates (kind : Nat) (l : List Prim) : List (ℚ × List Prim × List Prim) :=
  (List.range 3).flatMap (fun k =>
    let (lo, hi) := cenBounds kind k l
    if hi ≤ lo then [] else
    let binned := l.map (fun p => (min 15 ((16 * (p.cq kind k - lo) / (hi - lo)).floor.toNat), p))
    (List.range 15).filterMap (fun i =>
      let a := (binned.filter (fun x => x.1 < i + 1)).map (·.2)
      let b := (binned.filter (fun x => !(x.1 < i + 1))).map (·.2)
      if a.isEmpty || b.isEmpty then none
      else some ((boxOf kind a).area * a.length + (boxOf kind b).area * b.length, a, b)))

/-- SAH16 (R204): the least cost, ties to the first in the order x, y, z and lower plane; MEDIAN without a candidate. -/
def splitSah (kind : Nat) (l : List Prim) : List Prim × List Prim :=
  match sahCandidates kind l with
  | [] => splitMedian kind l
  | c :: r => (r.foldl (fun m x => if x.1 < m.1 then x else m) c).2

/-! ### Trees -/

/-- A tree over primitives; `fail` is a set found too deep. -/
inductive BTree where
  | leaf (l : List Prim)
  | node (a b : BTree)
  | fail (m : Nat)

/-- R203; the fuel is the number of levels that may still be split. -/
def growTree (kind algo leafsz : Nat) : Nat → Nat → List Prim → BTree
  | 0, _, l => if l.length ≤ leafsz then .leaf l else .fail l.length
  | n + 1, depth, l =>
    if l.length ≤ leafsz then .leaf l
    else if depth = 63 then .fail l.length
    else
      let (a, b) := if algo = 1 ∧ depth < 56 then splitSah kind l else splitMedian kind l
      .node (growTree kind algo leafsz n (depth + 1) a) (growTree kind algo leafsz n (depth + 1) b)

def BTree.prims : BTree → List Prim
  | .leaf l => l
  | .node a b => a.prims ++ b.prims
  | .fail _ => []

/-- The current generation's topology over its primitives in order-list order, from the node at place i (R212); root is
its ROOT. -/
def topoTree (topo : List (Nat × Nat × Nat)) (prims : List Prim) (root : Nat) : Nat → Nat → BTree
  | 0, _ => .leaf []
  | n + 1, i =>
    match topo[i]? with
    | none => .leaf []
    | some (c0, c1, _) =>
      if 2 ^ 31 ≤ c0 then .leaf ((prims.drop (c0 - 2 ^ 31)).take c1)
      else .node (topoTree topo prims root n (i + 1)) (topoTree topo prims root n (c1 - root))

/-- `rebal`: the nodes at depth D are rebuilt from their own primitives in ascending index (R212). -/
def rebuildAt (kind algo leafsz target : Nat) : BTree → Nat → BTree
  | t, depth =>
    if depth = target then
      growTree kind algo leafsz (64 - depth) depth (sortBy (fun a b => decide (a.idx < b.idx)) t.prims)
    else match t with
      | .node a b => .node (rebuildAt kind algo leafsz target a (depth + 1)) (rebuildAt kind algo leafsz target b (depth + 1))
      | x => x

/-! ### Node records (R200, R202) -/

/-- One node as it is written: its primitives, its children's fields, its parent, its depth. -/
structure NodeRec where
  prims : List Prim
  c0 : Nat
  c1 : Nat
  parent : Nat
  depth : Nat

/-- Nodes in preorder from place i, positions in the order list from pos; what a failing set holds ends the list. The ancestors of a
failing set are written without its primitives, their second child after the nodes that were formed (DESIGN CHOICE, log 80: R209
promises nothing of their contents). -/
def layTree : BTree → (start i pos depth : Nat) → (parent : Nat) → List NodeRec × List Prim × Option Nat
  | .leaf l, _, _, pos, depth, parent =>
    ([{ prims := l, c0 := 2 ^ 31 + pos, c1 := l.length, parent := parent, depth := depth }], l, none)
  | .fail m, _, _, _, _, _ => ([], [], some m)
  | .node a b, start, i, pos, depth, parent =>
    let me := start + i
    let (na, oa, fa) := layTree a start (i + 1) pos (depth + 1) me
    let j := i + 1 + na.length
    let here : NodeRec := { prims := a.prims ++ b.prims, c0 := start + i + 1, c1 := start + j, parent := parent, depth := depth }
    match fa with
    | some m => (here :: na, oa, some m)
    | none =>
      let (nb, ob, fb) := layTree b start j (pos + oa.length) (depth + 1) me
      (here :: na ++ nb, oa ++ ob, fb)

/-- The centre of a node on an axis as FP32 bits (R202). -/
def nodeCentre (kind summary : Nat) (l : List Prim) (loBits hiBits k : Nat) : Nat :=
  let w : ℚ := (l.map (fun p => f32Rat p.w)).foldl (· + ·) 0
  if summary = 0 ∨ w = 0 then FFmt.f32.ofVal .rne ((sumVals [f32Val loBits, f32Val hiBits]).scale (1 / 2))
  else FFmt.f32.ofVal .rne ((sumVals (l.map (fun p => (f32Val p.w).mul (p.cen kind k)))).scale (1 / w))

def foldBits (f : Nat → Nat → Nat) : List Nat → Nat
  | [] => 0
  | x :: r => r.foldl f x

/-- The 64 bytes of a node (R200). -/
def nodeBytes (kind summary gen : Nat) (n : NodeRec) : List Byte :=
  let lo : Nat → Nat := fun k => foldBits FFmt.f32.min (n.prims.map (fun p => p.lo kind k))
  let hi : Nat → Nat := fun k => foldBits FFmt.f32.max (n.prims.map (fun p => p.hi kind k))
  let c : Nat → Nat := fun k => nodeCentre kind summary n.prims (lo k) (hi k) k
  let far : Nat → ℚ := fun k =>
    let a := f32Rat (lo k) - f32Rat (c k)
    let b := f32Rat (hi k) - f32Rat (c k)
    max (a * a) (b * b)
  let d := far 0 + far 1 + far 2
  let radius := if d = 0 then 0 else FFmt.f32.sqrtMag .rup 24 d.num.natAbs d.den
  let w : ℚ := (n.prims.map (fun p => f32Rat p.w)).foldl (· + ·) 0
  let sum := if summary = 0 ∨ w = 0 then 0 else FFmt.f32.round .rne false w
  [lo 0, lo 1, lo 2, hi 0, hi 1, hi 2, c 0, c 1, c 2, radius, n.c0, n.c1, sum, n.prims.length, n.parent,
    n.depth * 2 ^ 24 + gen % 2 ^ 24].flatMap (fun x => natBytes x 4)

/-- SAHCOST and OVERLAP as FP32 bits (R215). -/
def treeCost (kind : Nat) : BTree → ℚ × ℚ
  | .leaf l => ((boxOf kind l).area * l.length, 0)
  | .fail _ => (0, 0)
  | .node a b =>
    let (ca, oa) := treeCost kind a
    let (cb, ob) := treeCost kind b
    ((boxOf kind (a.prims ++ b.prims)).area + ca + cb, oa + ob + (boxOf kind a.prims).common (boxOf kind b.prims))

def treeFigures (kind : Nat) (t : BTree) : Nat × Nat :=
  let root := (boxOf kind t.prims).area
  let (c, o) := treeCost kind t
  if root = 0 then (0, 0) else (FFmt.f32.round .rne false (c / root), FFmt.f32.round .rne false (o / root))

end Sys2Proof.Machine
end

