-- ==== Sys2Proof/Machine/RayMath.lean ====
section
/-! DEFINITION. The arithmetic of ray traversal (11 R229-R232): the box interval, the triangle test, micromap states. -/

namespace Sys2Proof.Machine

/-! ### Values -/

/-- x / y as an exact value; 0/0 and Inf/Inf are NaN (04 R64). -/
def FVal.div : FVal → FVal → FVal
  | .nan, _ => .nan
  | _, .nan => .nan
  | .inf _, .inf _ => .nan
  | .inf a, .fin b _ => .inf (a != b)
  | .fin a _, .inf b => .fin (a != b) 0
  | .fin a p, .fin b q => if q = 0 then (if p = 0 then .nan else .inf (a != b)) else .fin (a != b) (p / q)

/-- One operation of the test in a format: the exact result rounded once, RNE, as a value. -/
def roundTo (f : FFmt) (x : FVal) : FVal := f.decode (f.ofVal .rne x)
def addIn (f : FFmt) (x y : FVal) : FVal := f.decode (f.addV .rne x y)
def subIn (f : FFmt) (x y : FVal) : FVal := f.decode (f.addV .rne x y.neg)
def mulIn (f : FFmt) (x y : FVal) : FVal := roundTo f (x.mul y)
def divIn (f : FFmt) (x y : FVal) : FVal := roundTo f (x.div y)

/-- x ≤ y with no NaN. -/
def FVal.le (x y : FVal) : Bool := !x.isNan && !y.isNan && !y.less x

/-- -1, 0 or 1; 0 for a NaN. -/
def FVal.sign (x : FVal) : Int := if (FVal.fin false 0).less x then 1 else if x.less (.fin false 0) then -1 else 0

def FVal.bits32 (x : FVal) : Nat := FFmt.f32.ofVal .rne x

/-! ### The ray record (R227) -/

def rayF (r : List Byte) (i : Nat) : FVal := f32Val (fieldAt r i 4)
def rayOrg (r : List Byte) (k : Nat) : FVal := rayF r (4 * k)
def rayDir (r : List Byte) (k : Nat) : FVal := rayF r (16 + 4 * k)
def rayTmin (r : List Byte) : FVal := rayF r 12
def raySpill (r : List Byte) : Nat := fieldAt r 56 8
def raySkip (r : List Byte) : Bool := (fieldAt r 52 4).testBit 0
def rayFirst (r : List Byte) : Bool := (fieldAt r 52 4).testBit 1

/-- A bad ray (R227). The fields that may be NaN are the inputs; FLAGS [8] and [9] are outputs and not reserved. -/
def rayBad (r : List Byte) : Bool :=
  [0, 4, 8, 12, 16, 20, 24, 28].any (fun i => (rayF r i).isNan) || (List.range 3).all (fun k => (rayDir r k).isZero) ||
  (rayTmin r).less (.fin false 0) || (rayF r 28).less (rayTmin r) || raySpill r % 64 != 0 || 2 ^ 56 < raySpill r + 256 ||
  fieldAt r 48 4 != 0 || fieldAt r 52 4 &&& 0xFFFFFCFC != 0

/-! ### The box interval (R229) -/

/-- What an axis gives: missed, an interval, or an operand the rule does not cover (a NaN arises). -/
inductive AxisRes where
  | miss
  | span (lo hi : FVal)
  | unstated
deriving DecidableEq, Repr

def axisSpan (o d lo hi : FVal) : AxisRes :=
  if d.isZero then (if lo.le o && o.le hi then .span (.inf true) (.inf false) else .miss)
  else
    let a := (sumVals [lo, o.neg]).div d
    let b := (sumVals [hi, o.neg]).div d
    if a.isNan || b.isNan then .unstated
    else
      let (x, y) := if b.less a then (b, a) else (a, b)
      .span (FFmt.f32.decode (FFmt.f32.ofVal .rdn x)) (FFmt.f32.decode (FFmt.f32.ofVal .rup y))

def FVal.maxV (x y : FVal) : FVal := if x.less y then y else x
def FVal.minV (x y : FVal) : FVal := if y.less x then y else x

/-- The box of a node against a ray: the child's tnear when it is entered. -/
inductive BoxRes where
  | miss
  | enter (tnear : FVal)
  | unstated
deriving DecidableEq, Repr

def boxTest (r : List Byte) (tcur : FVal) (node : List Byte) : BoxRes :=
  let ax := (List.range 3).map (fun k => axisSpan (rayOrg r k) (rayDir r k) (rayF node (4 * k)) (rayF node (12 + 4 * k)))
  if ax.contains .miss then .miss
  else if ax.contains .unstated then .unstated
  else
    let near := ax.foldl (fun m x => match x with
      | .span lo _ => m.maxV lo
      | _ => m) (rayTmin r)
    let far := ax.foldl (fun m x => match x with
      | .span _ hi => m.minV hi
      | _ => m) tcur
    if near.le far then .enter near else .miss

/-! ### The triangle test (R230) -/

/-- The axis of greatest |DIR|, ties to x, then y. -/
def rayKz (r : List Byte) : Nat :=
  let m : Nat → FVal := fun k => match rayDir r k with
    | .fin _ p => .fin false p
    | .inf _ => .inf false
    | .nan => .nan
  if (m 1).le (m 0) && (m 2).le (m 0) then 0 else if (m 2).le (m 1) then 1 else 2

/-- Q.x × P.y - Q.y × P.x in a format. -/
def edgeIn (f : FFmt) (p q : FVal × FVal) : FVal := subIn f (mulIn f q.1 p.2) (mulIn f q.2 p.1)

/-- An edge from P to Q with its function E is inside (R230). -/
def edgeInside (sg : Int) (e : FVal) (p q : FVal × FVal) : Bool :=
  let dx := sg * (subIn FFmt.f32 q.1 p.1).sign
  let dy := sg * (subIn FFmt.f32 q.2 p.2).sign
  0 < sg * e.sign || (e.isZero && (0 < dy || (dy == 0 && dx < 0)))

/-- A hit of a triangle (9 FP32 coordinates) with t ≤ tcur: t, u, v as FP32 bits. The recomputed U, V and W stay FP64
values; every other operation rounds to FP32 (DEDUCED, log 28). -/
def triTest (r : List Byte) (tcur : FVal) (c : Nat → FVal) : Option (Nat × Nat × Nat) :=
  let f := FFmt.f32
  let kz := rayKz r
  let kx0 := (kz + 1) % 3
  let ky0 := (kx0 + 1) % 3
  let (kx, ky) := if (rayDir r kz).less (.fin false 0) then (ky0, kx0) else (kx0, ky0)
  let sx := divIn f (rayDir r kx) (rayDir r kz)
  let sy := divIn f (rayDir r ky) (rayDir r kz)
  let sz := divIn f (.fin false 1) (rayDir r kz)
  let rel : Nat → Nat → FVal := fun v k => subIn f (c (3 * v + k)) (rayOrg r k)
  let pt : Nat → (FVal × FVal) × FVal := fun v =>
    let z := rel v kz
    ((subIn f (rel v kx) (mulIn f sx z), subIn f (rel v ky) (mulIn f sy z)), mulIn f sz z)
  let (a, az) := pt 0
  let (b, bz) := pt 1
  let (d, dz) := pt 2
  let e32 := (edgeIn f b d, edgeIn f d a, edgeIn f a b)
  let any0 := e32.1.isZero || e32.2.1.isZero || e32.2.2.isZero
  let (u, v, w) := if any0 then (edgeIn FFmt.f64 b d, edgeIn FFmt.f64 d a, edgeIn FFmt.f64 a b) else e32
  let det := addIn f (addIn f u v) w
  let sg := det.sign
  if sg = 0 then none
  else if edgeInside sg u b d && edgeInside sg v d a && edgeInside sg w a b then
    let t := divIn f (addIn f (addIn f (mulIn f u az) (mulIn f v bz)) (mulIn f w dz)) det
    if (rayTmin r).le t && t.le tcur then some (t.bits32, (divIn f v det).bits32, (divIn f w det).bits32) else none
  else none

/-! ### Hits in key order (R228, R231) -/

/-- The key (t, instance, primitive) of x is less than that of y. -/
def Hit.before (x y : Hit) : Bool :=
  (f32Val x.t).less (f32Val y.t) || (!(f32Val y.t).less (f32Val x.t) && (x.inst < y.inst || (x.inst == y.inst && x.prim < y.prim)))

/-- The hit's key is less than best's. -/
def Hit.beats (x : Hit) : Option Hit → Bool
  | none => true
  | some b => x.before b

def insertHit (x : Hit) : List Hit → List Hit
  | [] => [x]
  | y :: r => if x.before y then x :: y :: r else y :: insertHit x r

/-! ### Micromaps (R232) -/

/-- The state number of a hit's weights at level l. -/
def micromapState (l ub vb : Nat) : Nat :=
  let n : Nat := 2 ^ l
  let u : ℚ := f32Rat ub * n
  let v : ℚ := f32Rat vb * n
  let a : Nat := min u.floor.toNat (n - 1)
  let b : Nat := min v.floor.toNat (n - 1 - a)
  let f : Nat := if 1 < (u - a) + (v - b) ∧ a + b < n - 1 then 1 else 0
  b * (2 * n - b) + 2 * a + f

end Sys2Proof.Machine
end

