-- ==== Sys2Proof/Machine/Trees.lean ====
section
/-! DEFINITION. The builder of a die (10 R198, R199, R205-R215): commands, the lock, steps, publication, pins and queries. -/

namespace Sys2Proof.Machine

/-! ### Headers (R198, R211) -/

def hdrAddrOk (x : Word) : Bool := x.toNat % 256 == 0 && x.toNat < 2 ^ 56

/-- The software fields are in range (BAD_HEADER otherwise). -/
def treeHeaderOk (h : List Byte) : Bool :=
  let pool := fieldAt h 0 8
  let cap := fieldAt h 8 4
  let prims := fieldAt h 24 8
  let n := fieldAt h 32 4
  let kind := fieldAt h 36 1
  pool % 64 == 0 && 1 ≤ cap && cap < 2 ^ 31 && pool + 64 * cap ≤ 2 ^ 56 && prims % 16 == 0 && 1 ≤ n && n ≤ 2 ^ 30 &&
  kind ≤ 2 && prims + primSize kind * n ≤ 2 ^ 56 && fieldAt h 37 1 ≤ 2 && fieldAt h 38 1 ≤ 1 && 1 ≤ fieldAt h 39 1 &&
  fieldAt h 39 1 ≤ 16 && fieldAt h 40 1 ≤ 1 && fieldAt h 41 3 == 0 && (h.drop 63).take 65 == List.replicate 65 0

/-- The slot a publication takes (R206). -/
def publishSlot (h : List Byte) : Nat :=
  match currentSlot h with
  | some c => (c + 1) % 8
  | none => 0

/-- The start block of a run of r blocks (R205). -/
def startBlock (h : List Byte) (r : Nat) : Option Nat :=
  let cap := fieldAt h 8 4
  let head := fieldAt h 12 4
  let tail := fieldAt h 16 4
  if (slots h).all (fun x => x.state == 0) then (if r ≤ cap then some 0 else none)
  else if tail < head then (if head + r ≤ cap then some head else if r ≤ tail then some 0 else none)
  else if head < tail then (if head + r ≤ tail then some head else none)
  else none

/-- The largest run that finds a start (R215). -/
def largestRun (h : List Byte) : Nat :=
  let cap := fieldAt h 8 4
  let head := fieldAt h 12 4
  let tail := fieldAt h 16 4
  if (slots h).all (fun x => x.state == 0) then cap
  else if tail < head then max (cap - head) tail
  else tail - head

def buildStatus (code detail : Nat) : Word := BitVec.ofNat 64 (code + 2 ^ 32 * detail)

/-- Writes bytes for a builder command. -/
def State.buildStore (s : State) (c : BuildCmd) (d : Nat) (l : List (Nat × Byte × Bool)) : State × Except (XErr × Nat) Unit :=
  s.engineStore (.builder d) c.issuer l

/-- One act at the header's home: none when another owner holds a byte of it (03 R62). -/
def State.actHeader (s : State) (c : BuildCmd) (d : Nat) (old new : List Byte) : State × Except (XErr × Nat) Bool :=
  let l := headerDiff c.hdr.toNat old new
  match woRefused s c.rid 2 (l.map (·.1)) with
  | some _ => (s, .ok false)
  | none =>
    match s.buildStore c d l with
    | (s, .error e) => (s, .error e)
    | (s, .ok _) => (s, .ok true)

def State.readHeader (s : State) (c : BuildCmd) (d : Nat) : State × Except (XErr × Nat) (List Byte) :=
  match s.readVirt (.builder d) (s.pidOfRegion c.rid) (some c.rid) c.super c.hdr.toNat 256 with
  | (s, .error e) => (s, .error e)
  | (s, .ok l) => (s, .ok (l.map (·.1)))

/-! ### Pins and queries (R213-R215) -/

/-- `gpin`: the status or the baton. -/
def State.gpinDo (s : State) (c : BuildCmd) (d : Nat) : State × Except (XErr × Nat) Word :=
  if !hdrAddrOk c.hdr then (s, .ok (buildStatus 5 0)) else
  match s.readHeader c d with
  | (s, .error e) => (s, .error e)
  | (s, .ok h) =>
    let r := s.region c.rid
    let left := (r.map (fun r => r.pbudget - r.pused - r.pinsHeld)).getD 0
    if !treeHeaderOk h then (s, .ok (buildStatus 5 0))
    else match currentSlot h with
      | none => (s, .ok (buildStatus 6 0))
      | some i =>
        let x := slotAt h i
        if fieldAt h 20 4 = 0 then (s, .ok (buildStatus 6 0))
        else if left = 0 || 4096 ≤ (s.die d).pins.length then (s, .ok (buildStatus 7 0))
        else
          match s.actHeader c d h (putSlot h i { x with pins := x.pins + 1 }) with
          | (s, .error e) => (s, .error e)
          | (s, .ok false) => (s, .ok (buildStatus 10 0))
          | (s, .ok true) =>
            let s := s.onDie d (fun y => { y with pins := y.pins ++ [{ rid := c.rid, hdr := c.hdr.toNat, gen := BitVec.ofNat 32 x.gen }] })
            let s := s.hold c.rid (fun r => { r with pinsHeld := r.pinsHeld + 1 })
            (s.acquire c.sid 2, .ok (BitVec.ofNat 64 (x.root + 2 ^ 32 * x.gen)))

/-- The die whose pin table holds the pin: the issuing one first, then the others, those the region ran on before a
pre-emption among them (R207, R214). -/
def State.pinDie (s : State) (rid hdr : Nat) (gen : BitVec 32) (d : Nat) : Option Nat :=
  let p : Pin := { rid := rid, hdr := hdr, gen := gen }
  (d :: s.dies.map (·.1)).find? (fun i => (s.die i).pins.contains p)

/-- `gunpin`: BAD_BATON where no entry is found, a header address that no pin can have among them. -/
def State.gunpinDo (s : State) (c : BuildCmd) (d : Nat) : State × Except (XErr × Nat) Word :=
  let gen : BitVec 32 := bits c.depth 32 32
  match s.pinDie c.rid c.hdr.toNat gen d with
  | none => (s, .ok (buildStatus 8 0))
  | some i =>
    match s.readHeader c d with
    | (s, .error e) => (s, .error e)
    | (s, .ok h) =>
      let h' := match findAt (fun x => x.state != 0 && x.gen == gen.toNat) (slots h) with
        | some k =>
          let x := slotAt h k
          let y := putSlot h k { x with pins := x.pins - 1 }
          if x.pins ≤ 1 then reclaim y else y
        | none => h
      match s.actHeader c d h h' with
      | (s, .error e) => (s, .error e)
      | (s, .ok false) => (s, .ok (buildStatus 10 0xFFFFFFFF))
      | (s, .ok true) =>
        let p : Pin := { rid := c.rid, hdr := c.hdr.toNat, gen := gen }
        let s := s.onDie i (fun y => { y with pins := y.pins.erase p })
        (s.hold c.rid (fun r => { r with pinsHeld := r.pinsHeld - 1 }), .ok 0)

/-- `bquery`. -/
def State.bqueryDo (s : State) (c : BuildCmd) (d : Nat) : State × Except (XErr × Nat) Word :=
  if !hdrAddrOk c.hdr then (s, .ok (buildStatus 5 0)) else
  match s.readHeader c d with
  | (s, .error e) => (s, .error e)
  | (s, .ok h) =>
    let sel := c.depth.toNat
    let v : Nat := match sel with
      | 0 => fieldAt h 20 4
      | 1 => fieldAt h 48 4
      | 2 => fieldAt h 62 1
      | 3 => fieldAt h 52 4
      | 4 => fieldAt h 60 2
      | 5 => fieldAt h 56 4
      | 6 => ((currentSlot h).map (fun i => (slotAt h i).pins)).getD 0
      | _ => largestRun h
    if !treeHeaderOk h then (s, .ok (buildStatus 5 0))
    else if 7 < sel then (s, .ok (buildStatus 9 0))
    else if 1 ≤ sel && sel ≤ 6 && fieldAt h 20 4 = 0 then (s, .ok (buildStatus 6 0))
    else (s, .ok (buildStatus 0 v))

def State.pinDo (s : State) (c : BuildCmd) (d : Nat) : State × Except (XErr × Nat) Word :=
  if c.kind = 3 then s.gpinDo c d else if c.kind = 4 then s.gunpinDo c d else s.bqueryDo c d

/-! ### Issue -/

def newBuild (s : State) (kind : Nat) (t : SReg) (hdr operand : Word) (acq rel : BitVec 1) (sc : BitVec 2) : BuildCmd :=
  { kind := kind, no := s.nextId, super := s.me.super, sid := s.cur, taskNo := s.me.taskNo, rid := s.me.rid, token := t, hdr := hdr
    depth := operand, acq := acq == 1, rel := rel == 1, scope := sc, phase := 0, header := [], order := [], ahead := [], prims := []
    topo := [], dropped := 0, start := 0, blocks := [], fail := none, nodes := 0, maxDepth := 0, sah := 0, overlap := 0
    parked := false }

/-- A builder command enters the builder of the issuing tile's die (R210). -/
def buildOp (s : State) (g : Guard) (acq : BitVec 1) (sc : BitVec 2) (t a b : SReg) (rel : BitVec 1) (kind : Nat) :
    Host.Outcome State Fault Refusal :=
  run s { g := g, ss := [t, a, b] } <| poisonS s [a, b] <| engineRoom s <|
    if !acqReady s acq then .stall s else
    irrevocable s fun s =>
      let c := newBuild s kind t (s.me.rd a) (s.me.rd b) acq rel sc
      .done (({ s with nextId := s.nextId + 1 }.onDie (dieOf s.cur) (fun d => { d with builds := d.builds ++ [c] })).pendToken t)

/-- `build` (R212). -/
def execBuild (g : Guard) (acq : BitVec 1) (sc : BitVec 2) (t a : SReg) (rel : BitVec 1) (s : State) :
    Host.Outcome State Fault Refusal := buildOp s g acq sc t a 0 rel 0
/-- `refit` (R212). -/
def execRefit (g : Guard) (acq : BitVec 1) (sc : BitVec 2) (t a : SReg) (rel : BitVec 1) (s : State) :
    Host.Outcome State Fault Refusal := buildOp s g acq sc t a 0 rel 1
/-- `rebal` (R212). -/
def execRebal (g : Guard) (acq : BitVec 1) (sc : BitVec 2) (t a b : SReg) (rel : BitVec 1) (s : State) :
    Host.Outcome State Fault Refusal := buildOp s g acq sc t a b rel 2

/-- `gpin`, `gunpin` and `bquery` take no lock and act at once (R209); where the header does not translate the command parks
in the builder until `replay` (20 R302). -/
def pinOp (s : State) (g : Guard) (t a b : SReg) (kind : Nat) : Host.Outcome State Fault Refusal :=
  run s { g := g, ss := [t, a, b] } <| poisonS s [a, b] <| engineRoom s <|
    let act : State → Act := fun s =>
      let c := newBuild s kind t (s.me.rd a) (s.me.rd b) 0 0 0
      let d := dieOf s.cur
      match s.pinDo c d with
      | (s, .ok x) => .done ((s.dropWritten c.sid c.no).onMe (fun y => y.wr t x false))
      | (s, .error e) =>
        let s := s.engineFault c.rid d 2 (if kind = 5 then .read else .write) e
        .done (({ s with nextId := s.nextId + 1 }.onDie d (fun y => { y with builds := y.builds ++ [{ c with parked := true }] })).pendToken t)
    if kind = 5 then act s else irrevocable s act

/-- `gpin` (R213). -/
def execGpin (g : Guard) (t a : SReg) (s : State) : Host.Outcome State Fault Refusal := pinOp s g t a 0 3
/-- `gunpin` (R214). -/
def execGunpin (g : Guard) (t a b : SReg) (s : State) : Host.Outcome State Fault Refusal := pinOp s g t a b 4
/-- `bquery` (R215). -/
def execBquery (g : Guard) (t a b : SReg) (s : State) : Host.Outcome State Fault Refusal := pinOp s g t a b 5

/-! ### Steps of the builder -/

def State.setBuild (s : State) (d idx : Nat) (c : BuildCmd) : State :=
  s.onDie d (fun x => { x with builds := setAt x.builds idx c })

/-- The command ends: the status is written (R211). -/
def State.buildEnds (s : State) (d idx : Nat) (c : BuildCmd) (x : Word) : State :=
  (s.onDie d (fun y => { y with builds := y.builds.eraseIdx idx })).commandEnds c.sid c.taskNo c.no c.token x

/-- The command waits for `replay` at its step, with its lock (R209). -/
def State.buildParks (s : State) (d idx : Nat) (c : BuildCmd) (k : AccKind) (e : XErr × Nat) : State :=
  (s.engineFault c.rid d 2 k e).setBuild d idx { c with parked := true }

/-- After a failure the lock is released and the ring is unchanged; a page fault on the header parks the command there
(R209). -/
def State.buildFails (s : State) (d idx : Nat) (c : BuildCmd) (x : Word) : State :=
  match s.unlock d c with
  | (s, .error e) => s.buildParks d idx { c with phase := 5, fail := some x } .write e
  | (s, .ok _) => s.buildEnds d idx c x

/-- A command may act: it is not parked and its region is not suspended (R209). -/
def buildRuns (s : State) (c : BuildCmd) : Bool :=
  !c.parked && (match s.region c.rid with
    | some r => r.state == .running || r.state == .preempting
    | none => false)

/-- The failure that the header and the operands give, in the order of R212. -/
def buildCheck (c : BuildCmd) (h : List Byte) : Option Word :=
  if !treeHeaderOk h then some (buildStatus 5 0)
  else if c.kind = 2 && 63 < c.depth.toNat then some (buildStatus 9 0)
  else if c.kind ≠ 0 && (fieldAt h 20 4 = 0 || (currentSlot h).isNone) then some (buildStatus 6 0)
  else if (slotAt h (publishSlot h)).state ≠ 0 then some (buildStatus 1 0)
  else none

/-- A command of the strand on the tree, issued before, has not ended: commands of one strand take the lock in issue order, also
where the strand has moved to another die (R209). -/
def State.buildBefore (s : State) (c : BuildCmd) : Bool :=
  s.dies.any (fun d => d.2.builds.any (fun x => x.sid == c.sid && x.hdr == c.hdr && decide (x.kind ≤ 2 ∧ x.no < c.no)))

/-- BUILDER_LOCK (R209): the idx-th command of a die takes its tree's lock and checks header and operands. -/
def execBuilderLock (die idx : Nat) (s : State) : Host.Outcome State Fault Refusal :=
  match (s.die die).builds[idx]? with
  | none => .next s
  | some c =>
    if c.phase ≠ 0 || 2 < c.kind || !buildRuns s c || s.buildBefore c then .next s
    else if !hdrAddrOk c.hdr then .next (s.buildEnds die idx c (buildStatus 5 0))
    else
      match s.readHeader c die with
      | (s, .error e) => .next (s.buildParks die idx c .read e)
      | (s, .ok h) =>
        if fieldAt h 44 4 ≠ 0 then .next s else
        match s.actHeader c die h (putField h 44 4 (1 + die)) with
        | (s, .error e) => .next (s.buildParks die idx c .write e)
        | (s, .ok false) => .next (s.buildEnds die idx c (buildStatus 10 0xFFFFFFFF))
        | (s, .ok true) =>
          let c := { c with phase := 1, header := putField h 44 4 (1 + die) }
          match buildCheck c h with
          | some x => .next (s.buildFails die idx c x)
          | none =>
            .next (s.setBuild die idx (if c.kind = 0 then { c with phase := 2, order := List.range (fieldAt h 32 4) } else c))

/-- The tree of a command over its kept primitives (R212). -/
def buildTree (c : BuildCmd) : BTree :=
  let h := c.header
  let kind := fieldAt h 36 1
  let algo := fieldAt h 38 1
  let leafsz := fieldAt h 39 1
  let root := ((currentSlot h).map (fun i => (slotAt h i).root)).getD 0
  if c.kind = 0 then growTree kind algo leafsz 64 0 c.prims
  else
    let t := topoTree c.topo c.prims root 64 0
    if c.kind = 1 then t else rebuildAt kind algo leafsz c.depth.toNat t 0

/-- The generation a command publishes (R206). -/
def nextGen (h : List Byte) : Nat := if fieldAt h 20 4 = 0xFFFFFFFF then 1 else fieldAt h 20 4 + 1

/-- The order list's blocks (R200). -/
def orderBlocks (l : List Nat) : List (List Byte) :=
  (List.range ((l.length + 15) / 16)).map (fun i =>
    let b := ((l.drop (16 * i)).take 16).flatMap (fun x => natBytes x 4)
    b ++ List.replicate (64 - b.length) 0)

/-- All primitives are read: the run is reserved and its blocks are planned, or the command fails (R212). -/
def planBuild (c : BuildCmd) : Except Word BuildCmd :=
  let h := c.header
  let n := c.prims.length
  let r := 2 * n - 1 + (n + 15) / 16
  if n = 0 then .error (buildStatus 6 0)
  else match startBlock h r with
    | none => .error (buildStatus 2 r)
    | some start =>
      let kind := fieldAt h 36 1
      let t := buildTree c
      let (nodes, order, bad) := layTree t start 0 0 0 0xFFFFFFFF
      let recs := nodes.map (nodeBytes kind (fieldAt h 37 1) (nextGen h))
      let all := if bad.isSome then recs else recs ++ orderBlocks (order.map (·.idx))
      let (sah, ov) := treeFigures kind t
      .ok { c with phase := 3, start := start, blocks := (numberedFrom start all), fail := bad.map (buildStatus 4)
                   nodes := nodes.length, maxDepth := (nodes.map (·.depth)).foldl max 0 + 1, sah := sah, overlap := ov }

/-- Bytes read from va on, where a unit read before has its bytes from then (03 R53). -/
def readOver (ahead : List UnitRead) (va : Nat) (l : List (Byte × Bool)) : List (Byte × Bool) :=
  (numberedFrom va l).map (fun y =>
    match ahead.find? (fun u => u.unit == y.1 / 8) with
    | some u => (u.bytes[y.1 % 8]?).getD y.2
    | none => y.2)

/-- The builder reads one unit of the next primitive before the others (R201); where its page does not translate nothing is
read. -/
def State.buildAhead (s : State) (die idx va : Nat) : State :=
  match (s.die die).builds[idx]? with
  | none => s
  | some c =>
    let kind := fieldAt c.header 36 1
    let lo := fieldAt c.header 24 8 + primSize kind * c.order.headD 0
    if !buildRuns s c || 3 ≤ c.kind || c.phase ≠ 2 || c.order = [] || va % 8 ≠ 0 || va < lo || lo + primSize kind < va + 8 then s
    else match s.readVirt (.builder die) (s.pidOfRegion c.rid) (some c.rid) c.super va 8 with
      | (_, .error _) => s
      | (s, .ok l) =>
        s.setBuild die idx { c with ahead :=
          { unit := va / 8, slot := none, host := false, past := true, bytes := l } :: c.ahead }

/-- BUILDER_STEP (R209): one step of a command that holds its lock: the read of the current generation, the scan of one
primitive, or the writing of one block. Parked pins and queries act again here. -/
def execBuilderStep (die idx : Nat) (s : State) : Host.Outcome State Fault Refusal :=
  match (s.die die).builds[idx]? with
  | none => .next s
  | some c =>
    if !buildRuns s c then .next s else
    let pid := s.pidOfRegion c.rid
    let read : Nat → Nat → State × Except (XErr × Nat) (List (Byte × Bool)) :=
      fun va n => s.readVirt (.builder die) pid (some c.rid) c.super va n
    if 3 ≤ c.kind then
      match s.pinDo c die with
      | (s, .ok x) => .next (s.buildEnds die idx c x)
      | (s, .error e) => .next (s.buildParks die idx c (if c.kind = 5 then .read else .write) e)
    else
      let h := c.header
      let pool := fieldAt h 0 8
      match c.phase with
      | 1 =>
        let sl := slotAt h ((currentSlot h).getD 0)
        match read (pool + 64 * sl.root) (64 * sl.nodes) with
        | (s, .error e) => .next (s.buildParks die idx c .read e)
        | (s, .ok l) =>
          let b := l.map (·.1)
          let n := fieldAt b 52 4
          match s.readVirt (.builder die) pid (some c.rid) c.super (pool + 64 * (sl.root + sl.nodes)) (4 * n) with
          | (s, .error e) => .next (s.buildParks die idx c .read e)
          | (s, .ok o) =>
            .next (s.setBuild die idx { c with
              phase := 2
              topo := (List.range sl.nodes).map (fun i => (fieldAt b (64 * i + 40) 4, fieldAt b (64 * i + 44) 4, fieldAt b (64 * i + 52) 4))
              order := (List.range n).map (fun i => fieldAt (o.map (·.1)) (4 * i) 4) })
      | 2 =>
        match c.order with
        | [] =>
          match planBuild c with
          | .error x => .next (s.buildFails die idx c x)
          | .ok c => .next (s.setBuild die idx c)
        | i :: rest =>
          let kind := fieldAt h 36 1
          match read (fieldAt h 24 8 + primSize kind * i) (primSize kind) with
          | (s, .error e) => .next (s.buildParks die idx c .read e)
          | (s, .ok l) =>
            let p := primOf kind i ((readOver c.ahead (fieldAt h 24 8 + primSize kind * i) l).map (·.1))
            if p.degenerate kind (fieldAt h 37 1) then
              if c.kind ≠ 0 || (fieldAt h 40 1).testBit 0 then .next (s.buildFails die idx c (buildStatus 3 i))
              else .next (s.setBuild die idx { c with order := rest, ahead := [], dropped := c.dropped + 1 })
            else .next (s.setBuild die idx { c with order := rest, ahead := [], prims := c.prims ++ [p] })
      | 3 =>
        match c.blocks with
        | [] =>
          match c.fail with
          | some x => .next (s.buildFails die idx c x)
          | none => .next (s.setBuild die idx { c with phase := 4 })
        | (i, bs) :: rest =>
          let l := (numberedFrom (pool + 64 * i) bs).map (fun x => (x.1, x.2, false))
          match woRefused s c.rid 2 (l.map (·.1)) with
          | some _ => .next (s.buildFails die idx c (buildStatus 10 i))
          | none =>
            match s.buildStore c die l with
            | (s, .error e) => .next (s.buildParks die idx c .write e)
            | (s, .ok _) => .next (s.setBuild die idx { c with blocks := rest })
      | 5 => .next (s.buildFails die idx c (c.fail.getD 0))
      | _ => .next s

/-- The header after a publication (R206, R212), before reclamation; the lock is released. -/
def published (c : BuildCmd) (h : List Byte) : List Byte :=
  let gen := nextGen h
  let slot := publishSlot h
  let n := c.prims.length
  let h' := match currentSlot h with
    | some i => putSlot h i { slotAt h i with state := 2 }
    | none => h
  let h' := putSlot h' slot { gen := gen, root := c.start, nodes := c.nodes, pins := 0, state := 1 }
  let h' := putField (putField h' 20 4 gen) 12 4 (c.start + c.nodes + (n + 15) / 16)
  let h' := putField (putField (putField h' 48 4 c.sah) 52 4 c.overlap) 62 1 c.maxDepth
  let h' := if c.kind = 0 then putField h' 56 4 c.dropped else h'
  let refits := if c.kind = 0 then 0 else if c.kind = 1 then min 65535 (fieldAt h 60 2 + 1)
    else if c.depth = 0 then 0 else fieldAt h 60 2
  putField (putField h' 60 2 refits) 44 4 0

/-- The publication releases the node and order blocks at pkg scope (R206), wider where the command's own `.rel` is: in a debug
region the lines it has written carry that (03 R61). -/
def State.releasePublished (s : State) (c : BuildCmd) (d : Nat) : State :=
  s.tagLines (.builder d) c.rid (some (if c.rel && c.scope == 3 then 3 else 2)) (s.writtenBy c.no)

/-- PUBLISH (R206, R208): one act at the header's home. -/
def execPublish (die idx : Nat) (s : State) : Host.Outcome State Fault Refusal :=
  match (s.die die).builds[idx]? with
  | none => .next s
  | some c =>
    if c.phase ≠ 4 || !buildRuns s c then .next s else
    match s.readHeader c die with
    | (s, .error e) => .next (s.buildParks die idx c .read e)
    | (s, .ok h) =>
      match s.actHeader c die h (reclaim (published c h)) with
      | (s, .error e) => .next (s.buildParks die idx c .write e)
      | (s, .ok false) => .next (s.buildFails die idx c (buildStatus 10 0xFFFFFFFF))
      | (s, .ok true) => .next ((s.releasePublished c die).buildEnds die idx c (buildStatus 0 (nextGen h)))

end Sys2Proof.Machine
end

