-- ==== Sys2Proof/Machine/VectorMem.lean ====
section
/-! DEFINITION. Vector loads and stores (07 R137-R140). -/

namespace Sys2Proof.Machine

/-- The enabled bytes of a register, or of element i. -/
def enabledBytes (en : BitVec 64) : List Nat := (List.range 64).filter (fun j => en.getLsbD j)
def elemBytes (en : BitVec 64) (n i : Nat) : List Nat := (List.range n).filter (fun j => en.getLsbD (i * n + j))

/-- A register image from (place, byte, poison): value, enabled bytes, marked units. -/
def gatherBytes (l : List (Nat × Byte × Bool)) : Vec × BitVec 64 × BitVec 8 :=
  l.foldl (fun (v, e, m) (j, b, p) =>
    (v ||| (b.zeroExtend 512 <<< (8 * j)), e ||| BitVec.twoPow 64 j, if p then m ||| BitVec.twoPow 8 (j / 8) else m)) (0, 0, 0)

/-- The address of an access of 64 bytes (R137). -/
def vecAddr (t : Strand) (a : SReg) (k : BitVec 9) : Word := t.rd a + k.signExtend 64 * 64

/-- `vld` and its forms (R137). -/
def vecLoad (s : State) (g : Guard) (d : VReg) (a : SReg) (k : BitVec 9) (how : How) : Host.Outcome State Fault Refusal :=
  run s { px := .load, g := g, perByte := true, vs := [d], ss := [a] } <|
    let en := s.me.guardBytes g
    if en = 0 then .done s else
    poisonS s [a] <| memRoom s <|
      let offs := enabledBytes en
      loadBytes s (vecAddr s.me a k) offs how fun s bs _ =>
        let (v, e, m) := gatherBytes (offs.zip bs)
        .done (s.addLoad [.v d v e m])

/-- The enabled bytes of V[d] for a store: a byte of a marked unit carries poison (R136). -/
def storeList (t : Strand) (d : VReg) (base : Nat) (offs : List Nat) : List (Nat × Byte × Bool) :=
  offs.map (fun j => (j, byteAt (t.rdV d) (base + j), bitOf (t.markV d) ((base + j) / 8)))

/-- Element accesses in ascending order, each its own access (R138, R139): from (element, address), the state after and
the bytes read with their places; else what happens instead. -/
def State.gathering (en : BitVec 64) (n : Nat) : List (Nat × Word) → State → Except Act (State × List (Nat × Byte × Bool))
  | [], s => .ok (s, [])
  | (i, a) :: r, s =>
    let offs := elemBytes en n i
    match s.reading a offs .plain with
    | .error x => .error x
    | .ok (s, bs, _) =>
      match State.gathering en n r s with
      | .error x => .error x
      | .ok (s, l) => .ok (s, (offs.zip bs).map (fun (j, b, p) => (i * n + j, b, p)) ++ l)

/-- Units that join those of a store buffer (02 R37). -/
def joinUnits (held units : List Nat) : List Nat := units.foldl (fun l u => if l.contains u then l else l ++ [u]) held

/-- Every element of a gather or scatter is translated and checked, in ascending order, before any is performed (R139).
`held`: the units that the store buffer would hold by then; a dual run that overflows it takes its trap at the element that does
(02 R37, R38). -/
def State.checking (k : AccKind) (en : BitVec 64) (n : Nat) : List (Nat × Word) → List Nat → State → Except Act State
  | [], _, s => .ok s
  | (i, a) :: r, held, s =>
    match elemBytes en n i with
    | [] => State.checking k en n r held s
    | o :: os =>
      let f := (a + BitVec.ofNat 64 o).toNat
      let l := f + (os.getLastD o - o)
      match winOf f l with
      | .error c => .error (.trap s c (BitVec.ofNat 64 f))
      | .ok .glob =>
        let t := s.me
        let vas := (o :: os).map (fun j => f + (j - o))
        match s.xlats (.core (coreOf s.cur)) (s.pidOfRegion t.rid) (some t.rid) t.super k vas [] with
        | (s, .error e) => .error (xlatFault s k e)
        | (s, .ok m) =>
          match (if k.writes then woRefused s t.rid 0 vas else none) with
          | some va => .error (.trap s 0x0C (BitVec.ofNat 64 va))
          | none =>
            let held := joinUnits held (vas.map (fun va => (placeOf m va).key / 8))
            if k.writes && t.dual.isSome && Config.storeBufferUnits < held.length then .error (.trap s 0x13 0)
            else State.checking k en n r held s
      | .ok .spad =>
        if 0 < s.matrixOut s.cur || ((!k.writes || s.me.super) && s.bankBusy s.cur (f - spadBase) ((o :: os).map (· - o))) then
          .error (.stall s)
        else if k.writes && s.me.dual.isSome then .error (.trap s 0x13 0)
        else State.checking k en n r held s
      | .ok .stack =>
        if !paExists (stackKey s l) then .error (.stop .noSuchMemory)
        else if !k.writes && !stackReach s (stackKey s l) then .error (stackLost s (stackKey s l))
        else State.checking k en n r held s

/-- The stores of an irrevocable task are performed now. -/
def State.performNow (s : State) (sid : Nat) : State :=
  if (s.strand sid).restartable then s else (s.flushSpad sid).drain sid

/-- The stores of a scatter, in ascending element order, all under the label of the instruction: they count once (05 R101,
log 42). `now`: each is performed before the next. -/
def State.scattering (label : Nat) (d : VReg) (en : BitVec 64) (n : Nat) (now : Bool) :
    List (Nat × Word) → State → Except Act State
  | [], s => .ok s
  | (i, a) :: r, s =>
    match s.storingAs label i a (storeList s.me d (i * n) (elemBytes en n i)) none with
    | .error x => .error x
    | .ok s => State.scattering label d en n now r (if now then s.performNow s.cur else s)

/-- The units that the strand's store buffer holds. -/
def Strand.heldUnits (t : Strand) : List Nat := Sys2Proof.Machine.heldUnits t.buf

/-- The first performed byte of an element lies in the scratchpad window. -/
def inSpad (en : BitVec 64) (n : Nat) (x : Nat × Word) : Bool :=
  match elemBytes en n x.1 with
  | [] => false
  | o :: _ => let f := (x.2 + BitVec.ofNat 64 o).toNat; spadBase ≤ f && f < spadBase + 2 ^ 20

/-- A gathered register is on its way to V[d]. -/
def addGather (d : VReg) : Except Act (State × List (Nat × Byte × Bool)) → Act
  | .error x => x
  | .ok (s, l) =>
    let (v, e, m) := gatherBytes l
    .done (s.addLoad [.v d v e m])

/-- The live elements with the address f gives each. -/
def liveElems (en : BitVec 64) (n : Nat) (f : Nat → Word) : List (Nat × Word) :=
  ((List.range (64 / n)).filter (elemLive en n)).map (fun i => (i, f i))

/-- The address of a live element of a gather or scatter (R139). -/
def indexAddr (t : Strand) (a : SReg) (x : VReg) (n i : Nat) : Word :=
  t.rd a + (BitVec.ofNat (8 * n) (elemOf (t.rdV x) n i)).signExtend 64 * BitVec.ofNat 64 n

/-- A marked index element of a live element traps (R136): the marks of all of them are tested before any element is translated
(DESIGN CHOICE, log 65). -/
def indexMarked (t : Strand) (en : BitVec 64) (x : VReg) (n : Nat) : Bool :=
  (List.range (64 / n)).any (fun i => elemLive en n i && elemMark (t.markV x) n i)

/-- `vld` (R137). -/
def execVld (g : Guard) (d : VReg) (a : SReg) (k : BitVec 9) (s : State) : Host.Outcome State Fault Refusal := vecLoad s g d a k .plain
/-- `vld.vol` (R137, 03 R50). -/
def execVldVol (g : Guard) (d : VReg) (a : SReg) (k : BitVec 9) (s : State) : Host.Outcome State Fault Refusal := vecLoad s g d a k .vol
/-- `vld.fg` (R137, 03 R52). -/
def execVldFg (g : Guard) (d : VReg) (a : SReg) (k : BitVec 9) (s : State) : Host.Outcome State Fault Refusal := vecLoad s g d a k .vol

/-- `vst` (R137). -/
def execVst (g : Guard) (d : VReg) (a : SReg) (k : BitVec 9) (s : State) : Host.Outcome State Fault Refusal :=
  run s { g := g, perByte := true, vs := [d], ss := [a] } <|
    let en := s.me.guardBytes g
    if en = 0 then .done s else
    poisonS s [a] <| memRoom s <| storeBytes s (vecAddr s.me a k) (storeList s.me d 0 (enabledBytes en)) none .done

/-- `vlds` (R138). -/
def execVlds (g : Guard) (d : VReg) (a st : SReg) (w : BitVec 2) (s : State) : Host.Outcome State Fault Refusal :=
  run s { px := .load, g := g, perByte := true, vs := [d], ss := [a, st] } <|
    let t := s.me
    let en := t.guardBytes g
    let n : Nat := 2 ^ w.toNat
    if en = 0 then .done s else
    poisonS s [a, st] <| memRoom s <|
      addGather d (State.gathering en n (liveElems en n (fun i => t.rd a + BitVec.ofNat 64 i * t.rd st)) s)

/-- `vldx` (R139). -/
def execVldx (g : Guard) (d : VReg) (a : SReg) (x : VReg) (w : BitVec 2) (s : State) : Host.Outcome State Fault Refusal :=
  run s { px := .load, g := g, perByte := true, vs := [d, x], ss := [a] } <|
    let t := s.me
    let en := t.guardBytes g
    let n : Nat := 2 ^ w.toNat
    if en = 0 then .done s else
    poisonS s [a] <|
    if indexMarked t en x n then trapV s x else memRoom s <|
      let l := liveElems en n (indexAddr t a x n)
      match State.checking .read en n l t.heldUnits s with
      | .error x => x
      | .ok s => addGather d (State.gathering en n l s)

/-- `vstx` (R139): elements are performed in ascending order. One whose elements lie in the scratchpad and elsewhere waits for the
strand's earlier stores and performs them all at once (log 5). -/
def execVstx (g : Guard) (d : VReg) (a : SReg) (x : VReg) (w : BitVec 2) (s : State) : Host.Outcome State Fault Refusal :=
  run s { g := g, perByte := true, vs := [d, x], ss := [a] } <|
    let t := s.me
    let en := t.guardBytes g
    let n : Nat := 2 ^ w.toNat
    if en = 0 then .done s else
    poisonS s [a] <|
    if indexMarked t en x n then trapV s x else memRoom s <|
      let l := liveElems en n (indexAddr t a x n)
      match State.checking .write en n l t.heldUnits s with
      | .error x => x
      | .ok s =>
        let mixed := l.any (inSpad en n) && !l.all (inSpad en n)
        if mixed && 0 < s.storesOut s.cur then .stall s else
        match State.scattering t.nextIssued d en n mixed l s with
        | .error x => x
        | .ok s => .done s

end Sys2Proof.Machine
end

