-- ==== Sys2Proof/Machine/Relay.lean ====
section
/-! DEFINITION. The relay unit of a tile (11 R216-R236): commands, pair and ray steps, stealing, handlers, verdicts. -/

namespace Sys2Proof.Machine

/-! ### Instructions (R233-R236) -/

/-- `pairgo` and `raygo` (R234): an irrevocable act and a release at pkg scope; the command waits in the tile's unit. -/
def goOp (s : State) (g : Guard) (acq : BitVec 1) (sc : BitVec 2) (t a : SReg) (rel : BitVec 1) (ray : Bool) :
    Host.Outcome State Fault Refusal :=
  run s { g := g, ss := [t, a] } <| poisonS s [a] <| engineRoom s <|
    if 8 ≤ (s.tile (tileOf s.cur)).relay.cmds.length || s.writesOut s.cur || s.homeBusy s.cur || !acqReady s acq then .stall s else
    irrevocable s fun s =>
      let x := s.me
      let c : RelayCmd :=
        { no := s.nextId, ray := ray, super := x.super, sid := s.cur, taskNo := x.taskNo, rid := x.rid, token := t, desc := x.rd a
          acq := acq == 1, rel := rel == 1, scope := sc }
      .done (({ s with nextId := s.nextId + 1 }.onTile (tileOf s.cur) (fun y =>
        { y with relay := { y.relay with cmds := y.relay.cmds ++ [c] } })).pendToken t)

/-- `pairgo` (R234). -/
def execPairgo (g : Guard) (acq : BitVec 1) (sc : BitVec 2) (t a : SReg) (rel : BitVec 1) (s : State) :
    Host.Outcome State Fault Refusal := goOp s g acq sc t a rel false
/-- `raygo` (R234). -/
def execRaygo (g : Guard) (acq : BitVec 1) (sc : BitVec 2) (t a : SReg) (rel : BitVec 1) (s : State) :
    Host.Outcome State Fault Refusal := goOp s g acq sc t a rel true

/-- `nld` (R235). -/
def execNld (g : Guard) (d : VReg) (a b : SReg) (s : State) : Host.Outcome State Fault Refusal :=
  run s { g := g, vs := [d], ss := [a, b] } <| poisonS s [a, b] <| memRoom s <|
    let t := s.me
    -- the sum has no bound (01 R6): one at or past 2^56 is no node's address
    let n := (t.rd a).toNat + 64 * fld (t.rd b) 0 32
    let x : Word := BitVec.ofNat 64 n
    if n % 64 ≠ 0 || 2 ^ 56 ≤ n then .trap s 6 x
    else
      let offs := List.range 64
      loadBytes s x offs .vol fun s bs _ =>
        let gen := fld (t.rd b) 32 32
        let (v, e, m) := gatherBytes (offs.zip bs)
        if gen ≠ 0 && fld v 480 24 ≠ gen % 2 ^ 24 then .trap s 0x28 x
        else .done (s.addLoad [.v d v e m])

/-- A verdict that took effect at its issue: the handlers of its traversal that are made ready from then on wait for the commit of
the strand's task (R225). -/
def State.holdHandlers (s : State) (sid ticket : Nat) : State :=
  match s.tiles.find? (fun x => (x.2.relay.ask.map (·.1)) == some ticket || x.2.relay.rays.any (fun r => r.ask == some ticket)) with
  | some x =>
    match x.2.relay.trav with
    | some i => s.onTrav i (fun y => { y with held := (sid, (s.strand sid).taskNo) :: y.held })
    | none => s
  | none => s

/-- `verdict` (R236): in a restartable task it takes effect at the commit, in an irrevocable one at issue. -/
def execVerdict (g : Guard) (a b : SReg) (s : State) : Host.Outcome State Fault Refusal :=
  run s { g := g, ss := [a, b] } <| poisonS s [a, b] <|
    let t := s.me
    let x := t.rd a
    if t.task.bind (·.ticket) ≠ some x.toNat || t.verdictGiven || 2 < (t.rd b).toNat then .trap s 0x29 x
    else
      let d : Deferred := .verdict x.toNat (t.rd b).toNat
      let s := s.onMe (fun t => { t with verdictGiven := true })
      if t.restartable then .done (s.onMe (fun t => { t with deferred := t.deferred ++ [d] }))
      else .done ((s.holdHandlers s.cur x.toNat).perform s.cur d)

/-! ### The descriptor (R216, R217) -/

def zeroBytes (l : List Byte) (i n : Nat) : Bool := (l.drop i).take n == List.replicate n 0

/-- A handler pointer: 0 or a well-formed code address (02 R21). -/
def ptrOk (d : List Byte) (i : Nat) : Bool := codeOk (BitVec.ofNat 64 (fieldAt d i 8))

/-- The fields of a descriptor, but for the scene tree's KIND. -/
def descOk (ray : Bool) (d : List Byte) : Bool :=
  let kind := fieldAt d 32 1
  let theta := f32Val (fieldAt d 36 4)
  zeroBytes d 33 3 && ptrOk d 40 && ptrOk d 48 && ptrOk d 56 && ptrOk d 64 && ptrOk d 72 && ptrOk d 80 &&
  (fieldAt d 96 8 == 0 || joinOk (BitVec.ofNat 64 (fieldAt d 96 8))) && zeroBytes d 112 16 &&
  (if ray then
    kind == 2 && zeroBytes d 40 24 && fieldAt d 16 8 % 64 == 0 && 1 ≤ fieldAt d 24 8 && fieldAt d 24 8 ≤ 2 ^ 24 &&
      fieldAt d 16 8 + 64 * fieldAt d 24 8 ≤ 2 ^ 56 && fieldAt d 104 8 % 16 == 0 && fieldAt d 104 8 < 2 ^ 56
   else
    (kind == 0 || kind == 1 || kind == 3) && zeroBytes d 64 24 && zeroBytes d 104 8 &&
      (kind != 0 || (!theta.isNan && !theta.isInf && (FVal.fin false 0).less theta)) &&
      ((fieldAt d 56 8 != 0) == (kind == 3)))

/-- A self traversal (R216). -/
def selfTrav (d : List Byte) : Bool :=
  fieldAt d 32 1 != 2 && fieldAt d 0 8 == fieldAt d 16 8 && fieldAt d 8 8 == fieldAt d 24 8

/-- The slot a baton names, when its generation is pinned by the region and its root is the slot's (R217). -/
def State.batonSlot (s : State) (rid die hdr baton : Nat) (h : List Byte) : Option Nat :=
  let gen := baton / 2 ^ 32
  if (s.pinDie rid hdr (BitVec.ofNat 32 gen) die).isNone then none else
  match findAt (fun x => x.state != 0 && x.gen == gen) (slots h) with
  | some i => if (slotAt h i).root = baton % 2 ^ 32 then some i else none
  | none => none

def statusOf (code detail : Nat) : Word := BitVec.ofNat 64 (code + 2 ^ 32 * min detail (2 ^ 32 - 1))

/-- A page request of a relay unit, which parks (R217, R226); `who` is 3, or 5 for a spill (20 R301). -/
def State.relayParks (s : State) (tile rid who : Nat) (k : AccKind) (e : XErr × Nat) : State :=
  (s.engineFault rid (dieOfTile tile) who k e).onTile tile (fun t => { t with relay := { t.relay with parked := true } })

def State.onRelay (s : State) (tile : Nat) (f : Relay → Relay) : State :=
  s.onTile tile (fun t => { t with relay := f t.relay })

/-- A relay unit works for a region that is not saved (R226). -/
def relayRuns (s : State) (rid : Nat) : Bool :=
  match s.region rid with
  | some r => r.state == .running || r.state == .preempting
  | none => false

/-- The command leaves the queue and fails with a status (R217). -/
def State.goFails (s : State) (tile : Nat) (c : RelayCmd) (x : Word) : State :=
  (s.onRelay tile (fun q => { q with cmds := q.cmds.drop 1 })).commandEnds c.sid c.taskNo c.no c.token x

/-- A header as the relay unit reads it; none where its address is no header's. -/
def State.relayHeader (s : State) (tile : Nat) (c : RelayCmd) (hdr : Nat) : State × Except (XErr × Nat) (Option (List Byte)) :=
  if hdr % 256 ≠ 0 || 2 ^ 56 ≤ hdr then (s, .ok none) else
  match s.readVirt (.relay tile) (s.pidOfRegion c.rid) (some c.rid) c.super hdr 256 with
  | (s, .error e) => (s, .error e)
  | (s, .ok l) => (s, .ok (some (l.map (·.1))))

/-- Writes bytes for a traversal; the lines written leave the L1 of the core that started it (03 R50). -/
def State.relayStore (s : State) (tile : Nat) (tr : Trav) (l : List (Nat × Byte × Bool)) : State × Except (XErr × Nat) Unit :=
  s.engineStore (.relay tile) tr.issuer l

/-- Who steps a join counter for a traversal: the relay unit, with its translation. -/
def RelayCmd.stepper (c : RelayCmd) (tile : Nat) : Stepper := { agent := .relay tile, super := c.super, sid := c.sid, command := some c.no }
def Trav.stepper (tr : Trav) (tile : Nat) : Stepper := { agent := .relay tile, super := tr.super, sid := tr.sid, command := some tr.no }

/-- Adds a traversal pin to a slot, as one act at the header's home (R217). The lines of headers and of JOIN carry no tag of a
`.rel` (DESIGN CHOICE, log 62), and their writes are the hardware's own, which no write-owner entry refuses (DESIGN CHOICE, log 75:
R224 gives WRITE_OWNER for ray records only). -/
def State.travPin (s : State) (tile : Nat) (c : RelayCmd) (hdr i : Nat) (h : List Byte) : State × Except (XErr × Nat) Unit :=
  let x := slotAt h i
  s.engineStore (.relay tile) { c.issuer with rel := none } (headerDiff hdr h (putSlot h i { x with pins := x.pins + 1 }))

/-- RELAY_COMMAND_TAKE (R217, R220, R234): an idle unit takes the oldest command, reads and checks its descriptor; a command
that passes pins its generations, counts itself in at JOIN and starts. -/
def execRelayCommandTake (tile : Nat) (s : State) : Host.Outcome State Fault Refusal :=
  let q := (s.tile tile).relay
  match q.trav, q.cmds with
  | none, c :: _ =>
    if q.parked || !relayRuns s c.rid then .next s
    else if c.desc.toNat % 64 ≠ 0 || 2 ^ 56 < c.desc.toNat + 128 then .next (s.goFails tile c (statusOf 1 0))
    else
      let pid := s.pidOfRegion c.rid
      match s.readVirt (.relay tile) pid (some c.rid) c.super c.desc.toNat 128 with
      | (s, .error e) => .next (s.relayParks tile c.rid 3 .read e)
      | (s, .ok l) =>
        let d := l.map (·.1)
        if !descOk c.ray d then .next (s.goFails tile c (statusOf 1 0)) else
        let ha := fieldAt d 0 8
        let hb := if c.ray then ha else fieldAt d 16 8
        let ba := fieldAt d 8 8
        let bb := if c.ray then ba else fieldAt d 24 8
        match s.relayHeader tile c ha with
        | (s, .error e) => .next (s.relayParks tile c.rid 3 .read e)
        | (s, .ok oa) =>
          match s.relayHeader tile c hb with
          | (s, .error e) => .next (s.relayParks tile c.rid 3 .read e)
          | (s, .ok ob) =>
            let die := dieOfTile tile
            if c.ray && (oa.map (fun h => fieldAt h 36 1)).getD 2 ≠ 2 then .next (s.goFails tile c (statusOf 1 0)) else
            match oa, oa.bind (s.batonSlot c.rid die ha ba) with
            | some h, some i =>
              match ob, ob.bind (s.batonSlot c.rid die hb bb) with
              | some h', some j =>
                let join := fieldAt d 96 8
                match s.xlats (.relay tile) pid (some c.rid) c.super .atomic
                    ([ha, hb] ++ (if join = 0 then [] else [join])) [] with
                | (s, .error e) => .next (s.relayParks tile c.rid 3 .atomic e)
                | (s, .ok _) =>
                  let one := c.ray || selfTrav d
                  let s := (s.travPin tile c ha i h).1
                  -- the second pin is an act of its own on the header as the first one left it
                  let s := if one then s else
                    match s.relayHeader tile c hb with
                    | (s, .ok (some h')) => (s.travPin tile c hb j h').1
                    | (s, _) => s
                  let s := if join = 0 then s else s.joinStep (c.stepper tile) c.rid join tile true
                  let id := s.nextId
                  let slot := slotAt h i
                  let tr : Trav :=
                    { no := c.no, rid := c.rid, super := c.super, sid := c.sid, taskNo := c.taskNo, token := c.token, ray := c.ray
                      rel := c.rel, scope := c.scope, desc := d, tile := tile
                      pins := if one then [(ha, ba / 2 ^ 32)] else [(ha, ba / 2 ^ 32), (hb, bb / 2 ^ 32)]
                      poolA := BitVec.ofNat 64 (fieldAt h 0 8), poolB := BitVec.ofNat 64 (fieldAt h' 0 8)
                      primsA := BitVec.ofNat 64 (fieldAt h 24 8)
                      orderA := BitVec.ofNat 64 (fieldAt h 0 8 + 64 * (slot.root + slot.nodes))
                      made := 0, code := 0, detail := 0, noVerdict := 0, held := [] }
                  let s := { s with nextId := id + 1, travs := putKey s.travs id tr }
                  .next (s.onRelay tile (fun q => { q with
                    cmds := q.cmds.drop 1, trav := some id
                    frontier := if c.ray then [] else [(ba % 2 ^ 32, bb % 2 ^ 32)]
                    next := 0, limit := if c.ray then fieldAt d 24 8 else 0 }))
              | _, _ => .next (s.goFails tile c (statusOf 2 1))
            | _, _ => .next (s.goFails tile c (statusOf 2 0))
  | _, _ => .next s

/-! ### Handlers (R222, R223) -/

/-- A handler task: s4, s6, s7, s8, s9, s10 as given; s3 is FRAME, s5 is JOIN. -/
def handlerTask (tr : Trav) (tile pc : Nat) (s4 s6 s7 s8 s9 : Nat) (ticket : Option Nat) : Task :=
  let w : Nat → Word := BitVec.ofNat 64
  { kind := 2, lane := 0, pc := w pc
    regs := [w (fieldAt tr.desc 88 8), w s4, w (fieldAt tr.desc 96 8), w s6, w s7, w s8, w s9, w (ticket.getD 0), 0]
    marks := 0, pin := some tile, islocal := true, nomig := true, firstPins := false, first := false, lastAct := false, ticket := ticket }

def pairTask (tr : Trav) (tile pc : Nat) (p : Nat × Nat) (ticket : Option Nat) : Task :=
  handlerTask tr tile pc (p.1 + 2 ^ 32 * p.2) (fieldAt tr.desc 8 8) (fieldAt tr.desc 24 8) tr.poolA.toNat tr.poolB.toNat ticket

/-- A handler task that the unit owes; a null pointer gives none (R222). -/
def State.owe (s : State) (tile : Nat) (tr : Trav) (k : Task) : State :=
  if k.pc = 0 then s
  else s.onRelay tile (fun q => { q with owed := q.owed ++ [s.ready k ((s.region tr.rid).map (·.prio) |>.getD 0)] })

/-- A strand whose verdict took effect has not committed its task yet: it holds it still, or is saved with it (R225). -/
def State.holds (s : State) (x : Nat × Nat) : Bool :=
  2 ^ 32 ≤ x.1 || ((s.strand x.1).taskNo == x.2 && (s.strand x.1).task.isSome)

/-- The oldest owed task enters the relay queue when it has room: JOIN counts it in first (R222). For a pair traversal it
counts as made ready (R224). It waits for the commit of a handler whose verdict came before it (R225). -/
def State.placeOwed (s : State) (tile : Nat) : State :=
  let q := (s.tile tile).relay
  match q.owed, q.trav.bind s.trav, q.trav with
  | w :: rest, some tr, some id =>
    if 16 ≤ q.queue.length || tr.held.any s.holds then s else
    let join := fieldAt tr.desc 96 8
    match (if join = 0 then (s, .ok []) else
        s.xlats (.relay tile) (s.pidOfRegion tr.rid) (some tr.rid) tr.super .atomic [join] []) with
    | (s, .error e) => s.relayParks tile tr.rid 3 .atomic e
    | (s, .ok _) =>
      let s := if join = 0 then s else s.joinStep (tr.stepper tile) tr.rid join tile true
      let s := s.onTrav id (fun x => if x.ray then x else { x with made := x.made + 1 })
      s.onRelay tile (fun q => { q with owed := rest, queue := q.queue ++ [(tr.rid, { w with t0 := s.meshTime })] })
  | _, _, _ => s

/-- Nothing of a traversal is left in a unit. -/
def Relay.done (q : Relay) : Bool :=
  q.frontier.isEmpty && q.cur.isNone && q.ask.isNone && q.owed.isEmpty && q.rays.isEmpty && q.limit ≤ q.next

/-- A thief leaves the traversal when its own work is done (R221). -/
def State.leaveTrav (s : State) (tile : Nat) : State :=
  let q := (s.tile tile).relay
  match q.trav.bind s.trav with
  | some tr => if tr.tile ≠ tile && q.done then s.onRelay tile (fun q => { q with trav := none, next := 0, limit := 0 }) else s
  | none => s

/-- The end of a step: an owed task is placed if there is room. -/
def State.stepEnds (s : State) (tile : Nat) : State := (s.placeOwed tile).leaveTrav tile

/-- RELAY_QUEUE_PLACE (R222). -/
def execRelayQueuePlace (tile : Nat) (s : State) : Host.Outcome State Fault Refusal :=
  let q := (s.tile tile).relay
  match q.trav.bind s.trav with
  | some tr => if q.parked || !relayRuns s tr.rid then .next s else .next (s.stepEnds tile)
  | none => .next s

/-! ### Pairs (R218-R220) -/

def nodeLeaf (n : List Byte) : Bool := 2 ^ 31 ≤ fieldAt n 40 4

/-- The outcome of a test: 0 DROP, 1 ACCEPT, 2 REFINE; 3 asks the test handler (R218). -/
def pairOutcome (d a b : List Byte) : Nat :=
  let kind := fieldAt d 32 1
  if kind = 3 then 3
  else if kind = 1 then
    if (List.range 3).any (fun k => (rayF b (12 + 4 * k)).less (rayF a (4 * k)) || (rayF a (12 + 4 * k)).less (rayF b (4 * k)))
    then 0 else 2
  else
    let vs := [24, 28, 32, 36].flatMap (fun i => [rayF a i, rayF b i])
    if vs.any (fun x => x.isNan || x.isInf) then 2
    else
      let r := (rayF a 36).rat + (rayF b 36).rat
      let th := (f32Val (fieldAt d 36 4)).rat
      let dd := ([24, 28, 32].map (fun i => ((rayF a i).rat - (rayF b i).rat) ^ 2)).foldl (· + ·) 0
      if r ^ 2 < th ^ 2 * dd then 1 else 2

/-- Refinement (R219): the near handler, or the pairs pushed, in the order they are popped. A NaN radius has no larger or
equal one: which node is split is then a free value (log 29). -/
def refinePair (self : Bool) (free : Nat) (p : Nat × Nat) (a b : List Byte) : Option (List (Nat × Nat)) :=
  let c : List Byte → Nat → Nat := fun n i => fieldAt n (40 + 4 * i) 4
  let splitA := [(c a 0, p.2), (c a 1, p.2)]
  let splitB := [(p.1, c b 0), (p.1, c b 1)]
  if nodeLeaf a && nodeLeaf b then none
  else if self && p.1 == p.2 then some [(c a 0, c a 0), (c a 1, c a 1), (c a 0, c a 1), (c a 1, c a 0)]
  else if nodeLeaf a then some splitB
  else if nodeLeaf b then some splitA
  else
    let ra := rayF a 36
    let rb := rayF b 36
    if ra.isNan || rb.isNan then some (if free % 2 = 0 then splitA else splitB)
    else some (if ra.less rb then splitB else splitA)

/-- An outcome takes effect on the pair popped. -/
def State.pairEnds (s : State) (tile : Nat) (tr : Trav) (p : Nat × Nat) (a b : List Byte) (out : Nat) : State :=
  let s := s.onRelay tile (fun q => { q with cur := none, ask := none, verdict := none })
  let task : Nat → State := fun i => s.owe tile tr (pairTask tr tile (fieldAt tr.desc i 8) p none)
  let s := match out with
    | 1 => task 40
    | 2 =>
      match refinePair (selfTrav tr.desc) (Config.freeNat s.freeCtr) p a b with
      | none => task 48
      | some l => { s with freeCtr := s.freeCtr + 1 }.onRelay tile (fun q => { q with frontier := l ++ q.frontier })
    | _ => s
  s.stepEnds tile

/-- PAIR_TEST (R218-R220): the newest pair is popped, its nodes read, its test decided; under CUSTOM the unit asks the test
handler and waits; a verdict that has come takes effect. -/
def execPairTest (tile : Nat) (s : State) : Host.Outcome State Fault Refusal :=
  let q := (s.tile tile).relay
  match q.trav.bind s.trav with
  | none => .next s
  | some tr =>
    let p? := match q.cur, q.frontier with
      | some p, _ => some p
      | none, p :: _ => some p
      | none, [] => none
    match p? with
    | none => .next s
    | some p =>
      if tr.ray || q.parked || !q.owed.isEmpty || !relayRuns s tr.rid || (q.ask.isSome && q.verdict.isNone) then .next s else
      let s := if q.cur.isSome then s else s.onRelay tile (fun q => { q with cur := some p, frontier := q.frontier.drop 1 })
      let read : State → Nat → State × Except (XErr × Nat) (List (Byte × Bool)) := fun s x =>
        s.readVirt (.relay tile) (s.pidOfRegion tr.rid) (some tr.rid) tr.super x 64
      match read s (tr.poolA.toNat + 64 * p.1) with
      | (s, .error e) => .next (s.relayParks tile tr.rid 3 .read e)
      | (s, .ok la) =>
        match read s (tr.poolB.toNat + 64 * p.2) with
        | (s, .error e) => .next (s.relayParks tile tr.rid 3 .read e)
        | (s, .ok lb) =>
          let a := la.map (·.1)
          let b := lb.map (·.1)
          match q.verdict with
          | some v => .next (s.pairEnds tile tr p a b v)
          | none =>
            let out := if selfTrav tr.desc && p.1 == p.2 then 2 else pairOutcome tr.desc a b
            if out = 3 then
              let id := s.nextId
              let s := { s with nextId := id + 1 }.onRelay tile (fun q => { q with ask := some (id, p.1, p.2) })
              .next ((s.owe tile tr (pairTask tr tile (fieldAt tr.desc 56 8) p (some id))).stepEnds tile)
            else .next (s.pairEnds tile tr p a b out)

/-! ### Stealing (R221) -/

/-- Ring d of the spiral, clockwise from (-d, 0). -/
def ring (d : Nat) : List (Int × Int) :=
  let n : Int := d
  (List.range (d + 1)).map (fun i => (-n, (i : Int))) ++
  (List.range (2 * d)).map (fun i => (-n + 1 + i, n)) ++
  (List.range (2 * d)).map (fun i => (n, n - 1 - i)) ++
  (List.range (2 * d)).map (fun i => (n - 1 - i, -n)) ++
  (List.range (d - 1)).map (fun i => (-n, -n + 1 + i))

/-- A region holds a scattered set, its own or the one it inherits. -/
def scattered (s : State) : Nat → Region → Bool
  | 0, r => r.want.isSome
  | n + 1, r => if r.inherits then ((r.parent.bind s.region).map (scattered s n)).getD false else r.want.isSome

/-- The other logical tiles of a region in spiral order from tile number n. -/
def spiralOrder (s : State) (r : Region) (n : Nat) : List Nat :=
  let cnt := r.tiles.length
  if scattered s s.regions.length r then
    ((List.range cnt).flatMap (fun i => [(n + i + 1) % cnt, (n + cnt - (i + 1) % cnt) % cnt])).foldl
      (fun l x => if x = n || l.contains x then l else l ++ [x]) []
  else
    match r.posns[n]? with
    | none => []
    | some (y, x) =>
      ((List.range 64).flatMap (fun d => ring (d + 1))).filterMap (fun o =>
        findAt (fun p => decide ((p.1 : Int) = (y : Int) + o.1 ∧ (p.2 : Int) = (x : Int) + o.2)) r.posns)

/-- What a unit would give a thief of region rid: its traversal, and the pair or ray. -/
def Relay.loot (q : Relay) (s : State) (rid : Nat) : Option (Nat × (Nat × Nat) × Bool) :=
  match q.trav, q.trav.bind s.trav with
  | some id, some tr =>
    if tr.rid ≠ rid then none
    else if tr.ray then (if q.next < q.limit then some (id, (q.limit - 1, 0), true) else none)
    else (q.frontier.getLast?).map (fun p => (id, p, false))
  | _, _ => none

/-- RELAY_STEAL (R221): an idle unit takes the oldest frontier entry, or the highest-numbered ray not started, of the first
tile in its spiral order that has one. -/
def execRelaySteal (tile : Nat) (s : State) : Host.Outcome State Fault Refusal :=
  let q := (s.tile tile).relay
  if q.trav.isSome || !q.cmds.isEmpty || !s.enabledTile tile then .next s else
  let found := s.regions.findSome? (fun x =>
    if x.2.state ≠ .running then none else
    match x.2.tileNum tile with
    | none => none
    | some n => (spiralOrder s x.2 n).findSome? (fun m =>
      match x.2.tiles[m]? with
      | none => none
      | some t => ((s.tile t).relay.loot s x.1).map (fun l => (t, l))))
  match found with
  | none => .next s
  | some (victim, id, p, true) =>
    let s := s.onRelay victim (fun v => { v with limit := v.limit - 1 })
    .next ((s.onRelay tile (fun q => { q with trav := some id, next := p.1, limit := p.1 + 1 })).leaveTrav victim)
  | some (victim, id, p, false) =>
    let s := s.onRelay victim (fun v => { v with frontier := v.frontier.dropLast })
    .next ((s.onRelay tile (fun q => { q with trav := some id, frontier := [p] })).leaveTrav victim)

/-! ### Rays (R227-R232) -/

/-- A status condition: the lowest nonzero code with its first detail (R224). -/
def Trav.note (x : Trav) (code detail : Nat) : Trav :=
  if x.code = 0 || code < x.code then { x with code := code, detail := detail } else x

def State.noteTrav (s : State) (tile code detail : Nat) : State :=
  match (s.tile tile).relay.trav with
  | some id => s.onTrav id (fun x => x.note code detail)
  | none => s

def State.setRay (s : State) (tile idx : Nat) (x : Ray) : State :=
  s.onRelay tile (fun q => { q with rays := setAt q.rays idx x })

/-- A read of the relay unit for a traversal. -/
def State.relayRead (s : State) (tile : Nat) (tr : Trav) (x n : Nat) : State × Except (XErr × Nat) (List Byte) :=
  match s.readVirt (.relay tile) (s.pidOfRegion tr.rid) (some tr.rid) tr.super x n with
  | (s, .error e) => (s, .error e)
  | (s, .ok l) => (s, .ok (l.map (·.1)))

def rayAddr (tr : Trav) (i : Nat) : Nat := fieldAt tr.desc 16 8 + 64 * i

/-- Writes bytes of a ray's record from byte o on, unless another owner holds one of them (03 R62, R224). -/
def State.writeRay (s : State) (tile : Nat) (tr : Trav) (i o : Nat) (bs : List Byte) : State × Except (XErr × Nat) Unit :=
  let l := (numberedFrom (rayAddr tr i + o) bs).map (fun y => (y.1, y.2, false))
  match woRefused s tr.rid 3 (l.map (·.1)) with
  | some _ => (s.noteTrav tile 4 i, .ok ())
  | none => s.relayStore tile tr l

/-- The next ray of the batch starts, or is skipped or found bad (R227, R228). -/
def State.rayStarts (s : State) (tile : Nat) (tr : Trav) (q : Relay) : State :=
  match s.relayRead tile tr (rayAddr tr q.next) 64 with
  | (s, .error e) => s.relayParks tile tr.rid 3 .read e
  | (s, .ok r) =>
    let past : State → State := fun s => s.onRelay tile (fun q => { q with next := q.next + 1 })
    if raySkip r then (past s).stepEnds tile
    else if rayBad r then
      let flags := fieldAt r 52 4 ||| 0x200
      match s.writeRay tile tr q.next 52 (natBytes flags 4) with
      | (s, .error e) => s.relayParks tile tr.rid 3 .write e
      | (s, .ok _) => (past (s.noteTrav tile 3 q.next)).stepEnds tile
    else
      let x : Ray :=
        { idx := q.next, record := r, stack := [(fieldAt tr.desc 8 8 % 2 ^ 32, fieldAt r 12 4)], spilled := 0, best := none
          tcur := fieldAt r 28 4, pending := [], tris := [], ask := none, asked := none, answer := none, ended := false
          err := false }
      (past s).onRelay tile (fun q => { q with rays := q.rays ++ [x] })

/-- An accepted hit: best, tcur, and under FIRSTHIT the ray's end (R228). -/
def Ray.accept (x : Ray) (h : Hit) : Ray :=
  { x with best := some h, tcur := h.t, ended := x.ended || rayFirst x.record }

/-- The any-hit question about a hit (R223, R232). -/
def State.askHit (s : State) (tile idx : Nat) (tr : Trav) (x : Ray) (h : Hit) : State :=
  let id := s.nextId
  let s := { s with nextId := id + 1 }.setRay tile idx { x with ask := some id, asked := some h, answer := none }
  (s.owe tile tr (handlerTask tr tile (fieldAt tr.desc 64 8) (rayAddr tr x.idx) x.idx (h.prim + 2 ^ 32 * h.inst) h.t
    (h.u + 2 ^ 32 * h.v) (some id))).stepEnds tile

/-- A pending candidate is run: the any-hit handler is asked, and without one it is accepted (R232). -/
def State.runHit (s : State) (tile idx : Nat) (tr : Trav) (x : Ray) (h : Hit) : State :=
  if fieldAt tr.desc 64 8 = 0 then
    let x := x.accept h
    s.setRay tile idx { x with tris := if x.ended then [] else x.tris }
  else s.askHit tile idx tr x h

/-- Pending candidates whose key is no longer less than best's are discarded (R232). -/
def Ray.prune (x : Ray) : Ray := { x with pending := x.pending.filter (fun h => h.beats x.best) }

/-- The ray ends: its record is written, then CLOSEST or MISS gets it (R222, R228). -/
def State.rayEnds (s : State) (tile idx : Nat) (tr : Trav) (x : Ray) : State :=
  let flags := (fieldAt x.record 52 4 &&& 0xFFFFFCFF) ||| (if x.best.isSome then 0x100 else 0) ||| (if x.err then 0x200 else 0)
  let body := match x.best with
    | some h => natBytes h.t 4 ++ natBytes h.prim 4 ++ natBytes h.inst 4 ++ natBytes h.u 4 ++ natBytes h.v 4
    | none => (x.record.drop 28).take 4 ++ natBytes (2 ^ 64 - 1) 8 ++ natBytes 0 8
  match s.writeRay tile tr x.idx 28 (body ++ (x.record.drop 48).take 4 ++ natBytes flags 4) with
  | (s, .error e) => s.relayParks tile tr.rid 3 .write e
  | (s, .ok _) =>
    let s := s.onRelay tile (fun q => { q with rays := q.rays.eraseIdx idx })
    let s := match (s.tile tile).relay.trav, x.best with
      | some id, some _ => s.onTrav id (fun t => { t with made := t.made + 1 })
      | _, _ => s
    let rec_ := rayAddr tr x.idx
    let k := match x.best with
      | some h => handlerTask tr tile (fieldAt tr.desc 72 8) rec_ x.idx (h.prim + 2 ^ 32 * h.inst) h.t (h.u + 2 ^ 32 * h.v) none
      | none => handlerTask tr tile (fieldAt tr.desc 80 8) rec_ x.idx 0 0 0 none
    (s.owe tile tr k).stepEnds tile

/-- The state of a micromap entry for a hit: 1 (opaque) without one; a bad entry counts as opaque and is reported (R232). -/
def State.hitState (s : State) (tile : Nat) (tr : Trav) (m ub vb : Nat) : State × Except (XErr × Nat) (Nat × Bool) :=
  let omm := fieldAt tr.desc 104 8
  if omm = 0 || m = 0xFFFFFFFF then (s, .ok (1, false)) else
  match s.relayRead tile tr (omm + 16 * m) 16 with
  | (s, .error e) => (s, .error e)
  | (s, .ok l) =>
    let data := fieldAt l 0 8
    if 6 < fieldAt l 8 1 || data % 8 ≠ 0 then (s, .ok (1, true))
    else
      let n := micromapState (fieldAt l 8 1) ub vb
      match s.relayRead tile tr (data + n / 4) 1 with
      | (s, .error e) => (s, .error e)
      | (s, .ok b) => (s, .ok (fieldAt b 0 1 / 4 ^ (n % 4) % 4, false))

/-- One triangle of a leaf (R230, R232). A ninth candidate first runs the least pending one (R231). -/
def State.rayTriangle (s : State) (tile idx : Nat) (tr : Trav) (x : Ray) (i : Nat) (rest : List Nat) : State :=
  match s.relayRead tile tr (tr.primsA.toNat + 48 * i) 48 with
  | (s, .error e) => s.relayParks tile tr.rid 3 .read e
  | (s, .ok p) =>
    let next : Ray → State → State := fun x s => s.setRay tile idx { x with tris := if x.ended then [] else rest }
    match triTest x.record (f32Val x.tcur) (fun k => f32Val (fieldAt p (4 * k) 4)) with
    | none => next x s
    | some (t, u, v) =>
      let h : Hit := { t := t, u := u, v := v, inst := fieldAt p 40 4, prim := i }
      match s.hitState tile tr (fieldAt p 44 4) u v with
      | (s, .error e) => s.relayParks tile tr.rid 3 .read e
      | (s, .ok (st, bad)) =>
        let x := { x with err := x.err || bad }
        let s := if bad then s.noteTrav tile 3 x.idx else s
        if st = 0 || !h.beats x.best then next x s
        else if st = 1 then next (x.accept h) s
        else
          let y := x.prune
          if y.pending.length < 8 then next { y with pending := insertHit h y.pending } s
          else match y.pending with
            | c :: l => s.runHit tile idx tr { y with pending := l } c
            | [] => next y s

/-- Pushes one entry; from a full stack the oldest goes to SPILL (R228). -/
def State.rayPush (s : State) (tile : Nat) (tr : Trav) (x : Ray) (e : Nat × Nat) : State × Except (XErr × Nat) Ray :=
  if x.stack.length < 16 then (s, .ok { x with stack := e :: x.stack }) else
  match x.stack.getLast? with
  | none => (s, .ok x)
  | some (n, _) =>
    let l := (numberedFrom (raySpill x.record + 4 * x.spilled) (natBytes n 4)).map (fun y => (y.1, y.2, false))
    match s.relayStore tile tr l with
    | (s, .error e) => (s, .error e)
    | (s, .ok _) => (s, .ok { x with stack := e :: x.stack.dropLast, spilled := x.spilled + 1 })

def State.rayPushes (s : State) (tile : Nat) (tr : Trav) : Ray → List (Nat × Nat) → State × Except (XErr × Nat) Ray
  | x, [] => (s, .ok x)
  | x, e :: r =>
    match s.rayPush tile tr x e with
    | (s, .error e) => (s, .error e)
    | (s, .ok x) => s.rayPushes tile tr x r

/-- A child against the ray: tnear as FP32 bits when it is entered. Where the interval rule covers no value the outcome and
tnear are free values (log 29). -/
def childNear (x : Ray) (node : List Byte) (free : Nat) : Option Nat :=
  match boxTest x.record (f32Val x.tcur) node with
  | .miss => none
  | .enter t => some t.bits32
  | .unstated => if Config.freeNat free % 2 = 0 then none else some (Config.freeNat (free + 1) % 2 ^ 31)

/-- One node of a ray (R228): a leaf's triangles in order-list order, or its entered children, the nearer popped first. -/
def State.rayNode (s : State) (tile idx : Nat) (tr : Trav) (x : Ray) (n : Nat) : State :=
  let pool := tr.poolA.toNat
  let parks : State → XErr × Nat → State := fun s e => s.relayParks tile tr.rid 3 .read e
  match s.relayRead tile tr (pool + 64 * n) 64 with
  | (s, .error e) => parks s e
  | (s, .ok node) =>
    if nodeLeaf node then
      let pos := fieldAt node 40 4 - 2 ^ 31
      let cnt := fieldAt node 44 4
      match s.relayRead tile tr (tr.orderA.toNat + 4 * pos) (4 * cnt) with
      | (s, .error e) => parks s e
      | (s, .ok l) => s.setRay tile idx { x with tris := (List.range cnt).map (fun i => fieldAt l (4 * i) 4) }
    else
      let c0 := fieldAt node 40 4
      let c1 := fieldAt node 44 4
      match s.relayRead tile tr (pool + 64 * c0) 64 with
      | (s, .error e) => parks s e
      | (s, .ok n0) =>
        match s.relayRead tile tr (pool + 64 * c1) 64 with
        | (s, .error e) => parks s e
        | (s, .ok n1) =>
          let near0 := childNear x n0 s.freeCtr
          let near1 := childNear x n1 (s.freeCtr + 2)
          let s := { s with freeCtr := s.freeCtr + 4 }
          let l := match near0, near1 with
            | none, none => []
            | some a, none => [(c0, a)]
            | none, some b => [(c1, b)]
            | some a, some b => if (f32Val b).less (f32Val a) then [(c0, a), (c1, b)] else [(c1, b), (c0, a)]
          match s.rayPushes tile tr x l with
          | (s, .error e) => s.relayParks tile tr.rid 5 .write e
          | (s, .ok x) => s.setRay tile idx x

/-- The least tnear among a ray's entries: TMIN for a spilled one (R228). -/
def Ray.leastNear (x : Ray) : Option FVal :=
  let l := (if x.spilled = 0 then [] else [rayTmin x.record]) ++ x.stack.map (fun e => f32Val e.2)
  match l with
  | [] => none
  | a :: r => some (r.foldl FVal.minV a)

/-- The head of the loop of R228: candidates that are due, then the newest entry; without entries the remaining candidates,
then the end. -/
def State.rayLoop (s : State) (tile idx : Nat) (tr : Trav) (x : Ray) : State :=
  let x := x.prune
  if x.ended then s.rayEnds tile idx tr { x with pending := [] } else
  let due := match x.pending, x.leastNear with
    | c :: l, some m => if (f32Val c.t).less m then some (c, l) else none
    | c :: l, none => some (c, l)
    | [], _ => none
  match due with
  | some (c, l) => s.runHit tile idx tr { x with pending := l } c
  | none =>
    let visit : State → Ray → Nat → FVal → State := fun s x n tn =>
      if (f32Val x.tcur).less tn then s.setRay tile idx x else s.rayNode tile idx tr x n
    match x.stack with
    | (n, tn) :: r => visit s { x with stack := r } n (f32Val tn)
    | [] =>
      if x.spilled = 0 then s.rayEnds tile idx tr x
      else match s.relayRead tile tr (raySpill x.record + 4 * (x.spilled - 1)) 4 with
        | (s, .error e) => s.relayParks tile tr.rid 5 .read e
        | (s, .ok l) => visit s { x with spilled := x.spilled - 1 } (fieldAt l 0 4) (rayTmin x.record)

/-- RAY_STEP (R228): of the idx-th ray under way in a unit; past the last one, the batch's next ray starts, up to 32. A
verdict that has come takes effect first (R232). -/
def execRayStep (tile idx : Nat) (s : State) : Host.Outcome State Fault Refusal :=
  let q := (s.tile tile).relay
  match q.trav.bind s.trav with
  | none => .next s
  | some tr =>
    if !tr.ray || q.parked || !q.owed.isEmpty || !relayRuns s tr.rid then .next s else
    match q.rays[idx]? with
    | none => .next (if idx = q.rays.length && idx < 32 && q.next < q.limit then s.rayStarts tile tr q else s)
    | some x =>
      match x.asked, x.ask, x.answer with
      | some h, some _, some v =>
        let y := { x with ask := none, asked := none, answer := none }
        let y := if v = 0 then y else y.accept h
        .next (s.setRay tile idx { y with ended := y.ended || v == 2, tris := if y.ended || v = 2 then [] else y.tris })
      | _, some _, none => .next s
      | _, _, _ =>
        match x.tris with
        | i :: rest => .next (s.rayTriangle tile idx tr x i rest)
        | [] => .next (s.rayLoop tile idx tr x)

/-! ### The end (R224) -/

/-- No other unit, and no saved one, works for the traversal. -/
def othersDone (s : State) (tile id : Nat) : Bool :=
  s.tiles.all (fun x => x.1 == tile || x.2.relay.trav != some id) &&
  s.regions.all (fun x => x.2.relaySaved.all (fun y => y.2.trav != some id))

/-- TRAVERSAL_END (R224): pins removed, then JOIN counted down, then the status written. A page that does not translate parks the
unit with the pins that are left (20 R302). -/
def execTraversalEnd (tile : Nat) (s : State) : Host.Outcome State Fault Refusal :=
  let q := (s.tile tile).relay
  match q.trav, q.trav.bind s.trav with
  | some id, some tr =>
    if q.parked || tr.tile ≠ tile || !q.done || !othersDone s tile id || !relayRuns s tr.rid then .next s else
    let join := fieldAt tr.desc 96 8
    match s.unpins tr tr.pins with
    | (s, pins, some (k, e)) => .next ((s.onTrav id (fun x => { x with pins := pins })).relayParks tile tr.rid 3 k e)
    | (s, pins, none) =>
    match (if join = 0 then (s, .ok []) else
        s.xlats (.relay tile) (s.pidOfRegion tr.rid) (some tr.rid) tr.super .atomic [join] []) with
    | (s, .error e) => .next ((s.onTrav id (fun x => { x with pins := pins })).relayParks tile tr.rid 3 .atomic e)
    | (s, .ok m) =>
    -- the continuation's last byte too, where the decrement will read it
    match (if join = 0 || !s.reachesZero m (join, -1) then (s, .ok []) else
        s.xlats (.relay tile) (s.pidOfRegion tr.rid) (some tr.rid) tr.super .read [join + 47] []) with
    | (s, .error e) => .next ((s.onTrav id (fun x => { x with pins := pins })).relayParks tile tr.rid 3 .read e)
    | (s, .ok _) =>
      let s := if join = 0 then s else s.joinStep (tr.stepper tile) tr.rid join tile false
      let s := { s with travs := dropKey s.travs id }.onRelay tile (fun q => { q with trav := none, next := 0, limit := 0 })
      let x := if tr.code ≠ 0 then statusOf tr.code tr.detail
        else if tr.noVerdict ≠ 0 then statusOf 5 tr.noVerdict else statusOf 0 tr.made
      .next (s.commandEnds tr.sid tr.taskNo tr.no tr.token x)
  | _, _ => .next s

end Sys2Proof.Machine
end

