-- ==== Sys2Proof/Machine/Power.lean ====
section
/-! DEFINITION. Power, sensors, idle states (22 R325-R334), soft errors (20 R308, R309), boot and configuration (22 R336,
R337). -/

namespace Sys2Proof.Machine

/-! ### Current budgets and sensors (R328, R329) -/

/-- The enabled tiles of the package, die by die, row-major. -/
def State.enabledTiles (s : State) : List Nat :=
  (List.range Config.dieCount).flatMap (fun d => (tilesOfDie d).filter s.enabledTile)

/-- A die's share of the limits, by its enabled tiles among all of them (log 31): its budgets in mA keep its part of 4,000 A,
and at the highest LDO voltage of 480 mV its part of the package power. -/
def shareOk (s : State) (all : List (Nat × Nat)) (d : Nat) : Bool :=
  let mine := all.filter (fun x => dieOfTile x.1 == d)
  let sum := mine.foldl (fun n x => n + x.2) 0
  sum * all.length ≤ 4000000 * mine.length && sum * 480 * all.length ≤ s.config.power * 1000000 * mine.length

/-- A point the governor may give a core (R325): a clock in steps of 25 MHz within the core's limit, a voltage within the LDO's
range. -/
def pointOk (s : State) (core f v : Nat) : Bool :=
  let limit := if s.sprinting core then 2100 else s.config.coreLimit
  400 ≤ f && f ≤ limit && f % 25 == 0 && 300 ≤ v && v ≤ 480 && s.enabledTile (core / 4)

/-- The governor gives a core a point; the regions that hold its tile measure it in their phase (R330). -/
def State.setPoint (s : State) (core f v : Nat) : State :=
  if pointOk s core f v then
    ((s.regions.filter (fun x => x.2.state == .running && x.2.tiles.contains (core / 4))).map (·.1)).foldl
      (fun s rid => s.measure rid f v) (s.onCore core (fun k => { k with freq := f, volt := v }))
  else s

/-- GOVERNOR_PERIOD (R325, R328, R330): the governor's division of the limits, one budget in mA for each enabled tile in order,
and the points it gives to cores, clock and voltage, as it varies them during a phase; a division in which a die passes its
share is none (log 31). -/
def execGovernorPeriod (shares : Governed) (s : State) : Host.Outcome State Fault Refusal :=
  let l := s.enabledTiles
  let all := l.zip shares.budgets
  let s := if shares.budgets.length ≠ l.length || !(List.range Config.dieCount).all (shareOk s all) then s
    else all.foldl (fun s x => s.onTile x.1 (fun t => { t with budget := x.2 })) s
  .next (shares.points.foldl (fun s x => s.setPoint x.1 x.2.1 x.2.2) s)

/-- The places next to place i of a 16 × 16 mesh. -/
def placeNext (i : Nat) : List Nat :=
  (if i % 16 = 0 then [] else [i - 1]) ++ (if i % 16 = 15 then [] else [i + 1]) ++ (if i < 16 then [] else [i - 16]) ++
  (if 240 ≤ i then [] else [i + 16])

/-- Rule 1: within -40 to 150. -/
def clampReading (x : Int) : Int := if x < -40 then -40 else if 150 < x then 150 else x

/-- Twice the median (R329): the mean of the two middle values of an even count. -/
def median2 (l : List Int) : Int :=
  let o := sortBy (fun a b => decide (a < b)) l
  let n := o.length
  ((o[(n - 1) / 2]?).getD 0) + ((o[n / 2]?).getD 0)

def maxInt (l : List Int) : Int :=
  match l with
  | [] => 0
  | x :: r => r.foldl max x

/-- Twice the corrected sample of place i, and whether a rule applied (R329). `still` holds for each place the samples for
which its reading has not changed. -/
def correct (readings : List Int) (still : List Nat) (i : Nat) : Int × Bool :=
  let at' : Nat → Int := fun j => (readings[j]?).getD 0
  let x := at' i
  let near := placeNext i
  let vals := near.map (fun j => clampReading (at' j))
  if x < -40 || 150 < x then (2 * clampReading x, true)
  else if 2 ^ 20 ≤ (still[i]?).getD 0 && near.any (fun j => (still[j]?).getD 0 < 2 ^ 20) then (2 * maxInt vals, true)
  else
    let m := median2 vals
    if 30 < (2 * x - m).natAbs then (m, true) else (2 * x, false)

/-- TEMP from the sum of n doubled samples: the mean, a whole number of °C; which of the two next to it stands for a mean
between them is a free value (log 31). -/
def tempOf (sum : Int) (n : Nat) (free : Nat) : BitVec 8 :=
  let d : Int := 2 * n
  let lo := sum / d
  BitVec.ofInt 8 (if lo * d = sum || free % 2 = 0 then lo else lo + 1)

/-- SENSOR_SAMPLE (R328, R329): one sample of every sensor of a die, with each tile's estimated current in mA. -/
def execSensorSample (die : Nat) (readings : List Int) (currents : List Nat) (s : State) : Host.Outcome State Fault Refusal :=
  if readings.length ≠ 256 || currents.length ≠ 256 || Config.dieCount ≤ die then .next s else
  let tiles := tilesOfDie die
  let still := (tiles.zip readings).map (fun x =>
    let t := s.tile x.1
    if x.2 = t.lastReading then t.same + 1 else 0)
  let fixed := (List.range 256).map (correct readings still)
  let s := (numbered tiles).foldl (fun s x =>
    let i := x.1
    let v := (fixed[i]?).getD (0, false)
    s.onTile x.2 (fun t =>
      let samples := (v.1 :: t.samples).take 8
      let sum := samples.foldl (· + ·) 0
      let n := samples.length
      let cur := (currents[i]?).getD 0
      let hot := if 105 * (2 * (n : Int)) ≤ sum then true else if sum < 100 * (2 * (n : Int)) then false else t.hot
      let overi := if t.budget < cur then true else if cur * 10 < t.budget * 9 then false else t.overi
      { t with samples := samples, temp := tempOf sum n (Config.freeNat (Nat.pair s.freeCtr i)), hot := hot, overi := overi
               lastReading := (readings[i]?).getD 0, same := (still[i]?).getD 0 })) s
  let s := { s with freeCtr := s.freeCtr + 1 }
  .next (s.onDie die (fun d => { d with sensorCorrections := d.sensorCorrections + fixed.countP (·.2) }))

/-! ### Timing errors (R326) -/

/-- Core cycles that one core spends: its strands' clocks run (06 R133), stretched ones count in TERR (log 61). -/
def State.coreCycles (s : State) (core n : Nat) : State :=
  State.onCore { s with strands := s.strands.map (fun x => (x.1, if coreOf x.1 = core then x.2.spend n else x.2)) } core
    (fun k => k.spend n)

/-- TIMING_ERROR: the replay, a stretched cycle that is counted, and the 64 stretched cycles after it; nothing else is
visible. -/
def execTimingError (core : Nat) (s : State) : Host.Outcome State Fault Refusal :=
  .next (((s.onCore core (fun k => { k with stretch := 1 })).coreCycles core 1).onCore core (fun k => { k with stretch := 64 }))

/-- STRETCH_END: what is left of the 64 stretched cycles has passed. -/
def execStretchEnd (core : Nat) (s : State) : Host.Outcome State Fault Refusal :=
  .next (s.coreCycles core (s.core core).stretch)

/-! ### Idle states (R334) -/

/-- Work is ready for a tile: a saved strand, or what the dispenser would hand to one of its strands were the tile not
withheld and its region within its quota and without saved strands that go on first on other tiles (19 R284); work that can run
only on a withheld tile waits there (R328). -/
def workReady (s : State) (t : Nat) : Bool :=
  let open' : State :=
    { s.onTile t (fun x => { x with hot := false, overi := false }) with
        regions := s.regions.map (fun x => (x.1, { x.2 with dispatched := 0, strandsSaved := [] })) }
  (s.savedFor t).isSome || (List.range 16).any (fun i => (chooseWork open' (16 * t + i)).2.isSome)

/-- An idle tile (R334). -/
def tileIsIdle (s : State) (t : Nat) : Bool :=
  (List.range 16).all (fun i => (s.strand (16 * t + i)).task.isNone) && !workReady s t

/-- The least of two tolerances; none is no limit. -/
def tighter (a b : Option Nat) : Option Nat :=
  match a, b with
  | none, y => y
  | x, none => x
  | some x, some y => some (min x y)

/-- A tile's tolerance in ns (R334). -/
def State.toleranceOf (s : State) (t : Nat) : Option Nat :=
  let host := (s.partOfDie (dieOfTile t)).bind (fun i => (s.partition i).bind (·.tolerance))
  s.regions.foldl (fun m x =>
    if (x.2.state == .running || x.2.state == .preempting) && x.2.tiles.contains t then tighter m x.2.tolerance else m) host

def meets (ns : Nat) (tol : Option Nat) : Bool :=
  match tol with
  | none => true
  | some n => ns ≤ n

/-- The deepest of K0 to K3 (R334). -/
def deepest (tol : Option Nat) : Nat :=
  if meets 40000 tol then 3 else if meets 2000 tol then 2 else if meets 20 tol then 1 else 0

/-- The four cores of a tile lose what K3 does not keep (R334). -/
def State.coresOff (s : State) (t : Nat) : State :=
  (List.range 4).foldl (fun s i => s.onCore (4 * t + i) (fun k => { k.wipe with l1 := [], tlb := [] })) s

/-- TILE_IDLE (R334): the deepest state the tolerance allows; with every enabled tile of the die idle, K4, in which every core
of the die is off and each of its tiles wakes before it gets work. A die whose tiles' tolerance no longer meets K4 leaves it:
its tiles take the states of their own tolerances as they are placed anew. -/
def execTileIdle (tile : Nat) (s : State) : Host.Outcome State Fault Refusal :=
  if !tileIsIdle s tile then .next s else
  let d := dieOfTile tile
  let k := deepest (s.toleranceOf tile)
  let s := if k = 3 then s.coresOff tile else s
  let s := (s.onTile tile (fun t => { t with idle := k })).onDie d (fun x => { x with idle := 0 })
  let all := (tilesOfDie d).filter s.enabledTile
  if all.all (fun t => tileIsIdle s t && meets 2000000 (s.toleranceOf t)) then
    .next ((all.foldl (fun s t => (s.coresOff t).onTile t (fun x => { x with idle := 3 })) s).onDie d
      (fun x => { x with idle := 4 }))
  else .next s

/-- TILE_WAKE (R334): work is ready for the tile, which wakes with its die. -/
def execTileWake (tile : Nat) (s : State) : Host.Outcome State Fault Refusal :=
  if !workReady s tile then .next s else
  .next ((s.onTile tile (fun t => { t with idle := 0 })).onDie (dieOfTile tile) (fun d => { d with idle := 0 }))

/-! ### Soft errors (20 R308, R309, 09 R190) -/

/-- A register's second failure: a restartable task is aborted and requeued, else the unit is marked. -/
def State.regError (s : State) (sid : Nat) (mark : Strand → Strand) : State :=
  let s := s.countUe (dieOf sid)
  let t := s.strand sid
  if t.task.isNone then s
  else if t.restartable then s.abort sid none false else s.setStrand sid (mark t)

/-- SOFT_ERROR (R308, R309). -/
def execSoftError (e : SoftErr) (s : State) : Host.Outcome State Fault Refusal :=
  match e with
  | .corrected die => .next (s.countCe die)
  | .memUnit pa =>
    let u := pa / 8 * 8
    let s := { s with memPoison := addNum s.memPoison (pa / 8) }.countUe (homeDie pa)
    .next (s.onDie (homeDie pa) (fun d =>
      if bitOf d.lastue 63 then d else { d with lastue := setBit (BitVec.ofNat 64 (u % 2 ^ 48)) 63 true }))
  | .spadUnit tile off =>
    .next ((s.onTile tile (fun t => { t with spadPoison := addNum t.spadPoison (off % 2 ^ 20 / 8) })).countUe (dieOfTile tile))
  | .weightBlock core block =>
    .next (((s.onCore core (fun k => { k with wPoison := setBit k.wPoison (block % 1024) true })).spoilBlock core
      (block % 1024)).countUe (dieOfTile (core / 4)))
  | .l1Line core line => .next ((s.onCore core (fun k => { k with l1 := dropKey k.l1 line })).countCe (dieOfTile (core / 4)))
  | .sReg sid r => .next (s.regError sid (fun t => t.wr r (t.rd r) true))
  | .vReg sid r unit =>
    .next (s.regError sid (fun t => t.wrV r (t.rdV r) (setBit (t.markV r) unit.toNat true)))
  | .pReg sid r => .next (s.regError sid (fun t => t.wrP r (t.rdP r) true))
  | .kReg sid r => .next (s.regError sid (fun t => t.wrK r (t.rdK r) true))
  | .accElem sid r elem =>
    .next (s.onStrand sid (fun t => t.setErrA r (setBit (t.errA r) (elem % 1024) true)))
  | .storeUnit sid idx =>
    let s := s.countUe (dieOf sid)
    let t := s.strand sid
    if t.task.isNone then .next s
    else if t.restartable then .next (s.abort sid none false)
    else .next (s.setStrand sid { t with buf := (numbered t.buf).map (fun x => if x.1 = idx then { x.2 with poison := true } else x.2) })
  | .stateEntry die rid kind => .next ((s.countUe die).killReport rid 0x85 (BitVec.ofNat 64 kind) 0)

/-! ### Boot and configuration (22 R336, R337) -/

/-- PACKAGE_RESET (R336): the state after reset. Memory and the replay-protected version counter stay; the numbers that the
model gives out go on (log 32). -/
def execPackageReset (s : State) : Host.Outcome State Fault Refusal :=
  .next { State.reset with
    mem := s.mem, memPoison := s.memPoison, lineKey := s.lineKey, minVersion := s.minVersion, hostOut := s.hostOut
    agenda := s.agenda, cur := s.cur, curCore := s.curCore, freeCtr := s.freeCtr, nextBlock := s.nextBlock, nextId := s.nextId }

/-- The register that a stage extends (R336): the stages in order, then MR6 for the first image the host loads and MR7 for
the later ones (DESIGN CHOICE, log 32). -/
def stageReg (stage : Nat) : Nat := min stage 7

/-- BOOT_STAGE (R336): the next stage is measured and verified; its register is extended only then. A boot stage that fails
leaves the package in recovery. -/
def execBootStage (image : List Byte) (verified : Bool) (s : State) : Host.Outcome State Fault Refusal :=
  if s.recovery then .next s
  else if !verified then
    if s.bootStage < 6 then .next ({ s with recovery := true }.send (.recovery (s.bootStage + 1))) else .next (s.managed false)
  else
    let h := shake256 image 64
    let i := stageReg s.bootStage
    let old := (s.mrs[i]?).getD []
    let s := { s with mrs := setAt s.mrs i (shake256 (old ++ h) 64), bootStage := s.bootStage + 1
                      bootHash := if s.bootStage = 1 then h else s.bootHash }
    .next (if i < 6 then s else s.managed true)

/-- A record within the limits of 22 (R325, R332, R337) and R310. -/
def recordOk (r : ConfigRecord) : Bool :=
  400 ≤ r.coreLimit && r.coreLimit ≤ 1800 && r.coreLimit % 25 == 0 && r.power ≤ 2000 && r.sprintMax ≤ 2 ^ 26 &&
  (List.range Config.dieCount).all (fun d => 16 ≤ (tilesOfDie d).countP r.disabled.contains) && partsOk r.ports r.parts

/-- CONFIGURATION_RECORD (R337): a record whose signature fails or whose version is below the counter is refused, and so is one
that boot stage 2 has not measured (R336); else the counter advances and the record applies. -/
def execConfigurationRecord (r : ConfigRecord) (verified : Bool) (s : State) : Host.Outcome State Fault Refusal :=
  let h := shake256 r.image 64
  if !verified || s.recovery || s.bootStage < 2 || h ≠ s.bootHash || r.version < s.minVersion || !recordOk r then
    .next (s.managed false)
  else
  let all := s.disabled != r.disabled
  let s := { s with config := r, disabled := r.disabled, ports := r.ports, minVersion := r.version, configHash := h }
  .next ((s.applyParts r.parts all).managed true)

end Sys2Proof.Machine
end

