-- ==== Sys2Proof/Machine/Prefix.lean ====
section
/-! DEFINITION. Prefixes (05 R102-R105). -/

namespace Sys2Proof.Machine

/-- A prefix sets its field and valid bit and STS.PFX; the group's first prefix gives the address a trap reports
(R107). A prefix of a kind already pending is illegal (R102). -/
def prefixWord (s : State) (valid : Nat) (f : Word → Word) : Host.Outcome State Fault Refusal :=
  let t := s.me
  finish <|
    if bitOf t.pfxr valid then .trap s 1 0
    else .gone (s.onMe (fun t =>
      { t with pfxr := setBit (f t.pfxr) valid true, sts := t.sts ||| 2
               groupPc := if bitOf t.sts 1 then t.groupPc else t.pc, pc := t.pc + 4 }))

/-- The payload of `fmt` (R103). -/
def fmtPayload (rm : BitVec 2) (af bf df : BitVec 4) (scm : BitVec 3) (acc : BitVec 1) : Nat :=
  rm.toNat * 2 ^ 20 + af.toNat * 2 ^ 16 + bf.toNat * 2 ^ 12 + df.toNat * 2 ^ 8 + scm.toNat * 2 ^ 5 + acc.toNat * 2 ^ 4

/-- `fmt` (R103). -/
def execFmt (rm : BitVec 2) (af bf df : BitVec 4) (scm : BitVec 3) (acc : BitVec 1) (s : State) : Host.Outcome State Fault Refusal :=
  prefixWord s 60 (fun x => setBits x 0 22 (fmtPayload rm af bf df scm acc))

/-- `immx` (R104). -/
def execImmx (hi : BitVec 22) (s : State) : Host.Outcome State Fault Refusal := prefixWord s 61 (fun x => setBits x 22 22 hi.toNat)

/-- `hint` (R105): it changes only timing. -/
def execHint (kind : BitVec 4) (s : State) : Host.Outcome State Fault Refusal := prefixWord s 62 (fun x => setBits x 44 4 kind.toNat)

/-- A word of a matrix instruction whose fields or registers are reserved: it fails the first test of its check (09 R186,
R187). -/
def matrixWord (w : BitVec 32) : Bool := fld w 26 6 == 0x29 && fld w 0 7 < 7

/-- A reserved word (R108): the illegal-instruction trap; nothing it names is written. That of a matrix instruction takes it in
its check, which waits for the strand's earlier `copyw`s (09 R186). -/
def execReservedEncoding (w : BitVec 32) (s : State) : Host.Outcome State Fault Refusal :=
  if matrixWord w && s.copywOut s.cur then finish (.stall (s.onMe (fun t => { t with inCheck := true })))
  else finish (.trap s 1 0)

end Sys2Proof.Machine
end

