-- ==== Sys2Proof/Machine/Scalar.lean ====
section
/-! DEFINITION. Scalar integer, immediate and predicate instructions (06 R111-R114). -/

namespace Sys2Proof.Machine

/-- S[d] := f S[a] S[b]; a marked source marks the result (06 R109). -/
def alu2 (s : State) (g : Guard) (d a b : SReg) (f : Word → Word → Word) : Host.Outcome State Fault Refusal :=
  run s { g := g, ss := [d, a, b] }
    (.done (s.onMe (fun t => t.wr d (f (t.rd a) (t.rd b)) (t.markS a || t.markS b))))

/-- S[d] := f S[a]. -/
def alu1 (s : State) (g : Guard) (d a : SReg) (f : Word → Word) : Host.Outcome State Fault Refusal :=
  run s { g := g, ss := [d, a] } (.done (s.onMe (fun t => t.wr d (f (t.rd a)) (t.markS a))))

/-- S[d] := f S[a] imm, the immediate widened by a pending `immx` (05 R83, R104). -/
def aluImm {w : Nat} (s : State) (g : Guard) (d a : SReg) (imm : BitVec w) (f : Word → Word → Word) : Host.Outcome State Fault Refusal :=
  run s { px := .imm, g := g, ss := [d, a] }
    (.done (s.onMe (fun t => t.wr d (f (t.rd a) (t.imm imm)) (t.markS a))))

/-- Bits [127:64] of the exact product. -/
def mulhSigned (a b : Word) : Word := BitVec.ofInt 64 (a.toInt * b.toInt / 2 ^ 64)
def mulhUnsigned (a b : Word) : Word := BitVec.ofNat 64 (a.toNat * b.toNat / 2 ^ 64)

/-- Division never traps (06 R111): by 0 the quotient is all ones and the remainder is a. -/
def divSigned (a b : Word) : Word := if b = 0 then BitVec.allOnes 64 else a.sdiv b
def divUnsigned (a b : Word) : Word := if b = 0 then BitVec.allOnes 64 else a / b
def remSigned (a b : Word) : Word := if b = 0 then a else a.srem b
def remUnsigned (a b : Word) : Word := if b = 0 then a else a % b

/-- Shifts use bits [5:0] of the amount (01 R9). -/
def shiftL (a b : Word) : Word := a <<< (b.toNat % 64)
def shiftR (a b : Word) : Word := a >>> (b.toNat % 64)
def shiftA (a b : Word) : Word := a.sshiftRight (b.toNat % 64)
def rotL (a b : Word) : Word := a.rotateLeft (b.toNat % 64)

def minS (a b : Word) : Word := if b.slt a then b else a
def maxS (a b : Word) : Word := if a.slt b then b else a
def minU (a b : Word) : Word := if b.ult a then b else a
def maxU (a b : Word) : Word := if a.ult b then b else a

/-- `add` (06 R111). -/
def execAdd (g : Guard) (d a b : SReg) (s : State) : Host.Outcome State Fault Refusal := alu2 s g d a b (· + ·)
/-- `sub` (06 R111). -/
def execSub (g : Guard) (d a b : SReg) (s : State) : Host.Outcome State Fault Refusal := alu2 s g d a b (· - ·)
/-- `mul` (06 R111). -/
def execMul (g : Guard) (d a b : SReg) (s : State) : Host.Outcome State Fault Refusal := alu2 s g d a b (· * ·)
/-- `mulh` (06 R111). -/
def execMulh (g : Guard) (d a b : SReg) (s : State) : Host.Outcome State Fault Refusal := alu2 s g d a b mulhSigned
/-- `mulhz` (06 R111). -/
def execMulhz (g : Guard) (d a b : SReg) (s : State) : Host.Outcome State Fault Refusal := alu2 s g d a b mulhUnsigned
/-- `div` (06 R111). -/
def execDiv (g : Guard) (d a b : SReg) (s : State) : Host.Outcome State Fault Refusal := alu2 s g d a b divSigned
/-- `divz` (06 R111). -/
def execDivz (g : Guard) (d a b : SReg) (s : State) : Host.Outcome State Fault Refusal := alu2 s g d a b divUnsigned
/-- `rem` (06 R111). -/
def execRem (g : Guard) (d a b : SReg) (s : State) : Host.Outcome State Fault Refusal := alu2 s g d a b remSigned
/-- `remz` (06 R111). -/
def execRemz (g : Guard) (d a b : SReg) (s : State) : Host.Outcome State Fault Refusal := alu2 s g d a b remUnsigned
/-- `and` (06 R111). -/
def execAnd (g : Guard) (d a b : SReg) (s : State) : Host.Outcome State Fault Refusal := alu2 s g d a b (· &&& ·)
/-- `or` (06 R111). -/
def execOr (g : Guard) (d a b : SReg) (s : State) : Host.Outcome State Fault Refusal := alu2 s g d a b (· ||| ·)
/-- `xor` (06 R111). -/
def execXor (g : Guard) (d a b : SReg) (s : State) : Host.Outcome State Fault Refusal := alu2 s g d a b (· ^^^ ·)
/-- `andn` (06 R111). -/
def execAndn (g : Guard) (d a b : SReg) (s : State) : Host.Outcome State Fault Refusal := alu2 s g d a b (fun x y => x &&& ~~~ y)
/-- `orn` (06 R111). -/
def execOrn (g : Guard) (d a b : SReg) (s : State) : Host.Outcome State Fault Refusal := alu2 s g d a b (fun x y => x ||| ~~~ y)
/-- `shl` (06 R111). -/
def execShl (g : Guard) (d a b : SReg) (s : State) : Host.Outcome State Fault Refusal := alu2 s g d a b shiftL
/-- `shr` (06 R111). -/
def execShr (g : Guard) (d a b : SReg) (s : State) : Host.Outcome State Fault Refusal := alu2 s g d a b shiftR
/-- `sra` (06 R111). -/
def execSra (g : Guard) (d a b : SReg) (s : State) : Host.Outcome State Fault Refusal := alu2 s g d a b shiftA
/-- `rol` (06 R111). -/
def execRol (g : Guard) (d a b : SReg) (s : State) : Host.Outcome State Fault Refusal := alu2 s g d a b rotL
/-- `min` (06 R111). -/
def execMin (g : Guard) (d a b : SReg) (s : State) : Host.Outcome State Fault Refusal := alu2 s g d a b minS
/-- `max` (06 R111). -/
def execMax (g : Guard) (d a b : SReg) (s : State) : Host.Outcome State Fault Refusal := alu2 s g d a b maxS
/-- `minz` (06 R111). -/
def execMinz (g : Guard) (d a b : SReg) (s : State) : Host.Outcome State Fault Refusal := alu2 s g d a b minU
/-- `maxz` (06 R111). -/
def execMaxz (g : Guard) (d a b : SReg) (s : State) : Host.Outcome State Fault Refusal := alu2 s g d a b maxU
/-- `clz` (06 R111). -/
def execClz (g : Guard) (d a : SReg) (s : State) : Host.Outcome State Fault Refusal := alu1 s g d a (fun x => BitVec.ofNat 64 (clz64 x))
/-- `ctz` (06 R111). -/
def execCtz (g : Guard) (d a : SReg) (s : State) : Host.Outcome State Fault Refusal := alu1 s g d a (fun x => BitVec.ofNat 64 (ctz64 x))
/-- `popc` (06 R111). -/
def execPopc (g : Guard) (d a : SReg) (s : State) : Host.Outcome State Fault Refusal := alu1 s g d a (fun x => BitVec.ofNat 64 (popCount x))
/-- `bswap` (06 R111). -/
def execBswap (g : Guard) (d a : SReg) (s : State) : Host.Outcome State Fault Refusal := alu1 s g d a bswap64
/-- `sextB` (06 R111). -/
def execSextB (g : Guard) (d a : SReg) (s : State) : Host.Outcome State Fault Refusal := alu1 s g d a (fun x => (x.truncate 8).signExtend 64)
/-- `sextH` (06 R111). -/
def execSextH (g : Guard) (d a : SReg) (s : State) : Host.Outcome State Fault Refusal := alu1 s g d a (fun x => (x.truncate 16).signExtend 64)
/-- `sextW` (06 R111). -/
def execSextW (g : Guard) (d a : SReg) (s : State) : Host.Outcome State Fault Refusal := alu1 s g d a (fun x => (x.truncate 32).signExtend 64)
/-- `zextB` (06 R111). -/
def execZextB (g : Guard) (d a : SReg) (s : State) : Host.Outcome State Fault Refusal := alu1 s g d a (fun x => (x.truncate 8).zeroExtend 64)
/-- `zextH` (06 R111). -/
def execZextH (g : Guard) (d a : SReg) (s : State) : Host.Outcome State Fault Refusal := alu1 s g d a (fun x => (x.truncate 16).zeroExtend 64)
/-- `zextW` (06 R111). -/
def execZextW (g : Guard) (d a : SReg) (s : State) : Host.Outcome State Fault Refusal := alu1 s g d a (fun x => (x.truncate 32).zeroExtend 64)
/-- `sel` (06 R111): a marked selector traps (R110). -/
def execSel (g : Guard) (d a b : SReg) (n : PReg) (s : State) : Host.Outcome State Fault Refusal :=
  run s { g := g, ss := [d, a, b] } <| poisonP s [n] <|
    .done (s.onMe (fun t =>
      if (t.rdP n).getLsbD 0 then t.wr d (t.rd a) (t.markS a || t.markS b) else t.wr d (t.rd b) (t.markS a || t.markS b)))

/-- `cmp.cc` (06 R111, 01 R9): a marked source traps (R109). -/
def execCmp (g : Guard) (d : PReg) (a b : SReg) (cc : BitVec 4) (s : State) : Host.Outcome State Fault Refusal :=
  run s { g := g, ss := [a, b] } <| poisonS s [a, b] <|
    .done (s.onMe (fun t => t.setCond d (condHolds cc.toNat (t.rd a) (t.rd b))))

/-- `cmpi.cc` (06 R112). -/
def execCmpi (g : Guard) (d : PReg) (cc : BitVec 4) (a : SReg) (imm : BitVec 10) (s : State) : Host.Outcome State Fault Refusal :=
  run s { px := .imm, g := g, ss := [a] } <| poisonS s [a] <|
    .done (s.onMe (fun t => t.setCond d (condHolds cc.toNat (t.rd a) (t.imm imm))))

/-- `addi` (06 R112). -/
def execAddi (g : Guard) (d a : SReg) (imm : BitVec 12) (s : State) : Host.Outcome State Fault Refusal := aluImm s g d a imm (· + ·)
/-- `andi` (06 R112). -/
def execAndi (g : Guard) (d a : SReg) (imm : BitVec 12) (s : State) : Host.Outcome State Fault Refusal := aluImm s g d a imm (· &&& ·)
/-- `ori` (06 R112). -/
def execOri (g : Guard) (d a : SReg) (imm : BitVec 12) (s : State) : Host.Outcome State Fault Refusal := aluImm s g d a imm (· ||| ·)
/-- `xori` (06 R112). -/
def execXori (g : Guard) (d a : SReg) (imm : BitVec 12) (s : State) : Host.Outcome State Fault Refusal := aluImm s g d a imm (· ^^^ ·)
/-- `shli` (06 R112). -/
def execShli (g : Guard) (d a : SReg) (n : BitVec 6) (s : State) : Host.Outcome State Fault Refusal :=
  alu1 s g d a (fun x => shiftL x (n.zeroExtend 64))
/-- `shri` (06 R112). -/
def execShri (g : Guard) (d a : SReg) (n : BitVec 6) (s : State) : Host.Outcome State Fault Refusal :=
  alu1 s g d a (fun x => shiftR x (n.zeroExtend 64))
/-- `srai` (06 R112). -/
def execSrai (g : Guard) (d a : SReg) (n : BitVec 6) (s : State) : Host.Outcome State Fault Refusal :=
  alu1 s g d a (fun x => shiftA x (n.zeroExtend 64))
/-- `roli` (06 R112). -/
def execRoli (g : Guard) (d a : SReg) (n : BitVec 6) (s : State) : Host.Outcome State Fault Refusal :=
  alu1 s g d a (fun x => rotL x (n.zeroExtend 64))
/-- `lui` (06 R113). -/
def execLui (d : SReg) (imm : BitVec 21) (s : State) : Host.Outcome State Fault Refusal :=
  run s { px := .imm, ss := [d] } (.done (s.onMe (fun t => t.wr d (t.imm imm <<< 12) false)))

/-- `addpc` (06 R113): from the address of the `addpc` itself. -/
def execAddpc (d : SReg) (imm : BitVec 21) (s : State) : Host.Outcome State Fault Refusal :=
  run s { px := .imm, ss := [d] } (.done (s.onMe (fun t => t.wr d (t.pc + t.imm imm * 4) false)))

/-- P[d] := f P[a] P[b]; a marked source marks the result (06 R110, R114). -/
def pred2 (s : State) (g : Guard) (d a b : PReg) (f : Word → Word → Word) : Host.Outcome State Fault Refusal :=
  run s { g := g } (.done (s.onMe (fun t => t.wrP d (f (t.rdP a) (t.rdP b)) (t.markP a || t.markP b))))

/-- `pand` (06 R114). -/
def execPand (g : Guard) (d a b : PReg) (s : State) : Host.Outcome State Fault Refusal := pred2 s g d a b (· &&& ·)
/-- `por` (06 R114). -/
def execPor (g : Guard) (d a b : PReg) (s : State) : Host.Outcome State Fault Refusal := pred2 s g d a b (· ||| ·)
/-- `pxor` (06 R114). -/
def execPxor (g : Guard) (d a b : PReg) (s : State) : Host.Outcome State Fault Refusal := pred2 s g d a b (· ^^^ ·)
/-- `pnot` (06 R114). -/
def execPnot (g : Guard) (d a : PReg) (s : State) : Host.Outcome State Fault Refusal :=
  run s { g := g } (.done (s.onMe (fun t => t.wrP d (~~~ t.rdP a) (t.markP a))))

/-- `pmov pd, pa` (06 R114). -/
def execPmovPP (g : Guard) (d a : PReg) (s : State) : Host.Outcome State Fault Refusal :=
  run s { g := g } (.done (s.onMe (fun t => t.wrP d (t.rdP a) (t.markP a))))

/-- `pmov pd, sa` (06 R114): a marked source traps (R109). -/
def execPmovPS (g : Guard) (d : PReg) (a : SReg) (s : State) : Host.Outcome State Fault Refusal :=
  run s { g := g, ss := [a] } <| poisonS s [a] <| .done (s.onMe (fun t => t.wrP d (t.rd a) false))

/-- `pmov sd, pa` (06 R114). -/
def execPmovSP (g : Guard) (d : SReg) (a : PReg) (s : State) : Host.Outcome State Fault Refusal :=
  run s { g := g, ss := [d] } (.done (s.onMe (fun t => t.wr d (t.rdP a) (t.markP a))))

/-- `pcount sd, pa` (06 R114). -/
def execPcount (g : Guard) (d : SReg) (a : PReg) (s : State) : Host.Outcome State Fault Refusal :=
  run s { g := g, ss := [d] } (.done (s.onMe (fun t => t.wr d (BitVec.ofNat 64 (popCount (t.rdP a))) (t.markP a))))

end Sys2Proof.Machine
end

