-- ==== Sys2Proof/Machine/ScalarFp.lean ====
section
/-! DEFINITION. Scalar floating point (06 R119-R122). -/

namespace Sys2Proof.Machine

/-- The operand of a precision: all of the register, or its low 32 bits (R119). -/
def fpArg (f : FFmt) (x : Word) : Nat := x.toNat % 2 ^ f.width

/-- An operation on two operands under the mode of a pending `fmt` (05 R103). -/
def fp2 (s : State) (g : Guard) (d a b : SReg) (q : BitVec 1) (op : FFmt → RMode → Nat → Nat → Nat) : Host.Outcome State Fault Refusal :=
  let f := precision q
  run s { px := .mode, ok := rmOnly s.me.pfxr, g := g, ss := [d, a, b] }
    (.done (s.onMe (fun t =>
      t.wr d (BitVec.ofNat 64 (op f (modeOf t) (fpArg f (t.rd a)) (fpArg f (t.rd b)))) (t.markS a || t.markS b))))

/-- `fadd` (R119). -/
def execFadd (g : Guard) (d a b : SReg) (q : BitVec 1) (s : State) : Host.Outcome State Fault Refusal := fp2 s g d a b q FFmt.add
/-- `fsub` (R119). -/
def execFsub (g : Guard) (d a b : SReg) (q : BitVec 1) (s : State) : Host.Outcome State Fault Refusal := fp2 s g d a b q FFmt.sub
/-- `fmul` (R119). -/
def execFmul (g : Guard) (d a b : SReg) (q : BitVec 1) (s : State) : Host.Outcome State Fault Refusal := fp2 s g d a b q FFmt.mul
/-- `fdiv` (R119). -/
def execFdiv (g : Guard) (d a b : SReg) (q : BitVec 1) (s : State) : Host.Outcome State Fault Refusal := fp2 s g d a b q FFmt.div
/-- `fmin` (R119). -/
def execFmin (g : Guard) (d a b : SReg) (q : BitVec 1) (s : State) : Host.Outcome State Fault Refusal := fp2 s g d a b q (fun f _ x y => f.min x y)
/-- `fmax` (R119). -/
def execFmax (g : Guard) (d a b : SReg) (q : BitVec 1) (s : State) : Host.Outcome State Fault Refusal := fp2 s g d a b q (fun f _ x y => f.max x y)
/-- `fma` (R119): S[d] is the addend. -/
def execFma (g : Guard) (d a b : SReg) (q : BitVec 1) (s : State) : Host.Outcome State Fault Refusal :=
  let f := precision q
  run s { px := .mode, ok := rmOnly s.me.pfxr, g := g, ss := [d, a, b] }
    (.done (s.onMe (fun t =>
      t.wr d (BitVec.ofNat 64 (f.fma (modeOf t) (fpArg f (t.rd a)) (fpArg f (t.rd b)) (fpArg f (t.rd d))))
        (t.markS a || t.markS b || t.markS d))))

/-- `fsqrt` (R119). -/
def execFsqrt (g : Guard) (d a : SReg) (q : BitVec 1) (s : State) : Host.Outcome State Fault Refusal :=
  let f := precision q
  run s { px := .mode, ok := rmOnly s.me.pfxr, g := g, ss := [d, a] }
    (.done (s.onMe (fun t => t.wr d (BitVec.ofNat 64 (f.sqrt (modeOf t) (fpArg f (t.rd a)))) (t.markS a))))

/-- `fclass` (R120). -/
def execFclass (g : Guard) (d a : SReg) (q : BitVec 1) (s : State) : Host.Outcome State Fault Refusal :=
  let f := precision q
  run s { px := .mode, ok := rmOnly s.me.pfxr, g := g, ss := [d, a] }
    (.done (s.onMe (fun t => t.wr d (BitVec.ofNat 64 (f.classify (fpArg f (t.rd a)))) (t.markS a))))

/-- `fcmp.cc` (R121). -/
def execFcmp (g : Guard) (d : PReg) (a b : SReg) (cc : BitVec 3) (q : BitVec 1) (s : State) : Host.Outcome State Fault Refusal :=
  let f := precision q
  run s { px := .mode, ok := rmOnly s.me.pfxr, g := g, ss := [a, b] } <| poisonS s [a, b] <|
    .done (s.onMe (fun t => t.setCond d (f.cmp cc.toNat (fpArg f (t.rd a)) (fpArg f (t.rd b)))))

/-- An i8 to i64 result is sign-extended, every other zero-extended (R122). -/
def extendElem (e : ElemFmt) (x : Nat) : Word :=
  match e with
  | .int true w => BitVec.ofInt 64 (intOf true w x)
  | _ => BitVec.ofNat 64 x

/-- `fcvt` (R122). -/
def execFcvt (g : Guard) (d a : SReg) (src tgt : BitVec 4) (s : State) : Host.Outcome State Fault Refusal :=
  let e := elemFmt src
  run s { px := .mode, ok := rmOnly s.me.pfxr, g := g, ss := [d, a] }
    (.done (s.onMe (fun t =>
      t.wr d (extendElem (elemFmt tgt) (convertElem (modeOf t) e (elemFmt tgt) ((t.rd a).toNat % 2 ^ e.width))) (t.markS a))))

end Sys2Proof.Machine
end

