-- ==== Sys2Proof/Machine/VectorFp.lean ====
section
/-! DEFINITION. Vector floating-point instructions (07 R143-R146). -/

namespace Sys2Proof.Machine

/-- Each live element as the scalar operation of 06 R119, in the element's format. -/
def vecFp2 (s : State) (g : Guard) (d a b : VReg) (t : BitVec 2) (op : FFmt → RMode → Nat → Nat → Nat) : Host.Outcome State Fault Refusal :=
  let f := fpType t
  vec2 s .mode (rmOnly s.me.pfxr) g d a b (f.width / 8) (fun st x y => op f (modeOf st) x y)

def vecFp1 (s : State) (g : Guard) (d a : VReg) (t : BitVec 2) (op : FFmt → RMode → Nat → Nat) : Host.Outcome State Fault Refusal :=
  let f := fpType t
  let n := f.width / 8
  vecWrite s .mode (rmOnly s.me.pfxr) g d [a] [] id
    (fun st => mapElems n (fun i => op f (modeOf st) (elemOf (st.rdV a) n i))) (fun st _ => st.markV a)

/-- `vaddFp` (R143). -/
def execVaddFp (g : Guard) (d a b : VReg) (t : BitVec 2) (s : State) : Host.Outcome State Fault Refusal := vecFp2 s g d a b t FFmt.add
/-- `vsubFp` (R143). -/
def execVsubFp (g : Guard) (d a b : VReg) (t : BitVec 2) (s : State) : Host.Outcome State Fault Refusal := vecFp2 s g d a b t FFmt.sub
/-- `vmulFp` (R143). -/
def execVmulFp (g : Guard) (d a b : VReg) (t : BitVec 2) (s : State) : Host.Outcome State Fault Refusal := vecFp2 s g d a b t FFmt.mul
/-- `vdiv` (R143). -/
def execVdiv (g : Guard) (d a b : VReg) (t : BitVec 2) (s : State) : Host.Outcome State Fault Refusal := vecFp2 s g d a b t FFmt.div
/-- `vminFp` (R143). -/
def execVminFp (g : Guard) (d a b : VReg) (t : BitVec 2) (s : State) : Host.Outcome State Fault Refusal := vecFp2 s g d a b t (fun f _ x y => f.min x y)
/-- `vmaxFp` (R143). -/
def execVmaxFp (g : Guard) (d a b : VReg) (t : BitVec 2) (s : State) : Host.Outcome State Fault Refusal := vecFp2 s g d a b t (fun f _ x y => f.max x y)
/-- `vsqrt` (R143, R144). -/
def execVsqrt (g : Guard) (d a : VReg) (t : BitVec 2) (s : State) : Host.Outcome State Fault Refusal := vecFp1 s g d a t FFmt.sqrt
/-- `vfrsqe` (R143, R144). -/
def execVfrsqe (g : Guard) (d a : VReg) (t : BitVec 2) (s : State) : Host.Outcome State Fault Refusal := vecFp1 s g d a t FFmt.rsqrt
/-- `vabs` (R143, R144). -/
def execVabs (g : Guard) (d a : VReg) (t : BitVec 2) (s : State) : Host.Outcome State Fault Refusal := vecFp1 s g d a t (fun f _ x => f.abs x)
/-- `vfma` (R143): the old element of V[d] is the addend. -/
def execVfma (g : Guard) (d a b : VReg) (t : BitVec 2) (s : State) : Host.Outcome State Fault Refusal :=
  let f := fpType t
  let n := f.width / 8
  vecWrite s .mode (rmOnly s.me.pfxr) g d [a, b] [] id
    (fun st => mapElems n (fun i =>
      f.fma (modeOf st) (elemOf (st.rdV a) n i) (elemOf (st.rdV b) n i) (elemOf (st.rdV d) n i)))
    (fun st _ => st.markV a ||| st.markV b ||| st.markV d)

/-- `vcmp.cc` on floating point (R145). -/
def execVcmpFp (g : Guard) (d : PReg) (a b : VReg) (cc : BitVec 3) (t : BitVec 2) (s : State) : Host.Outcome State Fault Refusal :=
  let f := fpType t
  vecCmp s .mode (rmOnly s.me.pfxr) g d a b (f.width / 8) (fun x y => f.cmp cc.toNat x y)

/-- Element i of a register in a format; c4 codes are nibbles, read through a code table (04 R68, R73). -/
def cvtSource (v : Vec) (e : ElemFmt) (table : BitVec 128) (i : Nat) : Nat :=
  match e with
  | .c4 => fld table (8 * fld v (4 * i) 4) 8
  | e => fld v (e.width * i) e.width

/-- `vcvt` (R146). c4 converts to i8 through the core's table, whose owner is checked (04 R73). -/
def execVcvt (g : Guard) (d a : VReg) (src tgt : BitVec 4) (s : State) : Host.Outcome State Fault Refusal :=
  let e := elemFmt src
  let o := elemFmt tgt
  let cnt := 512 / max e.width o.width
  let core := s.core (coreOf s.cur)
  let n := o.width / 8
  vecWrite s .mode (rmOnly s.me.pfxr) g d [a] []
    (fun k => if e = .c4 && core.tableOwner != some s.me.rid then .trap s 0x23 0 else k)
    (fun st => mapElems n (fun i =>
      if i < cnt then
        let x := cvtSource (st.rdV a) e core.table i
        if e = .c4 then x else convertElem (modeOf st) e o x
      else 0))
    (fun st en => marksFrom n en (fun i => i < cnt && bitOf (st.markV a) (i * e.width / 64)))

end Sys2Proof.Machine
end

