-- ==== Sys2Proof/Machine/VectorInt.lean ====
section
/-! DEFINITION. Vector integer instructions (07 R141, R142). -/

namespace Sys2Proof.Machine

/-- An element-wise operation on patterns of 8 n bits. -/
def vecInt (s : State) (g : Guard) (d a b : VReg) (w : BitVec 2) (f : (W : Nat) → BitVec W → BitVec W → BitVec W) : Host.Outcome State Fault Refusal :=
  let n : Nat := 2 ^ w.toNat
  vec2 s .none true g d a b n (fun _ x y => (f (8 * n) (BitVec.ofNat _ x) (BitVec.ofNat _ y)).toNat)

/-- `vaddInt` (R141). -/
def execVaddInt (g : Guard) (d a b : VReg) (w : BitVec 2) (s : State) : Host.Outcome State Fault Refusal :=
  vecInt s g d a b w (fun _ x y => x + y)
/-- `vsubInt` (R141). -/
def execVsubInt (g : Guard) (d a b : VReg) (w : BitVec 2) (s : State) : Host.Outcome State Fault Refusal :=
  vecInt s g d a b w (fun _ x y => x - y)
/-- `vmulInt` (R141). -/
def execVmulInt (g : Guard) (d a b : VReg) (w : BitVec 2) (s : State) : Host.Outcome State Fault Refusal :=
  vecInt s g d a b w (fun _ x y => x * y)
/-- `vmulh` (R141). -/
def execVmulh (g : Guard) (d a b : VReg) (w : BitVec 2) (s : State) : Host.Outcome State Fault Refusal :=
  vecInt s g d a b w (fun W x y => BitVec.ofInt W (x.toInt * y.toInt / 2 ^ W))
/-- `vmulhz` (R141). -/
def execVmulhz (g : Guard) (d a b : VReg) (w : BitVec 2) (s : State) : Host.Outcome State Fault Refusal :=
  vecInt s g d a b w (fun W x y => BitVec.ofNat W (x.toNat * y.toNat / 2 ^ W))
/-- `vand` (R141). -/
def execVand (g : Guard) (d a b : VReg) (w : BitVec 2) (s : State) : Host.Outcome State Fault Refusal :=
  vecInt s g d a b w (fun _ x y => x &&& y)
/-- `vor` (R141). -/
def execVor (g : Guard) (d a b : VReg) (w : BitVec 2) (s : State) : Host.Outcome State Fault Refusal :=
  vecInt s g d a b w (fun _ x y => x ||| y)
/-- `vxor` (R141). -/
def execVxor (g : Guard) (d a b : VReg) (w : BitVec 2) (s : State) : Host.Outcome State Fault Refusal :=
  vecInt s g d a b w (fun _ x y => x ^^^ y)
/-- `vshl` (R141). -/
def execVshl (g : Guard) (d a b : VReg) (w : BitVec 2) (s : State) : Host.Outcome State Fault Refusal :=
  vecInt s g d a b w (fun W x y => x <<< (y.toNat % W))
/-- `vshr` (R141). -/
def execVshr (g : Guard) (d a b : VReg) (w : BitVec 2) (s : State) : Host.Outcome State Fault Refusal :=
  vecInt s g d a b w (fun W x y => x >>> (y.toNat % W))
/-- `vsra` (R141). -/
def execVsra (g : Guard) (d a b : VReg) (w : BitVec 2) (s : State) : Host.Outcome State Fault Refusal :=
  vecInt s g d a b w (fun W x y => x.sshiftRight (y.toNat % W))
/-- `vminInt` (R141). -/
def execVminInt (g : Guard) (d a b : VReg) (w : BitVec 2) (s : State) : Host.Outcome State Fault Refusal :=
  vecInt s g d a b w (fun _ x y => if y.slt x then y else x)
/-- `vmaxInt` (R141). -/
def execVmaxInt (g : Guard) (d a b : VReg) (w : BitVec 2) (s : State) : Host.Outcome State Fault Refusal :=
  vecInt s g d a b w (fun _ x y => if x.slt y then y else x)
/-- `vminz` (R141). -/
def execVminz (g : Guard) (d a b : VReg) (w : BitVec 2) (s : State) : Host.Outcome State Fault Refusal :=
  vecInt s g d a b w (fun _ x y => if y.ult x then y else x)
/-- `vmaxz` (R141). -/
def execVmaxz (g : Guard) (d a b : VReg) (w : BitVec 2) (s : State) : Host.Outcome State Fault Refusal :=
  vecInt s g d a b w (fun _ x y => if x.ult y then y else x)
/-- `vcmp.cc` on integers (R142). -/
def execVcmpInt (g : Guard) (d : PReg) (a b : VReg) (cc : BitVec 4) (w : BitVec 2) (s : State) : Host.Outcome State Fault Refusal :=
  let n : Nat := 2 ^ w.toNat
  vecCmp s .none true g d a b n (fun x y => condHolds cc.toNat (BitVec.ofNat (8 * n) x) (BitVec.ofNat (8 * n) y))

end Sys2Proof.Machine
end

