-- ==== Sys2Proof/Machine/VectorLane.lean ====
section
/-! DEFINITION. Lanes, movement, reductions, scans and short dot products (07 R147-R150). -/

namespace Sys2Proof.Machine

/-- `vsel` (R147): byte by byte. -/
def execVsel (g : Guard) (d a b : VReg) (n : PReg) (s : State) : Host.Outcome State Fault Refusal :=
  vecWrite s .none true g d [a, b] [] (poisonP s [n])
    (fun t => let k := byteMask (t.rdP n); (t.rdV a &&& k) ||| (t.rdV b &&& ~~~ k))
    (fun t en => marksFrom 1 en (fun j => bitOf (if (t.rdP n).getLsbD j then t.markV a else t.markV b) (j / 8)))

/-- `vbcast` (R147). -/
def execVbcast (g : Guard) (d : VReg) (a : SReg) (w : BitVec 2) (s : State) : Host.Outcome State Fault Refusal :=
  vecWrite s .none true g d [] [a] id (fun t => mapElems (2 ^ w.toNat) (fun _ => (t.rd a).toNat))
    (fun t _ => if t.markS a then BitVec.allOnes 8 else 0)

/-- `vperm` (R147). -/
def execVperm (g : Guard) (d a b : VReg) (w : BitVec 2) (s : State) : Host.Outcome State Fault Refusal :=
  let n : Nat := 2 ^ w.toNat
  vecWrite s .none true g d [a, b] [] id
    (fun t => mapElems n (fun i => let k := elemOf (t.rdV b) n i; if k < 64 / n then elemOf (t.rdV a) n k else 0))
    (fun t en => marksFrom n en (fun i =>
      let k := elemOf (t.rdV b) n i
      elemMark (t.markV b) n i || (k < 64 / n && elemMark (t.markV a) n k)))

/-- `vslide` (R147): the count is signed; a marked count traps (R136). -/
def execVslide (g : Guard) (d a : VReg) (b : SReg) (w : BitVec 2) (s : State) : Host.Outcome State Fault Refusal :=
  let n : Nat := 2 ^ w.toNat
  let at' : Strand → Nat → Option Nat := fun t i =>
    let k : Int := i + (t.rd b).toInt
    if 0 ≤ k ∧ k < 64 / n then some k.toNat else none
  vecWrite s .none true g d [a] [b] (poisonS s [b])
    (fun t => mapElems n (fun i => match at' t i with
      | some k => elemOf (t.rdV a) n k
      | none => 0))
    (fun t en => marksFrom n en (fun i => match at' t i with
      | some k => elemMark (t.markV a) n k
      | none => false))

/-- `vext` (R147): the guard's bit 0 decides. -/
def execVext (g : Guard) (d : SReg) (a : VReg) (b : SReg) (w : BitVec 2) (s : State) : Host.Outcome State Fault Refusal :=
  let n : Nat := 2 ^ w.toNat
  run s { g := g, ss := [d, b], vs := [a] } <| poisonS s [b] <|
    .done (s.onMe (fun t =>
      let k := (t.rd b).toNat
      if k < 64 / n then t.wr d (BitVec.ofNat 64 (elemOf (t.rdV a) n k)) (elemMark (t.markV a) n k) else t.wr d 0 false))

/-- `vins` (R147). -/
def execVins (g : Guard) (d : VReg) (a b : SReg) (w : BitVec 2) (s : State) : Host.Outcome State Fault Refusal :=
  let n : Nat := 2 ^ w.toNat
  run s { g := g, perByte := true, ss := [a, b], vs := [d] } <|
    if s.me.guardBytes g = 0 then .done s else
    poisonS s [b] <|
    .done (s.onMe (fun t =>
      let k := (t.rd b).toNat
      if k < 64 / n then
        t.wrVBytes d (mapElems n (fun _ => (t.rd a).toNat))
          (t.guardBytes g &&& BitVec.ofNat 64 ((2 ^ n - 1) * 2 ^ (n * k))) (if t.markS a then BitVec.allOnes 8 else 0)
      else t))

/-! ### Reductions (R148) -/

/-- One level of the tree: neighbours combined, an empty place gives way. -/
def pairUp {α : Type} (f : α → α → α) : List (Option α) → List (Option α)
  | x :: y :: r => (match x, y with
      | some a, some b => some (f a b)
      | some a, none => some a
      | none, y => y) :: pairUp f r
  | l => l

/-- The whole tree: 6 levels are enough for 64 elements. -/
def treeReduce {α : Type} (f : α → α → α) : Nat → List (Option α) → Option α
  | 0, l => (l.head?).bind id
  | n + 1, l => treeReduce f n (pairUp f l)

/-- The integer operations of `vred`: 0 add, 1 min, 2 max, 3 minz, 4 maxz, 5 and, 6 or, 7 xor, with their identities. -/
def redComb (W op : Nat) (x y : BitVec W) : BitVec W :=
  match op with
  | 0 => x + y
  | 1 => if y.slt x then y else x
  | 2 => if x.slt y then y else x
  | 3 => if y.ult x then y else x
  | 4 => if x.ult y then y else x
  | 5 => x &&& y
  | 6 => x ||| y
  | _ => x ^^^ y

def redIdentity (W op : Nat) : BitVec W :=
  match op with
  | 1 => BitVec.intMax W
  | 2 => BitVec.intMin W
  | 3 | 5 => BitVec.allOnes W
  | _ => 0

/-- The selected elements of V[a], and whether one of them is marked. -/
def selected (t : Strand) (a : VReg) (n : PReg) (k : Nat) : List (Option Nat) :=
  (List.range (64 / k)).map (fun i => if elemSelected (t.rdP n) k i then some (elemOf (t.rdV a) k i) else none)

def selectedMark (t : Strand) (a : VReg) (n : PReg) (k upto : Nat) : Bool :=
  (List.range upto).any (fun i => elemSelected (t.rdP n) k i && elemMark (t.markV a) k i)

/-- Integer `vred` (R148). -/
def execVredInt (g : Guard) (d : SReg) (a : VReg) (n : PReg) (op : BitVec 3) (w : BitVec 2) (s : State) : Host.Outcome State Fault Refusal :=
  let k : Nat := 2 ^ w.toNat
  run s { g := g, ss := [d], vs := [a] } <| poisonP s [n] <|
    .done (s.onMe (fun t =>
      let l := (selected t a n k).map (Option.map (BitVec.ofNat (8 * k)))
      let x := (treeReduce (redComb (8 * k) op.toNat) 6 l).getD (redIdentity (8 * k) op.toNat)
      t.wr d (if op = 3 || op = 4 then x.zeroExtend 64 else x.signExtend 64) (selectedMark t a n k (64 / k))))

/-- Floating-point `vred` (R148): each node rounds with RNE. -/
def execVredFp (g : Guard) (d : SReg) (a : VReg) (n : PReg) (op t : BitVec 2) (s : State) : Host.Outcome State Fault Refusal :=
  let f := fpType t
  let k := f.width / 8
  let comb : Nat → Nat → Nat := if op = 0 then f.add .rne else if op = 1 then f.min else f.max
  let ident : Nat := if op = 0 then 0 else if op = 1 then f.encInf false else f.encInf true
  run s { g := g, ss := [d], vs := [a] } <| poisonP s [n] <|
    .done (s.onMe (fun st =>
      st.wr d (BitVec.ofNat 64 ((treeReduce comb 6 (selected st a n k)).getD ident)) (selectedMark st a n k (64 / k))))

/-! ### Scans (R149) -/

/-- Running sums of the selected elements. -/
def scanFrom (acc : Nat) : List (Option Nat) → List Nat
  | [] => []
  | x :: r => (acc + x.getD 0) :: scanFrom (acc + x.getD 0) r

/-- `vscan` (R149). -/
def execVscan (g : Guard) (d a : VReg) (n : PReg) (w : BitVec 2) (s : State) : Host.Outcome State Fault Refusal :=
  let k : Nat := 2 ^ w.toNat
  vecWrite s .none true g d [a] [] (poisonP s [n])
    (fun t => let l := scanFrom 0 (selected t a n k); mapElems k (fun i => (l[i]?).getD 0))
    (fun t en => marksFrom k en (fun i => selectedMark t a n k (i + 1)))

/-- `vcompact` (R149). -/
def execVcompact (g : Guard) (d a : VReg) (n : PReg) (w : BitVec 2) (s : State) : Host.Outcome State Fault Refusal :=
  let k : Nat := 2 ^ w.toNat
  let at' : Strand → List Nat := fun t => (List.range (64 / k)).filter (elemSelected (t.rdP n) k)
  vecWrite s .none true g d [a] [] (poisonP s [n])
    (fun t => let l := at' t; mapElems k (fun i => match l[i]? with
      | some j => elemOf (t.rdV a) k j
      | none => 0))
    (fun t en => let l := at' t; marksFrom k en (fun i => match l[i]? with
      | some j => elemMark (t.markV a) k j
      | none => false))

/-! ### Dot products (R150) -/

/-- Sixteen 32-bit lanes, each D[j] with its products. -/
def vecDot (s : State) (g : Guard) (d a b : VReg) (lane : Nat → List (Nat × Nat) → Nat) (n : Nat) : Host.Outcome State Fault Refusal :=
  let k := 4 / n
  vecWrite s .none true g d [a, b] [] id
    (fun t => mapElems 4 (fun j => lane (elemOf (t.rdV d) 4 j)
      ((List.range k).map (fun i => (elemOf (t.rdV a) n (k * j + i), elemOf (t.rdV b) n (k * j + i))))))
    (fun t _ => t.markV a ||| t.markV b ||| t.markV d)

def dotInt (c : Nat) (l : List (Nat × Nat)) : Nat :=
  (BitVec.ofInt 32 (l.foldl (fun acc x => acc + intOf true 8 x.1 * intOf true 8 x.2) (c : Int))).toNat

def dotFp (f : FFmt) (c : Nat) (l : List (Nat × Nat)) : Nat :=
  FFmt.f32.ofVal .rne (sumVals (FFmt.f32.decode c :: l.map (fun x => (f.decode x.1).mul (f.decode x.2))))

/-- `vdotI8` (R150). -/
def execVdotI8 (g : Guard) (d a b : VReg) (s : State) : Host.Outcome State Fault Refusal := vecDot s g d a b dotInt 1
/-- `vdotF16` (R150). -/
def execVdotF16 (g : Guard) (d a b : VReg) (s : State) : Host.Outcome State Fault Refusal := vecDot s g d a b (dotFp .f16) 2
/-- `vdotBf16` (R150). -/
def execVdotBf16 (g : Guard) (d a b : VReg) (s : State) : Host.Outcome State Fault Refusal := vecDot s g d a b (dotFp .bf16) 2
/-- `vdotE4m3` (R150). -/
def execVdotE4m3 (g : Guard) (d a b : VReg) (s : State) : Host.Outcome State Fault Refusal := vecDot s g d a b (dotFp .fp8) 1

end Sys2Proof.Machine
end

