-- ==== Sys2Proof/Machine/Dispatch.lean ====
section
/-! DEFINITION. One arm per instruction: its meaning. -/

namespace Sys2Proof.Machine

/-- The meaning of every instruction. -/
def exec (i : Instr) (s : State) : Host.Outcome State Fault Refusal :=
  match i with
  | .add g d a b => Sys2Proof.Machine.execAdd g d a b s
  | .sub g d a b => Sys2Proof.Machine.execSub g d a b s
  | .mul g d a b => Sys2Proof.Machine.execMul g d a b s
  | .mulh g d a b => Sys2Proof.Machine.execMulh g d a b s
  | .mulhz g d a b => Sys2Proof.Machine.execMulhz g d a b s
  | .div g d a b => Sys2Proof.Machine.execDiv g d a b s
  | .divz g d a b => Sys2Proof.Machine.execDivz g d a b s
  | .rem g d a b => Sys2Proof.Machine.execRem g d a b s
  | .remz g d a b => Sys2Proof.Machine.execRemz g d a b s
  | .and g d a b => Sys2Proof.Machine.execAnd g d a b s
  | .or g d a b => Sys2Proof.Machine.execOr g d a b s
  | .xor g d a b => Sys2Proof.Machine.execXor g d a b s
  | .andn g d a b => Sys2Proof.Machine.execAndn g d a b s
  | .orn g d a b => Sys2Proof.Machine.execOrn g d a b s
  | .shl g d a b => Sys2Proof.Machine.execShl g d a b s
  | .shr g d a b => Sys2Proof.Machine.execShr g d a b s
  | .sra g d a b => Sys2Proof.Machine.execSra g d a b s
  | .rol g d a b => Sys2Proof.Machine.execRol g d a b s
  | .clz g d a => Sys2Proof.Machine.execClz g d a s
  | .ctz g d a => Sys2Proof.Machine.execCtz g d a s
  | .popc g d a => Sys2Proof.Machine.execPopc g d a s
  | .bswap g d a => Sys2Proof.Machine.execBswap g d a s
  | .min g d a b => Sys2Proof.Machine.execMin g d a b s
  | .max g d a b => Sys2Proof.Machine.execMax g d a b s
  | .minz g d a b => Sys2Proof.Machine.execMinz g d a b s
  | .maxz g d a b => Sys2Proof.Machine.execMaxz g d a b s
  | .sextB g d a => Sys2Proof.Machine.execSextB g d a s
  | .sextH g d a => Sys2Proof.Machine.execSextH g d a s
  | .sextW g d a => Sys2Proof.Machine.execSextW g d a s
  | .zextB g d a => Sys2Proof.Machine.execZextB g d a s
  | .zextH g d a => Sys2Proof.Machine.execZextH g d a s
  | .zextW g d a => Sys2Proof.Machine.execZextW g d a s
  | .sel g d a b n => Sys2Proof.Machine.execSel g d a b n s
  | .cmp g d a b cc => Sys2Proof.Machine.execCmp g d a b cc s
  | .addi g d a imm => Sys2Proof.Machine.execAddi g d a imm s
  | .andi g d a imm => Sys2Proof.Machine.execAndi g d a imm s
  | .ori g d a imm => Sys2Proof.Machine.execOri g d a imm s
  | .xori g d a imm => Sys2Proof.Machine.execXori g d a imm s
  | .shli g d a n => Sys2Proof.Machine.execShli g d a n s
  | .shri g d a n => Sys2Proof.Machine.execShri g d a n s
  | .srai g d a n => Sys2Proof.Machine.execSrai g d a n s
  | .roli g d a n => Sys2Proof.Machine.execRoli g d a n s
  | .cmpi g d cc a imm => Sys2Proof.Machine.execCmpi g d cc a imm s
  | .lui d imm => Sys2Proof.Machine.execLui d imm s
  | .addpc d imm => Sys2Proof.Machine.execAddpc d imm s
  | .ldB g d a k => Sys2Proof.Machine.execLdB g d a k s
  | .ldBz g d a k => Sys2Proof.Machine.execLdBz g d a k s
  | .ldH g d a k => Sys2Proof.Machine.execLdH g d a k s
  | .ldHz g d a k => Sys2Proof.Machine.execLdHz g d a k s
  | .ldW g d a k => Sys2Proof.Machine.execLdW g d a k s
  | .ldWz g d a k => Sys2Proof.Machine.execLdWz g d a k s
  | .ldD g d a k => Sys2Proof.Machine.execLdD g d a k s
  | .stB g d a k => Sys2Proof.Machine.execStB g d a k s
  | .stH g d a k => Sys2Proof.Machine.execStH g d a k s
  | .stW g d a k => Sys2Proof.Machine.execStW g d a k s
  | .stD g d a k => Sys2Proof.Machine.execStD g d a k s
  | .ldIndexed g d a b size m => Sys2Proof.Machine.execLdIndexed g d a b size m s
  | .stIndexed g d a b size m => Sys2Proof.Machine.execStIndexed g d a b size m s
  | .bCc cc a b off => Sys2Proof.Machine.execBCc cc a b off s
  | .biCc cc a imm off => Sys2Proof.Machine.execBiCc cc a imm off s
  | .j imm => Sys2Proof.Machine.execJ imm s
  | .jal d imm => Sys2Proof.Machine.execJal d imm s
  | .jalr g d a imm => Sys2Proof.Machine.execJalr g d a imm s
  | .pand g d a b => Sys2Proof.Machine.execPand g d a b s
  | .por g d a b => Sys2Proof.Machine.execPor g d a b s
  | .pxor g d a b => Sys2Proof.Machine.execPxor g d a b s
  | .pnot g d a => Sys2Proof.Machine.execPnot g d a s
  | .pmovPP g d a => Sys2Proof.Machine.execPmovPP g d a s
  | .pmovPS g d a => Sys2Proof.Machine.execPmovPS g d a s
  | .pmovSP g d a => Sys2Proof.Machine.execPmovSP g d a s
  | .pcount g d a => Sys2Proof.Machine.execPcount g d a s
  | .fadd g d a b q => Sys2Proof.Machine.execFadd g d a b q s
  | .fsub g d a b q => Sys2Proof.Machine.execFsub g d a b q s
  | .fmul g d a b q => Sys2Proof.Machine.execFmul g d a b q s
  | .fdiv g d a b q => Sys2Proof.Machine.execFdiv g d a b q s
  | .fsqrt g d a q => Sys2Proof.Machine.execFsqrt g d a q s
  | .fma g d a b q => Sys2Proof.Machine.execFma g d a b q s
  | .fmin g d a b q => Sys2Proof.Machine.execFmin g d a b q s
  | .fmax g d a b q => Sys2Proof.Machine.execFmax g d a b q s
  | .fclass g d a q => Sys2Proof.Machine.execFclass g d a q s
  | .fcmp g d a b cc q => Sys2Proof.Machine.execFcmp g d a b cc q s
  | .fcvt g d a src tgt => Sys2Proof.Machine.execFcvt g d a src tgt s
  | .amoAdd g d a b o => Sys2Proof.Machine.execAmoAdd g d a b o s
  | .amoAnd g d a b o => Sys2Proof.Machine.execAmoAnd g d a b o s
  | .amoOr g d a b o => Sys2Proof.Machine.execAmoOr g d a b o s
  | .amoXor g d a b o => Sys2Proof.Machine.execAmoXor g d a b o s
  | .amoMin g d a b o => Sys2Proof.Machine.execAmoMin g d a b o s
  | .amoMax g d a b o => Sys2Proof.Machine.execAmoMax g d a b o s
  | .amoMinz g d a b o => Sys2Proof.Machine.execAmoMinz g d a b o s
  | .amoMaxz g d a b o => Sys2Proof.Machine.execAmoMaxz g d a b o s
  | .amoSwap g d a b o => Sys2Proof.Machine.execAmoSwap g d a b o s
  | .cas g d a b o => Sys2Proof.Machine.execCas g d a b o s
  | .xaddF32 g a b o => Sys2Proof.Machine.execXaddF32 g a b o s
  | .xaddF64 g a b o => Sys2Proof.Machine.execXaddF64 g a b o s
  | .xmerge g a b o => Sys2Proof.Machine.execXmerge g a b o s
  | .fenceAcq sc => Sys2Proof.Machine.execFenceAcq sc s
  | .fenceRel sc => Sys2Proof.Machine.execFenceRel sc s
  | .fenceAr sc => Sys2Proof.Machine.execFenceAr sc s
  | .fenceP => Sys2Proof.Machine.execFenceP s
  | .waitc l x c m => Sys2Proof.Machine.execWaitc l x c m s
  | .pause a => Sys2Proof.Machine.execPause a s
  | .srd g d sel => Sys2Proof.Machine.execSrd g d sel s
  | .swr g a sel => Sys2Proof.Machine.execSwr g a sel s
  | .vld g d a k => Sys2Proof.Machine.execVld g d a k s
  | .vst g d a k => Sys2Proof.Machine.execVst g d a k s
  | .vlds g d a x w => Sys2Proof.Machine.execVlds g d a x w s
  | .vldx g d a x w => Sys2Proof.Machine.execVldx g d a x w s
  | .vstx g d a x w => Sys2Proof.Machine.execVstx g d a x w s
  | .vldVol g d a k => Sys2Proof.Machine.execVldVol g d a k s
  | .vldFg g d a k => Sys2Proof.Machine.execVldFg g d a k s
  | .vaddInt g d a b w => Sys2Proof.Machine.execVaddInt g d a b w s
  | .vsubInt g d a b w => Sys2Proof.Machine.execVsubInt g d a b w s
  | .vmulInt g d a b w => Sys2Proof.Machine.execVmulInt g d a b w s
  | .vmulh g d a b w => Sys2Proof.Machine.execVmulh g d a b w s
  | .vmulhz g d a b w => Sys2Proof.Machine.execVmulhz g d a b w s
  | .vand g d a b w => Sys2Proof.Machine.execVand g d a b w s
  | .vor g d a b w => Sys2Proof.Machine.execVor g d a b w s
  | .vxor g d a b w => Sys2Proof.Machine.execVxor g d a b w s
  | .vshl g d a b w => Sys2Proof.Machine.execVshl g d a b w s
  | .vshr g d a b w => Sys2Proof.Machine.execVshr g d a b w s
  | .vsra g d a b w => Sys2Proof.Machine.execVsra g d a b w s
  | .vminInt g d a b w => Sys2Proof.Machine.execVminInt g d a b w s
  | .vmaxInt g d a b w => Sys2Proof.Machine.execVmaxInt g d a b w s
  | .vminz g d a b w => Sys2Proof.Machine.execVminz g d a b w s
  | .vmaxz g d a b w => Sys2Proof.Machine.execVmaxz g d a b w s
  | .vcmpInt g d a b cc w => Sys2Proof.Machine.execVcmpInt g d a b cc w s
  | .vaddFp g d a b t => Sys2Proof.Machine.execVaddFp g d a b t s
  | .vsubFp g d a b t => Sys2Proof.Machine.execVsubFp g d a b t s
  | .vmulFp g d a b t => Sys2Proof.Machine.execVmulFp g d a b t s
  | .vdiv g d a b t => Sys2Proof.Machine.execVdiv g d a b t s
  | .vsqrt g d a t => Sys2Proof.Machine.execVsqrt g d a t s
  | .vfma g d a b t => Sys2Proof.Machine.execVfma g d a b t s
  | .vminFp g d a b t => Sys2Proof.Machine.execVminFp g d a b t s
  | .vmaxFp g d a b t => Sys2Proof.Machine.execVmaxFp g d a b t s
  | .vfrsqe g d a t => Sys2Proof.Machine.execVfrsqe g d a t s
  | .vabs g d a t => Sys2Proof.Machine.execVabs g d a t s
  | .vcmpFp g d a b cc t => Sys2Proof.Machine.execVcmpFp g d a b cc t s
  | .vcvt g d a src tgt => Sys2Proof.Machine.execVcvt g d a src tgt s
  | .vsel g d a b n => Sys2Proof.Machine.execVsel g d a b n s
  | .vbcast g d a w => Sys2Proof.Machine.execVbcast g d a w s
  | .vperm g d a b w => Sys2Proof.Machine.execVperm g d a b w s
  | .vslide g d a b w => Sys2Proof.Machine.execVslide g d a b w s
  | .vredInt g d a n op w => Sys2Proof.Machine.execVredInt g d a n op w s
  | .vredFp g d a n op t => Sys2Proof.Machine.execVredFp g d a n op t s
  | .vscan g d a n w => Sys2Proof.Machine.execVscan g d a n w s
  | .vcompact g d a n w => Sys2Proof.Machine.execVcompact g d a n w s
  | .vext g d a b w => Sys2Proof.Machine.execVext g d a b w s
  | .vins g d a b w => Sys2Proof.Machine.execVins g d a b w s
  | .vdotI8 g d a b => Sys2Proof.Machine.execVdotI8 g d a b s
  | .vdotF16 g d a b => Sys2Proof.Machine.execVdotF16 g d a b s
  | .vdotBf16 g d a b => Sys2Proof.Machine.execVdotBf16 g d a b s
  | .vdotE4m3 g d a b => Sys2Proof.Machine.execVdotE4m3 g d a b s
  | .spawn g pd a => Sys2Proof.Machine.execSpawn g pd a s
  | .spawnj g pd a => Sys2Proof.Machine.execSpawnj g pd a s
  | .join g a => Sys2Proof.Machine.execJoin g a s
  | .tend g => Sys2Proof.Machine.execTend g s
  | .launch g t a => Sys2Proof.Machine.execLaunch g t a s
  | .send g sc t a b rel => Sys2Proof.Machine.execSend g sc t a b rel s
  | .dqpush g pd a => Sys2Proof.Machine.execDqpush g pd a s
  | .dqpop g pd d => Sys2Proof.Machine.execDqpop g pd d s
  | .dqsplit g pd d => Sys2Proof.Machine.execDqsplit g pd d s
  | .dqsteal g pd d b => Sys2Proof.Machine.execDqsteal g pd d b s
  | .balloc g sc d pd b => Sys2Proof.Machine.execBalloc g sc d pd b s
  | .bexpect g a b => Sys2Proof.Machine.execBexpect g a b s
  | .barrive g d a => Sys2Proof.Machine.execBarrive g d a s
  | .bwait g pd a b => Sys2Proof.Machine.execBwait g pd a b s
  | .bfree g a => Sys2Proof.Machine.execBfree g a s
  | .copy g acq sc t a b rel => Sys2Proof.Machine.execCopy g acq sc t a b rel s
  | .put g acq sc t a b rel => Sys2Proof.Machine.execPut g acq sc t a b rel s
  | .putO g acq sc t a b rel => Sys2Proof.Machine.execPutO g acq sc t a b rel s
  | .gather g acq sc t a b rel => Sys2Proof.Machine.execGather g acq sc t a b rel s
  | .copyw g acq sc t a b => Sys2Proof.Machine.execCopyw g acq sc t a b s
  | .venc g acq sc t a rel => Sys2Proof.Machine.execVenc g acq sc t a rel s
  | .mma g d a b => Sys2Proof.Machine.execMma g d a b s
  | .mmas g d a b => Sys2Proof.Machine.execMmas g d a b s
  | .mmal g d a b => Sys2Proof.Machine.execMmal g d a b s
  | .mzero g d => Sys2Proof.Machine.execMzero g d s
  | .mld g d a => Sys2Proof.Machine.execMld g d a s
  | .mst g d a => Sys2Proof.Machine.execMst g d a s
  | .prune g d a => Sys2Proof.Machine.execPrune g d a s
  | .ctld g a => Sys2Proof.Machine.execCtld g a s
  | .xrnd g d a b mode q => Sys2Proof.Machine.execXrnd g d a b mode q s
  | .xclr g a => Sys2Proof.Machine.execXclr g a s
  | .build g acq sc t a rel => Sys2Proof.Machine.execBuild g acq sc t a rel s
  | .refit g acq sc t a rel => Sys2Proof.Machine.execRefit g acq sc t a rel s
  | .rebal g acq sc t a b rel => Sys2Proof.Machine.execRebal g acq sc t a b rel s
  | .gpin g t a => Sys2Proof.Machine.execGpin g t a s
  | .gunpin g t a b => Sys2Proof.Machine.execGunpin g t a b s
  | .bquery g t a b => Sys2Proof.Machine.execBquery g t a b s
  | .pairgo g acq sc t a rel => Sys2Proof.Machine.execPairgo g acq sc t a rel s
  | .raygo g acq sc t a rel => Sys2Proof.Machine.execRaygo g acq sc t a rel s
  | .nld g d a b => Sys2Proof.Machine.execNld g d a b s
  | .verdict g a b => Sys2Proof.Machine.execVerdict g a b s
  | .sgen g d a b => Sys2Proof.Machine.execSgen g d a b s
  | .sand g d a b => Sys2Proof.Machine.execSand g d a b s
  | .sxnor g d a b => Sys2Proof.Machine.execSxnor g d a b s
  | .sor g d a b => Sys2Proof.Machine.execSor g d a b s
  | .snot g d a => Sys2Proof.Machine.execSnot g d a s
  | .scnt g d a => Sys2Proof.Machine.execScnt g d a s
  | .scntp g d a b => Sys2Proof.Machine.execScntp g d a b s
  | .scvt g d a b => Sys2Proof.Machine.execScvt g d a b s
  | .sregen g d a b => Sys2Proof.Machine.execSregen g d a b s
  | .sdelay g d a b => Sys2Proof.Machine.execSdelay g d a b s
  | .sld g d a => Sys2Proof.Machine.execSld g d a s
  | .sst g d a => Sys2Proof.Machine.execSst g d a s
  | .smux g d a b n => Sys2Proof.Machine.execSmux g d a b n s
  | .fmt rm af bf df scm acc => Sys2Proof.Machine.execFmt rm af bf df scm acc s
  | .immx hi => Sys2Proof.Machine.execImmx hi s
  | .hint kind => Sys2Proof.Machine.execHint kind s
  | .trap imm => Sys2Proof.Machine.execTrap imm s
  | .syscall imm => Sys2Proof.Machine.execSyscall imm s
  | .rfe => Sys2Proof.Machine.execRfe s
  | .tlbinv a b kind => Sys2Proof.Machine.execTlbinv a b kind s
  | .replay a => Sys2Proof.Machine.execReplay a s
  | .lease a d kind => Sys2Proof.Machine.execLease a d kind s
  | .opmark a kind => Sys2Proof.Machine.execOpmark a kind s
  | .idle a => Sys2Proof.Machine.execIdle a s
  | .reservedEncoding w => Sys2Proof.Machine.execReservedEncoding w s
  | .preempt g a => Sys2Proof.Machine.execPreempt g a s
  | .resume g a => Sys2Proof.Machine.execResume g a s
  | .kill g a => Sys2Proof.Machine.execKill g a s
  | .rcbsync g a => Sys2Proof.Machine.execRcbsync g a s
  | .fateRequeue => Sys2Proof.Machine.execFateRequeue s
  | .fateEnd => Sys2Proof.Machine.execFateEnd s
  | .fateKill => Sys2Proof.Machine.execFateKill s
  | .stackbase g a => Sys2Proof.Machine.execStackbase g a s
  | .ptroot g a => Sys2Proof.Machine.execPtroot g a s
  | .lastue g a => Sys2Proof.Machine.execLastue g a s
  | .dispatch sid => Sys2Proof.Machine.execDispatch sid s
  | .pauseEnd sid => Sys2Proof.Machine.execPauseEnd sid s
  | .loadCompletion sid idx => Sys2Proof.Machine.execLoadCompletion sid idx s
  | .storeDrain sid => Sys2Proof.Machine.execStoreDrain sid s
  | .homeAtomic idx => Sys2Proof.Machine.execHomeAtomic idx s
  | .messageArrival idx => Sys2Proof.Machine.execMessageArrival idx s
  | .putArrival tile idx => Sys2Proof.Machine.execPutArrival tile idx s
  | .putAck tile idx => Sys2Proof.Machine.execPutAck tile idx s
  | .copyCompletion tile idx => Sys2Proof.Machine.execCopyCompletion tile idx s
  | .vencCompletion die idx => Sys2Proof.Machine.execVencCompletion die idx s
  | .barrierWatchdog die idx => Sys2Proof.Machine.execBarrierWatchdog die idx s
  | .runWatchdog sid => Sys2Proof.Machine.execRunWatchdog sid s
  | .remoteHomeMigration sid => Sys2Proof.Machine.execRemoteHomeMigration sid s
  | .matrixAccept sid => Sys2Proof.Machine.execMatrixAccept sid s
  | .matrixComplete core => Sys2Proof.Machine.execMatrixComplete core s
  | .builderLock die idx => Sys2Proof.Machine.execBuilderLock die idx s
  | .builderStep die idx => Sys2Proof.Machine.execBuilderStep die idx s
  | .publish die idx => Sys2Proof.Machine.execPublish die idx s
  | .relayCommandTake tile => Sys2Proof.Machine.execRelayCommandTake tile s
  | .pairTest tile => Sys2Proof.Machine.execPairTest tile s
  | .relaySteal tile => Sys2Proof.Machine.execRelaySteal tile s
  | .rayStep tile idx => Sys2Proof.Machine.execRayStep tile idx s
  | .relayQueuePlace tile => Sys2Proof.Machine.execRelayQueuePlace tile s
  | .traversalEnd tile => Sys2Proof.Machine.execTraversalEnd tile s
  | .tilesPlaced rid tiles => Sys2Proof.Machine.execTilesPlaced rid tiles s
  | .preemptDrained rid => Sys2Proof.Machine.execPreemptDrained rid s
  | .drainLimit rid => Sys2Proof.Machine.execDrainLimit rid s
  | .regionEnd rid => Sys2Proof.Machine.execRegionEnd rid s
  | .quotaWindow => Sys2Proof.Machine.execQuotaWindow s
  | .leaseExpiry rid => Sys2Proof.Machine.execLeaseExpiry rid s
  | .mrd pid queue len tag addr => Sys2Proof.Machine.execMrd pid queue len tag addr s
  | .mwr pid queue tag addr data => Sys2Proof.Machine.execMwr pid queue tag addr data s
  | .fence pid queue tag => Sys2Proof.Machine.execFence pid queue tag s
  | .notifyLaunch pid queue tag payload => Sys2Proof.Machine.execNotifyLaunch pid queue tag payload s
  | .notifyFabricLaunch pid queue tag payload => Sys2Proof.Machine.execNotifyFabricLaunch pid queue tag payload s
  | .fabricLaunchPacket pid port id place count packet => Sys2Proof.Machine.execFabricLaunchPacket pid port id place count packet s
  | .startBarrier id => Sys2Proof.Machine.execStartBarrier id s
  | .packageUnreachable id place => Sys2Proof.Machine.execPackageUnreachable id place s
  | .linkDown => Sys2Proof.Machine.execLinkDown s
  | .linkTrained => Sys2Proof.Machine.execLinkTrained s
  | .keygen pid k => Sys2Proof.Machine.execKeygen pid k s
  | .keyclr pid k => Sys2Proof.Machine.execKeyclr pid k s
  | .defset pid field value => Sys2Proof.Machine.execDefset pid field value s
  | .lattol pid ns => Sys2Proof.Machine.execLattol pid ns s
  | .attestation pid nonce => Sys2Proof.Machine.execAttestation pid nonce s
  | .partitioningChange parts => Sys2Proof.Machine.execPartitioningChange parts s
  | .governorPeriod shares => Sys2Proof.Machine.execGovernorPeriod shares s
  | .sensorSample die readings currents => Sys2Proof.Machine.execSensorSample die readings currents s
  | .timingError core => Sys2Proof.Machine.execTimingError core s
  | .stretchEnd core => Sys2Proof.Machine.execStretchEnd core s
  | .tileIdle tile => Sys2Proof.Machine.execTileIdle tile s
  | .tileWake tile => Sys2Proof.Machine.execTileWake tile s
  | .softError e => Sys2Proof.Machine.execSoftError e s
  | .packageReset => Sys2Proof.Machine.execPackageReset s
  | .bootStage image verified => Sys2Proof.Machine.execBootStage image verified s
  | .configurationRecord r verified => Sys2Proof.Machine.execConfigurationRecord r verified s
  | .coreReset core => Sys2Proof.Machine.execCoreReset core s
  | .packageRefused id place => Sys2Proof.Machine.execPackageRefused id place s

end Sys2Proof.Machine
end

