-- ==== Sys2Proof/Machine/Issue.lean ====
section
/-! DEFINITION. Issue: the choice of a strand (02 R20), the run watchdog (19 R290), the fetch (03 R43, 20 R302, R307), the
decoded instruction. Time and the inputs of the agenda (log 1, 8). What is due when the agenda is empty. A place for one
instruction (log 2). -/

namespace Sys2Proof.Machine

/-! ### Fetch and issue -/

/-- What a fetch comes to. -/
inductive Fetched where
  | word (s : State) (w : BitVec 32)
  | other (a : Act)

/-- The word at the current strand's pc, translated for fetching (03 R43, 20 R297); a fetch outside the global window is a
no-window fault, a poisoned unit a fetch-poison trap (20 R307). -/
def State.fetch (s : State) : Fetched :=
  let t := s.me
  let pc := t.pc
  if 2 ^ 56 ≤ pc.toNat then .other (.trap s 8 pc)
  else if fld pc 0 2 ≠ 0 then .other (.stop .misalignedFetch)
  else
    match s.xlats (.core (coreOf s.cur)) (s.pidOfRegion t.rid) (some t.rid) t.super .fetch [pc.toNat] [] with
    | (s, .error e) => .other (xlatFault s .fetch e)
    | (s, .ok m) =>
      let bs := (List.range 4).map (fun i => let x := placeOf m (pc.toNat + i); s.readOut x.host x.slot x.key)
      if anyMark bs then .other (.trap s 0x0F pc) else .word s (BitVec.ofNat 32 (leNat (bs.map (·.1))))

/-- The instruction of a word; a word that decodes to none is a reserved encoding (05 R108). -/
def instrOf (w : BitVec 32) : Instr :=
  match decode w with
  | .ok i => i
  | .error _ => .reservedEncoding w

/-- The strand is taken up for issue: it is the current one and no longer switched out; a user task counts the cycle
(06 R133); what it has read ahead is for this instruction (03 R53). -/
def State.takeUp (s : State) (sid : Nat) : State :=
  { s with cur := sid }.onStrand sid (fun t =>
    { t with wait := .no, inCheck := false, seen := t.ahead, ahead := [], cycles := if t.super then t.cycles else t.cycles + 1 })

/-- CYCLES has passed 2^RUNLIM (19 R290). -/
def watchdogDue (s : State) (sid : Nat) : Bool :=
  let t := s.strand sid
  match s.region t.rid with
  | some r => !t.super && 2 ^ r.runlim < t.cycles
  | none => false

/-- One strand issues one instruction: the watchdog, the fetch, the instruction. -/
def State.issueStrand (s : State) (sid : Nat) : Host.Outcome State Fault Refusal :=
  if watchdogDue s sid then .next (s.takeTrap sid 0x17 (sat64 (s.strand sid).cycles)) else
  match (s.takeUp sid).fetch with
  | .other a => finish a
  | .word s w => exec (instrOf w) s

/-- A strand that holds a task and waits for nothing but a register, a counter or room (02 R20); a stalled strand is tried
again. -/
def Strand.mayIssue (t : Strand) : Bool := t.task.isSome && (t.wait == .no || t.wait == .stalled)

/-- The strands of a core that may issue, round-robin from the one after the last (02 R20). -/
def State.issueOrder (s : State) (core : Nat) : List Nat :=
  ((List.range 4).map (fun i => 4 * core + ((s.core core).last + 1 + i) % 4)).filter (fun i => (s.strand i).mayIssue)

/-- The first strand of the list that does not switch out issues (02 R20). -/
def State.issueFirst (s : State) (core : Nat) : List Nat → Host.Outcome State Fault Refusal
  | [] => .next s
  | i :: r =>
    match s.issueStrand i with
    | .next s' =>
      if (s'.strand i).wait = .stalled then s'.issueFirst core r
      else .next (s'.onCore core (fun k => { k with last := i % 4 }))
    | .fault f => .fault f
    | .refused x => .refused x

/-- The core's issue cycle. -/
def State.issue (s : State) (core : Nat) : Host.Outcome State Fault Refusal :=
  { s with curCore := core }.issueFirst core (s.issueOrder core)

/-! ### Time (log 8) -/

/-- Some strand of the region holds a trapped task: the barrier watchdog pauses (19 R291). -/
def holdsTrapped (s : State) (rid : Nat) : Bool := s.strands.any (fun x => x.2.task.isSome && x.2.rid == rid && x.2.trapped)

/-- The span of a lease runs down in µs of 2,400 mesh cycles while its region is RUNNING or PREEMPTING (22 R331). -/
def Region.spendLease (r : Region) (us : Nat) : Region :=
  if r.leaseActive && (r.state == .running || r.state == .preempting) then { r with leaseLeft := r.leaseLeft - us } else r

/-- Time passes: `mesh` mesh cycles and `core` core cycles. -/
def State.elapse (s : State) (mesh core : Nat) : State :=
  let us := (s.meshTime + mesh) / 2400 - s.meshTime / 2400
  let counts : Barrier → Bool := fun b =>
    b.running && ((s.region b.rid).map (fun r => r.state == .running)).getD false && !holdsTrapped s b.rid
  let s' : State := { s with
    meshTime := s.meshTime + mesh
    strands := s.strands.map (fun x => (x.1, x.2.spend core))
    cores := s.cores.map (fun x => (x.1, x.2.spend core))
    tiles := s.tiles.map (fun x => (x.1, if x.2.hot || x.2.overi then { x.2 with wheld := x.2.wheld + mesh } else x.2))
    dies := s.dies.map (fun d => (d.1, { d.2 with barriers := d.2.barriers.map (fun b =>
      (b.1, if counts b.2 then { b.2 with spent := b.2.spent + mesh } else b.2)) }))
    regions := s.regions.map (fun r => (r.1, r.2.spendLease us)) }
  (s.regions.filter (fun r => r.2.leaseActive && us != 0)).foldl (fun s r => s.mirror r.1) s'

/-! ### Inputs -/

/-- The cache of translations an eviction names: 4 n + 0 … 4 is the core, copy engine, builder, relay unit, encoder n. -/
def agentOf (unit : Nat) : Agent :=
  match unit % 5 with
  | 0 => .core (unit / 5)
  | 1 => .copy (unit / 5)
  | 2 => .builder (unit / 5)
  | 3 => .relay (unit / 5)
  | _ => .enc (unit / 5)

/-- A row that is a step of an agent other than a strand: it has no word, and it is not an effect of FATE or a reserved
word, which a strand issues. -/
def isStep (i : Instr) : Bool :=
  match i with
  | .reservedEncoding _ | .fateRequeue | .fateEnd | .fateKill => false
  | i => (encode i).isNone

/-- One input of the agenda. -/
def State.input (s : State) (x : Input) : Host.Outcome State Fault Refusal :=
  match x with
  | .issue core => s.issue core
  | .event i => if isStep i && i.wf then exec i s else .next s
  | .elapse mesh core => .next (s.elapse mesh core)
  | .engineUnit tile idx u => .next (s.engineUnit tile idx u)
  | .readAhead sid va past => .next (s.readAhead sid va past)
  | .buildAhead die idx va => .next (s.buildAhead die idx va)
  | .spadStore sid idx => .next (s.spadStore sid idx)
  | .launchRetry idx => .next (s.launchRetry idx)
  | .evictLine core line => .next (s.onCore core (fun k => { k with l1 := dropKey k.l1 line }))
  | .evictTlb unit page =>
    .next (s.setTlb (agentOf unit) ((s.tlb (agentOf unit)).filter (fun t => t.base != page)))
  | .fabricKilled id => .next (s.killFabric id)
  | .fabricReport id place who dies verified => .next (s.fabricReport id place who dies verified)
  | .fabricRequest pid port pa op => .next (s.fabricRequest pid port pa op)
  | .outsideStore key data => .next (s.outsideStore key data)
  | .request pid queue r => .next (s.request pid queue r)

/-! ### What is due (log 1) -/

/-- The first strand that the predicate holds of. -/
def State.findStrand (s : State) (f : Nat → Strand → Bool) : Option Nat :=
  (s.strands.find? (fun x => f x.1 x.2)).map (·.1)

/-- A step that is due. -/
inductive Due where
  | homeAtomic | loadCompletion (sid : Nat) | spadStore (sid : Nat) | storeDrain (sid : Nat) | messageArrival | matrixAccept (sid : Nat)
  | matrixComplete (core : Nat) | putArrival (tile idx : Nat) | putAck (tile idx : Nat) | copyCompletion (tile idx : Nat)
  | launch (idx : Nat) | pauseEnd (sid : Nat) | preemptDrained (rid : Nat) | regionEnd (rid : Nat) | dispatch (sid : Nat)
deriving DecidableEq, Repr

/-- The meaning of the step that is due. -/
def Due.exec (d : Due) (s : State) : Host.Outcome State Fault Refusal :=
  match d with
  | .homeAtomic => execHomeAtomic 0 s
  | .loadCompletion i => execLoadCompletion i 0 s
  | .spadStore i => .next (s.spadStore i 0)
  | .storeDrain i => execStoreDrain i s
  | .messageArrival => execMessageArrival 0 s
  | .matrixAccept i => execMatrixAccept i s
  | .matrixComplete c => execMatrixComplete c s
  | .putArrival t i => execPutArrival t i s
  | .putAck t i => execPutAck t i s
  | .copyCompletion t i => execCopyCompletion t i s
  | .launch i => .next (s.launchRetry i)
  | .pauseEnd i => execPauseEnd i s
  | .preemptDrained r => execPreemptDrained r s
  | .regionEnd r => execRegionEnd r s
  | .dispatch i => execDispatch i s

/-- What a command of a tile's copy engine is due to do. -/
def copyDue (s : State) (tile idx : Nat) (c : CopyCmd) : Option Due :=
  let runs := match s.region c.rid with
    | some r => r.state != .preempted && !c.parked
    | none => false
  if c.status.isSome then some (.putAck tile idx)
  else if !runs then none
  else if c.op = 1 || c.op = 2 then (if putBlocked s tile idx c then none else some (.putArrival tile idx))
  else some (.copyCompletion tile idx)

/-- A strand of an awake tile of a running region that has work for it. -/
def State.idleStrand (s : State) : Option Nat :=
  (s.regions.filter (fun r => r.2.state == .running)).findSome? (fun r =>
    (r.2.tiles.filter (fun t => s.enabledTile t && (s.tile t).idle == 0)).findSome? (fun t =>
      ((List.range 16).map (16 * t + ·)).find? (fun i => (s.strand i).task.isNone &&
        ((s.savedFor t).isSome || (chooseWork s i).2.isSome))))

/-- The steps that are due in this state, in the order the model takes them when the agenda names none. -/
def State.due (s : State) : List Due :=
  (if s.homeQ.isEmpty then [] else [.homeAtomic]) ++
  ((s.findStrand (fun _ t => !t.loads.isEmpty)).toList.map .loadCompletion) ++
  ((s.findStrand (fun _ t => !t.spadOut.isEmpty)).toList.map .spadStore) ++
  ((s.findStrand (fun _ t => !t.buf.isEmpty && !t.restartable)).toList.map (fun i => .storeDrain i)) ++
  (if s.msgs.isEmpty then [] else [.messageArrival]) ++
  ((s.findStrand (fun i t => match t.wait with
    | .check op => matReady s i op
    | _ => false)).toList.map (fun i => .matrixAccept i)) ++
  ((s.cores.find? (fun c => !c.2.mq.isEmpty)).toList.map (fun c => .matrixComplete c.1)) ++
  (s.tiles.flatMap (fun t => (numbered t.2.copies).filterMap (fun c => copyDue s t.1 c.1 c.2))) ++
  ((numbered s.launches).filterMap (fun c =>
    if c.2.parked || ((s.region c.2.rid).map (·.state)) == some .preempted then none else some (.launch c.1))) ++
  ((s.findStrand (fun _ t => t.pauseDue)).toList.map (fun i => .pauseEnd i)) ++
  ((s.regions.find? (fun r => r.2.state == .preempting && !holdsTask s r.1 && !r.2.saveParked)).toList.map
    (fun r => .preemptDrained r.1)) ++
  ((s.regions.find? (fun r => quiescent s r.1 r.2)).toList.map (fun r => .regionEnd r.1)) ++
  (s.idleStrand.toList.map (fun i => .dispatch i))

/-! ### A place for one instruction (log 2) -/

/-- The place of the word that the next issue of core 0 fetches, where it fetches one. -/
def State.fetchPlace (s : State) : Option Xlat :=
  match s.issueOrder 0 with
  | [] => none
  | i :: _ =>
    let t := s.strand i
    if watchdogDue s i || 2 ^ 56 ≤ t.pc.toNat || fld t.pc 0 2 ≠ 0 then none
    else match (s.xlats (.core 0) (s.pidOfRegion t.rid) (some t.rid) t.super .fetch [t.pc.toNat] []).2 with
      | .ok m => some (placeOf m t.pc.toNat)
      | .error _ => none

/-- Bytes placed at a key under its encryption key, unpoisoned. -/
def State.place (s : State) (x : Xlat) (bs : List Byte) : State :=
  let s := s.rekey x.slot x.key
  { s with mem := Memory.putList s.mem x.key bs, memPoison := delNum s.memPoison (x.key / 8) }

/-- The page table of the place: one 1 GiB leaf for addresses 0 to 2^30 - 1, all rights, home die 0. -/
def placeRoot : Nat := 0x1000
def placeCode : Nat := 0x30000000
def placeHandler : Nat := 0x30001000

/-- The task that runs the placed instruction. -/
def placeTask : Task :=
  { kind := 0, lane := 0, pc := BitVec.ofNat 64 placeCode, regs := [], marks := 0, pin := none, islocal := false
    nomig := false, firstPins := false, first := false, lastAct := false, ticket := none }

/-- A partition of die 0 with its default block, a region of tile 0 under it with a fault handler, and a task on strand 0
of core 0. -/
def State.makePlace (s : State) : State :=
  let root := s.nextId
  let rid := root + 1
  let s := ({ s with nextId := rid + 1 }.installKey [0] 1)
  let s := { s with mem := Memory.putList s.mem placeRoot (natBytes 0x7F 8) }
  let p : Partition :=
    { dies := [0], ports := 0, kbase := 1, kcount := 1, ptroot := BitVec.ofNat 64 (placeRoot + 1), prqbase := 0
      root := root, tolerance := none }
  let r : Region := defaultBlock 0 0x20000000 0x24000000 0x28000000 0x2C000000 0x2C001000 [0] 1
  let s := ((s.setPartition 0 p).setRegion root r).setRegion rid
    { r with block := 0x20000100, parent := some root, fhandler := BitVec.ofNat 64 placeHandler
             qbudget := 2 ^ 20, bbudget := 16, pbudget := 16 }
  let s := s.onTile 0 (fun t => { t with idle := 0 })
  let s := s.onDie 0 (fun d => { d with idle := 0 })
  let s := s.onCore 0 (fun k => { k with tlb := [], last := 3 })
  s.setStrand 0 ({ Strand.fresh with stackbase := BitVec.ofNat 64 (stackArea 0), taskNo := (s.strand 0).taskNo + 1 }.start
    rid r placeTask none)

/-- The state in which the next step fetches and runs the word with these bytes: where core 0 already fetches, its bytes are
put there; else a place is made. -/
def State.withWord (s : State) (bs : List Byte) : State :=
  let s := if s.fetchPlace.isSome then s else s.makePlace
  match s.fetchPlace with
  | some x => { s.place x bs with agenda := .issue 0 :: s.agenda }
  | none => s

end Sys2Proof.Machine
end

