-- ==== Sys2Proof/Machine/Step.lean ====
section
/-! DEFINITION. One step: the next input of the agenda; without one, the first step that is due, else an issue (log 1). -/

namespace Sys2Proof.Machine

/-- One step of the package. -/
def step (s : State) : Host.Outcome State Fault Refusal :=
  match s.agenda with
  | x :: r => { s with agenda := r }.input x
  | [] =>
    match s.due with
    | d :: _ => d.exec s
    | [] => s.issue s.curCore

/-- s with an instruction's word stored where `step` fetches its next instruction (log 2). -/
def State.withFetchWord (s : State) (nbits w : Nat) : State := s.withWord (natBytes (w % 2 ^ nbits) 4)

end Sys2Proof.Machine
end

