-- ==== Sys2Proof/Safety.lean ====
section
/-! DEFINITION. The words claims use: when an instruction acts, what it leaves alone, which runs are safe, the invariant of
the memories. -/

namespace Sys2Proof.Machine

/-! ### When an instruction acts -/

/-- The registers named are not pending (05 R100). -/
def Strand.noPend (t : Strand) (ss : List SReg) (vs : List VReg) (ks : List KReg) : Bool :=
  sMask ss &&& t.pendS == 0 && vMask vs &&& t.pendV == 0 && kMask ks &&& t.pendK == 0

/-- The pending prefixes may govern the instruction (05 R106), its guard predicate is unmarked (06 R109) and true
(05 R99), and none of its scalar registers is pending (05 R100). -/
def State.acts (s : State) (px : Pfx) (g : Guard) (ss : List SReg) : Bool :=
  px.allows s.me.pfxr && !s.me.markP (guardReg g) && s.me.guardOn g && s.me.noPend ss [] []

/-- The same of an instruction that names vector or stream registers and whose guard is read in bit 0. -/
def State.actsV (s : State) (px : Pfx) (g : Guard) (ss : List SReg) (vs : List VReg) (ks : List KReg) : Bool :=
  px.allows s.me.pfxr && !s.me.markP (guardReg g) && s.me.guardOn g && s.me.noPend ss vs ks

/-- The same of an instruction that applies its guard byte by byte (01 R10). -/
def State.actsB (s : State) (px : Pfx) (g : Guard) (ss : List SReg) (vs : List VReg) : Bool :=
  px.allows s.me.pfxr && !s.me.markP (guardReg g) && s.me.noPend ss vs []

/-- The sources carry no poison mark (06 R109). -/
def State.clean (s : State) (l : List SReg) : Bool := l.all (fun r => !s.me.markS r)
def State.cleanP (s : State) (l : List PReg) : Bool := l.all (fun r => !s.me.markP r)

/-- Room for one more load or store, and the strand's own atomics are performed (05 R101, log 5). -/
def State.hasRoom (s : State) : Bool := !s.homeBusy s.cur && decide (s.loadsOut s.cur + s.storesOut s.cur < 32)

/-- The current strand's region has its debug flag (03 R61). -/
def State.debugging (s : State) : Bool := ((s.region s.me.rid).map Region.debug).getD false

/-! ### What an instruction comes to -/

/-- S[d] is written with its poison mark and the next word follows. -/
def State.result (s : State) (d : SReg) (x : Word) (mark : Bool) : State := (s.onMe (fun t => t.wr d x mark)).retire

/-- P[d] is written with its poison mark and the next word follows. -/
def State.resultP (s : State) (d : PReg) (x : Word) (mark : Bool) : State := (s.onMe (fun t => t.wrP d x mark)).retire

/-- V[d] is written byte by byte under the guard and the next word follows. -/
def State.resultV (s : State) (d : VReg) (g : Guard) (x : Vec) (marks : BitVec 8) : State :=
  (s.onMe (fun t => t.wrVBytes d x (s.me.guardBytes g) marks)).retire

/-- The current strand takes a precise trap. -/
def Traps (i : Instr) (s : State) (cause : Nat) (detail : Word) : Prop := exec i s = .next (s.takeTrap s.cur cause detail)

/-- The step completes in a state that has the property. -/
def Completes (o : Host.Outcome State Fault Refusal) (p : State → Prop) : Prop := ∃ t, o = .next t ∧ p t

/-! ### Frames -/

/-- Everything outside the strands is as before. -/
def State.sameButStrands (s t : State) : Prop := { s with strands := t.strands } = t

/-- Every strand but one is as before. -/
def State.otherStrands (s t : State) (sid : Nat) : Prop := ∀ i, i ≠ sid → t.strand i = s.strand i

/-- Only one strand differs. -/
def State.onlyStrand (s t : State) (sid : Nat) : Prop := s.sameButStrands t ∧ s.otherStrands t sid

/-- Every byte of memory reads as before. -/
def State.sameMem (s t : State) : Prop := ∀ k, Memory.get t.mem k = Memory.get s.mem k

/-! ### Safe runs and the invariant -/

/-- A step that does not stop. -/
def Safe (s : State) : Prop := ∃ t, step s = .next t

/-- Device memory and every scratchpad are in their canonical form. -/
def State.Inv (s : State) : Bool := Memory.wf s.mem && s.tiles.all (fun t => Memory.wf t.2.spad)

end Sys2Proof.Machine
end

