-- ==== Sys2Proof/Certificates/Slice0/Obligations.lean ====
section
/-! DEFINITION. The statements for the provers. `State.acts`, `State.clean`, `State.result` and the like stand in
Sys2Proof/Safety.lean; a statement `exec i s = .next t` gives the whole next state, so everything t does not change is
the frame. -/

open Sys2Proof Sys2Proof.Machine

/-! ### Scalar registers -/

/-- 06 R111: every register-register integer operation writes S[d] in all 64 bits and nothing else but pc and PFXR; division
by 0 and −2^63 / −1 give the values of its second table; a marked source marks the result (R109). -/
def Obligations.IntegerOperations : Prop :=
  ∀ (s : State) (g : Guard) (d a b : SReg) (n : PReg), s.acts .none g [d, a, b] = true →
    let x := s.me.rd a
    let y := s.me.rd b
    let m := s.me.markS a || s.me.markS b
    exec (.add g d a b) s = .next (s.result d (BitVec.ofNat 64 (x.toNat + y.toNat)) m) ∧
    exec (.sub g d a b) s = .next (s.result d (BitVec.ofInt 64 (x.toNat - y.toNat)) m) ∧
    exec (.mul g d a b) s = .next (s.result d (BitVec.ofNat 64 (x.toNat * y.toNat)) m) ∧
    exec (.mulh g d a b) s = .next (s.result d (BitVec.ofInt 64 (x.toInt * y.toInt / 2 ^ 64)) m) ∧
    exec (.mulhz g d a b) s = .next (s.result d (BitVec.ofNat 64 (x.toNat * y.toNat / 2 ^ 64)) m) ∧
    exec (.div g d a b) s = .next (s.result d (if y = 0 then -1 else BitVec.ofInt 64 (x.toInt.tdiv y.toInt)) m) ∧
    exec (.divz g d a b) s =
      .next (s.result d (if y = 0 then BitVec.allOnes 64 else BitVec.ofNat 64 (x.toNat / y.toNat)) m) ∧
    exec (.rem g d a b) s = .next (s.result d (if y = 0 then x else BitVec.ofInt 64 (x.toInt.tmod y.toInt)) m) ∧
    exec (.remz g d a b) s = .next (s.result d (if y = 0 then x else BitVec.ofNat 64 (x.toNat % y.toNat)) m) ∧
    exec (.and g d a b) s = .next (s.result d (x &&& y) m) ∧
    exec (.or g d a b) s = .next (s.result d (x ||| y) m) ∧
    exec (.xor g d a b) s = .next (s.result d (x ^^^ y) m) ∧
    exec (.andn g d a b) s = .next (s.result d (x &&& ~~~ y) m) ∧
    exec (.orn g d a b) s = .next (s.result d (x ||| ~~~ y) m) ∧
    exec (.shl g d a b) s = .next (s.result d (x <<< (y.toNat % 64)) m) ∧
    exec (.shr g d a b) s = .next (s.result d (x >>> (y.toNat % 64)) m) ∧
    exec (.sra g d a b) s = .next (s.result d (x.sshiftRight (y.toNat % 64)) m) ∧
    exec (.rol g d a b) s =
      .next (s.result d (x <<< (y.toNat % 64) ||| x >>> (64 - y.toNat % 64)) m) ∧
    exec (.min g d a b) s = .next (s.result d (if x.toInt ≤ y.toInt then x else y) m) ∧
    exec (.max g d a b) s = .next (s.result d (if x.toInt ≤ y.toInt then y else x) m) ∧
    exec (.minz g d a b) s = .next (s.result d (if x.toNat ≤ y.toNat then x else y) m) ∧
    exec (.maxz g d a b) s = .next (s.result d (if x.toNat ≤ y.toNat then y else x) m) ∧
    (s.cleanP [n] = true →
      exec (.sel g d a b n) s = .next (s.result d (if (s.me.rdP n).getLsbD 0 then x else y) m))

/-- 06 R111: the operations of one source. The count of `clz` is the number of bits above the highest one, that of `ctz` the
number below the lowest one, 64 for 0; `bswap` reverses the eight bytes. -/
def Obligations.OneSourceOperations : Prop :=
  ∀ (s : State) (g : Guard) (d a : SReg), s.acts .none g [d, a] = true →
    let x := s.me.rd a
    let m := s.me.markS a
    (∃ n ≤ 64, exec (.clz g d a) s = .next (s.result d (BitVec.ofNat 64 n) m) ∧
      (∀ i < n, x.getLsbD (63 - i) = false) ∧ (n < 64 → x.getLsbD (63 - n) = true)) ∧
    (∃ n ≤ 64, exec (.ctz g d a) s = .next (s.result d (BitVec.ofNat 64 n) m) ∧
      (∀ i < n, x.getLsbD i = false) ∧ (n < 64 → x.getLsbD n = true)) ∧
    exec (.popc g d a) s = .next (s.result d (BitVec.ofNat 64 ((List.range 64).countP (fun i => x.getLsbD i))) m) ∧
    (∃ r, exec (.bswap g d a) s = .next (s.result d r m) ∧
      ∀ i < 8, r.extractLsb' (8 * i) 8 = x.extractLsb' (8 * (7 - i)) 8) ∧
    exec (.sextB g d a) s = .next (s.result d ((x.extractLsb' 0 8).signExtend 64) m) ∧
    exec (.sextH g d a) s = .next (s.result d ((x.extractLsb' 0 16).signExtend 64) m) ∧
    exec (.sextW g d a) s = .next (s.result d ((x.extractLsb' 0 32).signExtend 64) m) ∧
    exec (.zextB g d a) s = .next (s.result d ((x.extractLsb' 0 8).zeroExtend 64) m) ∧
    exec (.zextH g d a) s = .next (s.result d ((x.extractLsb' 0 16).zeroExtend 64) m) ∧
    exec (.zextW g d a) s = .next (s.result d ((x.extractLsb' 0 32).zeroExtend 64) m)

/-- 05 R86: the ten conditions; the other codes are reserved, and a floating-point compare takes the first six. -/
def Says.Conditions : Prop :=
  (∀ (g : Guard) (pd : PReg) (a b : SReg) (va vb : VReg) (w : BitVec 2) (q : BitVec 1) (i5 : BitVec 5) (i10 : BitVec 10)
    (i12 : BitVec 12) (cc : BitVec 4) (fc : BitVec 3) (t : BitVec 2),
    (10 ≤ cc.toNat → (Instr.cmp g pd a b cc).wf = false ∧ (Instr.cmpi g pd cc a i10).wf = false ∧ (Instr.bCc cc a b i12).wf = false ∧
      (Instr.biCc cc a i5 i12).wf = false ∧ (Instr.vcmpInt g pd va vb cc w).wf = false) ∧
    (6 ≤ fc.toNat → (Instr.fcmp g pd a b fc q).wf = false ∧ (Instr.vcmpFp g pd va vb fc t).wf = false)) ∧
  ∀ (x y : Word),
    condHolds 0 x y = decide (x = y) ∧ condHolds 1 x y = decide (x ≠ y) ∧
    condHolds 2 x y = decide (x.toInt < y.toInt) ∧ condHolds 3 x y = decide (x.toInt ≥ y.toInt) ∧
    condHolds 4 x y = decide (x.toInt ≤ y.toInt) ∧ condHolds 5 x y = decide (x.toInt > y.toInt) ∧
    condHolds 6 x y = decide (x.toNat < y.toNat) ∧ condHolds 7 x y = decide (x.toNat ≥ y.toNat) ∧
    condHolds 8 x y = decide (x.toNat ≤ y.toNat) ∧ condHolds 9 x y = decide (x.toNat > y.toNat)

/-- 06 R111, R112: the compares write all ones or 0 to a predicate, from unmarked operands. -/
def Says.Compares : Prop :=
  ∀ (s : State) (g : Guard) (d : PReg) (a b : SReg) (cc : BitVec 4) (imm : BitVec 10),
    (s.acts .none g [a, b] = true → s.clean [a, b] = true →
      exec (.cmp g d a b cc) s =
        .next (s.resultP d (if condHolds cc.toNat (s.me.rd a) (s.me.rd b) then BitVec.allOnes 64 else 0) false)) ∧
    (s.acts .imm g [a] = true → s.clean [a] = true →
      exec (.cmpi g d cc a imm) s =
        .next (s.resultP d (if condHolds cc.toNat (s.me.rd a) (s.me.imm imm) then BitVec.allOnes 64 else 0) false))

/-- The ten condition codes compare as their table says, the other codes are reserved, floating-point compares take the first six; cmp and cmpi write all ones or 0 to P[d]. -/
def Obligations.IntegerCompares : Prop := Says.Conditions ∧ Says.Compares

/-- 05 R83, R104: an immediate field is sign-extended, and under a pending `immx` it is the low part of the signed number
PFXR[43:22] ‖ f. -/
def Says.ImmediateValues : Prop :=
  ∀ (t : Strand) (f12 : BitVec 12) (f21 : BitVec 21) (f10 : BitVec 10),
    (t.pfxr.getLsbD 61 = false → t.imm f12 = f12.signExtend 64 ∧ t.imm f21 = f21.signExtend 64 ∧ t.imm f10 = f10.signExtend 64) ∧
    (t.pfxr.getLsbD 61 = true →
      t.imm f12 = (t.pfxr.extractLsb' 22 22 ++ f12).signExtend 64 ∧
      t.imm f21 = (t.pfxr.extractLsb' 22 22 ++ f21).signExtend 64 ∧
      t.imm f10 = (t.pfxr.extractLsb' 22 22 ++ f10).signExtend 64)

/-- 06 R112, R113: the immediate forms, under an `immx` or not. -/
def Says.Immediates : Prop :=
  ∀ (s : State) (g : Guard) (d a : SReg) (imm : BitVec 12) (n : BitVec 6) (u : BitVec 21),
    let x := s.me.rd a
    let m := s.me.markS a
    (s.acts .imm g [d, a] = true →
      exec (.addi g d a imm) s = .next (s.result d (x + s.me.imm imm) m) ∧
      exec (.andi g d a imm) s = .next (s.result d (x &&& s.me.imm imm) m) ∧
      exec (.ori g d a imm) s = .next (s.result d (x ||| s.me.imm imm) m) ∧
      exec (.xori g d a imm) s = .next (s.result d (x ^^^ s.me.imm imm) m)) ∧
    (s.acts .none g [d, a] = true →
      exec (.shli g d a n) s = .next (s.result d (x <<< n.toNat) m) ∧
      exec (.shri g d a n) s = .next (s.result d (x >>> n.toNat) m) ∧
      exec (.srai g d a n) s = .next (s.result d (x.sshiftRight n.toNat) m) ∧
      exec (.roli g d a n) s = .next (s.result d (x <<< n.toNat ||| x >>> (64 - n.toNat)) m)) ∧
    (s.acts .imm 0 [d] = true →
      exec (.lui d u) s = .next (s.result d (s.me.imm u * 2 ^ 12) false) ∧
      exec (.addpc d u) s = .next (s.result d (s.me.pc + s.me.imm u * 4) false))

/-- An immediate is sign-extended, or widened by a pending immx; the immediate forms, lui and addpc write S[d] and complete. -/
def Obligations.ImmediateForms : Prop := Says.ImmediateValues ∧ Says.Immediates

/-- 06 R114, R110: predicate operations act on all 64 bits; marks follow. -/
def Obligations.PredicateOperations : Prop :=
  ∀ (s : State) (g : Guard) (d a b : PReg) (sd sa : SReg),
    let x := s.me.rdP a
    let y := s.me.rdP b
    (s.acts .none g [] = true →
      exec (.pand g d a b) s = .next (s.resultP d (x &&& y) (s.me.markP a || s.me.markP b)) ∧
      exec (.por g d a b) s = .next (s.resultP d (x ||| y) (s.me.markP a || s.me.markP b)) ∧
      exec (.pxor g d a b) s = .next (s.resultP d (x ^^^ y) (s.me.markP a || s.me.markP b)) ∧
      exec (.pnot g d a) s = .next (s.resultP d (~~~ x) (s.me.markP a)) ∧
      exec (.pmovPP g d a) s = .next (s.resultP d x (s.me.markP a))) ∧
    (s.acts .none g [sa] = true → s.clean [sa] = true → exec (.pmovPS g d sa) s = .next (s.resultP d (s.me.rd sa) false)) ∧
    (s.acts .none g [sd] = true →
      exec (.pmovSP g sd a) s = .next (s.result sd x (s.me.markP a)) ∧
      exec (.pcount g sd a) s =
        .next (s.result sd (BitVec.ofNat 64 ((List.range 64).countP (fun i => x.getLsbD i))) (s.me.markP a)))

/-- 02 R16, 01 R5: s0 and p0 read as constants and writes to them are discarded; a register written is read back, every other
register reads as before. -/
def Obligations.RegisterFiles : Prop :=
  ∀ (t : Strand) (d r : SReg) (p q : PReg) (x : Word) (m : Bool),
    t.rd 0 = 0 ∧ t.rdP 0 = BitVec.allOnes 64 ∧ t.wr 0 x m = t ∧ t.wrP 0 x m = t ∧ t.markS 0 = false ∧ t.markP 0 = false ∧
    (d ≠ 0 → (t.wr d x m).rd d = x ∧ (t.wr d x m).markS d = m) ∧
    (r ≠ d → (t.wr d x m).rd r = t.rd r ∧ (t.wr d x m).markS r = t.markS r) ∧
    (p ≠ 0 → (t.wrP p x m).rdP p = x ∧ (t.wrP p x m).markP p = m) ∧
    (q ≠ p → (t.wrP p x m).rdP q = t.rdP q ∧ (t.wrP p x m).markP q = t.markP q)

/-! ### Branches and jumps -/

/-- The pc of the current strand is set and the prefixes are consumed. -/
def jumps (s : State) (pc : Word) : State := s.onMe (fun t => { t.clearPfx with pc := pc })

/-- 06 R115, R116, R117: branches and jumps, under an `immx` or not; offsets count words from the instruction itself; `jal`
and `jalr` first write pc + 4 to S[d], `jalr` from the old S[a]; a misaligned target of `jalr` traps; the return's word. -/
def Obligations.BranchesAndJumps : Prop :=
  ∀ (s : State) (g : Guard) (d a b : SReg) (cc : BitVec 4) (i5 : BitVec 5) (off : BitVec 12) (imm : BitVec 21),
    let x := s.me.rd a
    let y := s.me.rd b
    let pc := s.me.pc
    let target := x + s.me.imm off * 4
    (s.acts .branch 0 [a, b] = true → s.clean [a, b] = true →
      exec (.bCc cc a b off) s =
        .next (if condHolds cc.toNat x y then jumps s (pc + s.me.imm off * 4) else s.retire)) ∧
    (s.acts .branch 0 [a] = true → s.clean [a] = true →
      exec (.biCc cc a i5 off) s =
        .next (if condHolds cc.toNat x (i5.signExtend 64) then jumps s (pc + s.me.imm off * 4) else s.retire)) ∧
    (s.acts .imm 0 [] = true → exec (.j imm) s = .next (jumps s (pc + s.me.imm imm * 4))) ∧
    (s.acts .imm 0 [d] = true →
      exec (.jal d imm) s = .next (jumps (s.onMe (fun t => t.wr d (pc + 4) false)) (pc + s.me.imm imm * 4))) ∧
    (s.acts .imm g [d, a] = true → s.clean [a] = true →
      (target.toNat % 4 = 0 →
        exec (.jalr g d a off) s = .next (jumps (s.onMe (fun t => t.wr d (pc + 4) false)) target)) ∧
      (target.toNat % 4 ≠ 0 → Traps (.jalr g d a off) s 7 target)) ∧
    decode 0x68001000 = .ok (.jalr 0 0 1 0)

/-! ### Scalar floating point -/

/-- 06 R119, R120: the operands are taken from the low bits, the exact result is rounded once by the operations of
Machine/Float.lean under the pending mode, an `.f32` result is zero-extended; `fma` reads S[d] as its addend. -/
def Obligations.ScalarFloat : Prop :=
  ∀ (s : State) (g : Guard) (d a b : SReg) (q : BitVec 1), rmOnly s.me.pfxr = true →
    let f := if q = 0 then FFmt.f64 else FFmt.f32
    let rm := RMode.ofBits s.me.rm
    let x := (s.me.rd a).toNat % 2 ^ f.width
    let y := (s.me.rd b).toNat % 2 ^ f.width
    let z := (s.me.rd d).toNat % 2 ^ f.width
    let m := s.me.markS a || s.me.markS b
    (s.acts .mode g [d, a, b] = true →
      exec (.fadd g d a b q) s = .next (s.result d (BitVec.ofNat 64 (f.add rm x y)) m) ∧
      exec (.fsub g d a b q) s = .next (s.result d (BitVec.ofNat 64 (f.sub rm x y)) m) ∧
      exec (.fmul g d a b q) s = .next (s.result d (BitVec.ofNat 64 (f.mul rm x y)) m) ∧
      exec (.fdiv g d a b q) s = .next (s.result d (BitVec.ofNat 64 (f.div rm x y)) m) ∧
      exec (.fmin g d a b q) s = .next (s.result d (BitVec.ofNat 64 (f.min x y)) m) ∧
      exec (.fmax g d a b q) s = .next (s.result d (BitVec.ofNat 64 (f.max x y)) m) ∧
      exec (.fma g d a b q) s = .next (s.result d (BitVec.ofNat 64 (f.fma rm x y z)) (m || s.me.markS d))) ∧
    (s.acts .mode g [d, a] = true →
      exec (.fsqrt g d a q) s = .next (s.result d (BitVec.ofNat 64 (f.sqrt rm x)) (s.me.markS a)) ∧
      exec (.fclass g d a q) s = .next (s.result d (BitVec.ofNat 64 (f.classify x)) (s.me.markS a)))

/-- 06 R121, R122: `fcmp` writes all ones or 0; `fcvt` reads the low bits by the source's width and sign-extends the results
i8 to i64; a pair of two integer formats, of l6 with an integer or itself, of a float other than FP32 and FP16 to l6, or with c4 is
reserved. -/
def Says.ComparesAndConversions : Prop :=
  ∀ (s : State) (g : Guard) (p : PReg) (d a b : SReg) (cc : BitVec 3) (q : BitVec 1) (src tgt : BitVec 4),
    rmOnly s.me.pfxr = true →
    let f := if q = 0 then FFmt.f64 else FFmt.f32
    let e := elemFmt src
    let reserved := (8 ≤ src.toNat ∧ 8 ≤ tgt.toNat) ∨ src = 7 ∨ tgt = 7 ∨ (src = 6 ∧ 8 ≤ tgt.toNat) ∨ (tgt = 6 ∧ src ≠ 1 ∧ src ≠ 2)
    (reserved → (Instr.fcvt g d a src tgt).wf = false) ∧
    (s.acts .mode g [a, b] = true → s.clean [a, b] = true →
      exec (.fcmp g p a b cc q) s =
        .next (s.resultP p (if f.cmp cc.toNat ((s.me.rd a).toNat % 2 ^ f.width) ((s.me.rd b).toNat % 2 ^ f.width)
          then BitVec.allOnes 64 else 0) false)) ∧
    (s.acts .mode g [d, a] = true → ¬ reserved →
      exec (.fcvt g d a src tgt) s =
        .next (s.result d (extendElem (elemFmt tgt)
          (convertElem (RMode.ofBits s.me.rm) e (elemFmt tgt) ((s.me.rd a).toNat % 2 ^ e.width))) (s.me.markS a)))

/-- 06 R120, R121: the class masks of `fclass` and the conditions of `fcmp` with a NaN or with zeros of both signs (FP32
patterns). -/
def Says.FloatClasses : Prop :=
  FFmt.f32.classify 0xFF800000 = 1 ∧ FFmt.f32.classify 0xBF800000 = 2 ∧ FFmt.f32.classify 0x80000001 = 4 ∧
  FFmt.f32.classify 0x80000000 = 8 ∧ FFmt.f32.classify 0 = 16 ∧ FFmt.f32.classify 1 = 32 ∧
  FFmt.f32.classify 0x3F800000 = 64 ∧ FFmt.f32.classify 0x7F800000 = 128 ∧ FFmt.f32.classify 0x7F800001 = 256 ∧
  FFmt.f32.classify 0x7FC00000 = 512 ∧
  (∀ cc < 6, FFmt.f32.cmp cc 0x7FC00000 0 = decide (cc = 1) ∧ FFmt.f32.cmp cc 0 0x7FC00000 = decide (cc = 1)) ∧
  FFmt.f32.cmp 0 0x80000000 0 = true ∧ FFmt.f32.cmp 2 0x80000000 0 = false

/-- fcmp writes all ones or 0; fcvt converts between the pairs of formats of its table, the others being reserved; the classes are told apart. -/
def Obligations.FloatCompareConvert : Prop := Says.ComparesAndConversions ∧ Says.FloatClasses

/-! ### Scalar memory -/

/-- 05 R83, 06 R123, R124, 03 R61, 05 R100: a load whose bytes can be read leaves them on their way to S[d], extended as its form
says; the address is S[a] + imm × size, or S[a] + S[b] × size in the indexed form. An acquiring load in a debug region counts a scope
miss, and traps after the access when the region's scope trap is on. -/
def Says.Loads : Prop :=
  ∀ (s u : State) (g : Guard) (d a b : SReg) (k : BitVec 12) (size mod : BitVec 3) (bs : List (Byte × Bool))
    (key : Option Nat), s.clean [a, b] = true → s.hasRoom = true →
    (∀ x ∈ [(Instr.ldB g d a k, 1, true), (.ldBz g d a k, 1, false), (.ldH g d a k, 2, true), (.ldHz g d a k, 2, false),
        (.ldW g d a k, 4, true), (.ldWz g d a k, 4, false), (.ldD g d a k, 8, false)],
      s.acts .immLoad g [d, a] = true →
      s.reading (s.me.rd a + s.me.imm k * BitVec.ofNat 64 x.2.1) (List.range x.2.1) .plain = .ok (u, bs, key) →
      exec x.1 s = .next (u.addLoad [.s d (extendLoad x.2.1 x.2.2 bs) (anyMark bs)]).retire) ∧
    (
      let n := sizeBytes size
      let addr := s.me.rd a + s.me.rd b * BitVec.ofNat 64 n
      let v := extendLoad n (decide (size = 0 ∨ size = 2 ∨ size = 4)) bs
      s.acts .load g [d, a, b] = true →
      (mod.toNat < 4 → s.reading addr (List.range n) (if mod = 0 then .plain else .vol) = .ok (u, bs, key) →
        exec (.ldIndexed g d a b size mod) s = .next (u.addLoad [.s d v (anyMark bs)]).retire) ∧
      (4 ≤ mod.toNat → addr.toNat % n ≠ 0 → Traps (.ldIndexed g d a b size mod) s 6 addr) ∧
      (4 ≤ mod.toNat → addr.toNat % n = 0 → s.reading addr (List.range n) (.acq (mod.truncate 2)) = .ok (u, bs, key) →
        let t := ((u.addLoad [.s d v (anyMark bs)]).acquire u.cur (mod.truncate 2)).dropRead key n
        let miss := t.debugging && (key.map (scopeMiss t t.cur (mod.truncate 2))).getD false
        let missed := t.onMe (fun x => { x with smiss := x.smiss + 1 })
        let traps := ((t.region t.me.rid).map Region.scopetrap).getD false
        (miss = false → exec (.ldIndexed g d a b size mod) s = .next t.retire) ∧
        (miss = true → traps = false → exec (.ldIndexed g d a b size mod) s = .next missed.retire) ∧
        (miss = true → traps = true → exec (.ldIndexed g d a b size mod) s = .next (missed.takeTrap missed.cur 0x0D addr))))

/-- 00 R3, 06 R123: little-endian bytes, `.b`, `.h` and `.w` sign-extended, the others zero-extended. -/
def Says.LoadedValues : Prop :=
  ∀ (b0 b1 b2 b3 b4 b5 b6 b7 : Byte) (m : Bool),
    extendLoad 1 true [(b0, m)] = b0.signExtend 64 ∧ extendLoad 1 false [(b0, m)] = b0.zeroExtend 64 ∧
    extendLoad 2 true [(b0, m), (b1, m)] = (b1 ++ b0).signExtend 64 ∧
    extendLoad 2 false [(b0, m), (b1, m)] = (b1 ++ b0).zeroExtend 64 ∧
    extendLoad 4 true [(b0, m), (b1, m), (b2, m), (b3, m)] = (b3 ++ b2 ++ b1 ++ b0).signExtend 64 ∧
    extendLoad 4 false [(b0, m), (b1, m), (b2, m), (b3, m)] = (b3 ++ b2 ++ b1 ++ b0).zeroExtend 64 ∧
    extendLoad 8 false [(b0, m), (b1, m), (b2, m), (b3, m), (b4, m), (b5, m), (b6, m), (b7, m)] =
      b7 ++ b6 ++ b5 ++ b4 ++ b3 ++ b2 ++ b1 ++ b0

/-- A load that its window admits reads its bytes, makes S[d] pending and completes; its value is extended as its mnemonic says when it completes. -/
def Obligations.ScalarLoads : Prop := Says.Loads ∧ Says.LoadedValues

/-- 03 R43, R44, R45: the window of the first byte decides; accesses outside every window, across the end of the global
window or beyond the stack take their traps, with the address of the first byte. -/
def Says.WindowTraps : Prop :=
  ∀ (s : State) (a : Word) (n : Nat) (how : How) (m : Nat → Byte × Bool) (rel : Option (BitVec 2)), 0 < n → n ≤ 64 →
    let bad := fun c => s.reading a (List.range n) how = .error (.trap s c a) ∧
      s.storing a ((List.range n).map (fun i => (i, m i))) rel = .error (.trap s c a)
    (a.toNat < 2 ^ 56 → 2 ^ 56 < a.toNat + n → bad 0x0A) ∧
    (2 ^ 56 ≤ a.toNat → (a.toNat < 0xFFFFFFF000000000 ∨ 0xFFFFFFF0000FFFFF < a.toNat) →
      (a.toNat < 0xFFFFFFF800000000 ∨ 0xFFFFFFF8FFFFFFFF < a.toNat) → bad 0x08) ∧
    (0xFFFFFFF800000000 ≤ a.toNat → a.toNat ≤ 0xFFFFFFF80003FFFF → 0xFFFFFFF80003FFFF < a.toNat + n - 1 → bad 0x09) ∧
    (0xFFFFFFF800040000 ≤ a.toNat → a.toNat ≤ 0xFFFFFFF8FFFFFFFF → bad 0x09)

/-- 03 R43, R45, R47, 21 R312: what a read in each window returns: the bytes of the strand's stack in device memory at STACKBASE;
those of the tile's scratchpad through the segments, a unit of them that this load has read before its others (R53) as it was then,
and 0 in a gap or outside every span (R47), once no store of the strand to one of their banks is still to be performed (R49) and no
accepted matrix instruction of the strand is under way (the model's choice, log 5: 09 R189 orders the bytes that one of them
reaches); in the global window, past L1, the byte of a unit that this load has read before its others (R53), else the strand's own
buffered byte (02 R37), else the byte at its home, each with the mark of its whole unit (06 R109). Only translation may change the state,
and in a plain read the lines that the L1 takes up (PlainReads). A stack
address that no die holds stops (the model's choice, log 11). A stack that lies on another partition's die gets no
packet there: the packet is dropped and counted, and the load waits (the model's choice, log 47). Stacks lie under the partition's
default key (the model's choice, log 9). -/
def Says.WindowReads : Prop :=
  ∀ (s : State) (a : Word) (n : Nat) (how : How), 0 < n → n ≤ 64 →
    (∀ o, a.toNat = 0xFFFFFFF800000000 + o → o + n ≤ 0x40000 →
      let last := s.me.stackbase.toNat + (o + (n - 1))
      (paExists last = false → s.reading a (List.range n) how = .error (.stop .noSuchMemory)) ∧
      (paExists last = true → stackReach s last = true →
        s.reading a (List.range n) how = .ok (s, (List.range n).map (fun i =>
          let key := s.me.stackbase.toNat + (o + i)
          (s.readByte (s.defaultSlot (s.pidOfRegion s.me.rid)) key, s.poisoned key)), none)) ∧
      (paExists last = true → stackReach s last = false → s.reading a (List.range n) how =
        .error (.gone ((s.onDie (homeDie last) (fun d => { d with dropped := d.dropped + 1 })).onMe
          (fun t => { t with wait := .parked }))))) ∧
    (∀ o, a.toNat = 0xFFFFFFF000000000 + o → o < 2 ^ 20 →
      let segs := ((s.region s.me.rid).map Region.segs).getD []
      let reached := ∃ x ∈ s.me.spadOut, ∃ y ∈ x.bytes, ∃ p q, spadByte segs x.off y.1 = some p ∧
        ∃ i < n, spadByte segs o i = some q ∧ p / 8 % 64 = q / 8 % 64
      (0 < s.matrixOut s.cur ∨ reached → s.reading a (List.range n) how = .error (.stall s)) ∧
      (s.matrixOut s.cur = 0 → ¬ reached → ∃ bs, s.reading a (List.range n) how = .ok (s, bs, none) ∧ bs.length = n ∧
        ∀ i < n, (spadByte segs o i = none → bs[i]? = some (0, false)) ∧
          ∀ b, spadByte segs o i = some b → bs[i]? = some (match s.me.seenSpad how b with
            | some r => (r.bytes[b % 8]?).getD (0, false)
            | none => let t := s.tile (tileOf s.cur); (Memory.get t.spad b, hasNum t.spadPoison (b / 8))))) ∧
    (a.toNat + n ≤ 2 ^ 56 → ∀ u m, s.xlatMine .read ((List.range n).map (fun i => a.toNat + i)) = (u, .ok m) →
      s.reading a (List.range n) .plain =
        let r := u.readMany .plain ((List.range n).map (fun i => placeOf m (a.toNat + i)))
        .ok (r.1, r.2, some (placeOf m a.toNat).key)) ∧
    (a.toNat + n ≤ 2 ^ 56 → how ≠ .plain →
      ∀ u m, s.xlatMine .read ((List.range n).map (fun i => a.toNat + i)) = (u, .ok m) →
        s.reading a (List.range n) how = .ok (u, (List.range n).map (fun i =>
          let x := placeOf m (a.toNat + i)
          let home := u.readOut x.host x.slot x.key
          match u.me.seenUnit how x with
          | some r => (r.bytes[x.key % 8]?).getD (0, false)
          | none => (((bufByte u.me.buf x.key).map Prod.fst).getD home.1, bufMark u.me.buf x.key home.2)),
          some (placeOf m a.toNat).key))

/-- 03 R50, R53, 02 R37, 06 R109: the bytes of a plain read, one after the other: of a unit that the load has read before its others as
it was then, else the youngest buffered byte, else the byte that the L1 answers; the mark is the unit's at the L1 as the buffered
stores to the unit leave it. -/
def Says.PlainReads : Prop :=
  ∀ (s : State) (x : Xlat) (l : List Xlat) (how : How),
    let first := s.readOne how x
    let rest := first.1.readMany how l
    let got := s.readL1 (coreOf s.cur) x
    s.readMany how [] = (s, []) ∧ s.readMany how (x :: l) = (rest.1, first.2 :: rest.2) ∧
    (∀ r, s.me.seenUnit how x = some r → first = (s, (r.bytes[x.key % 8]?).getD (0, false))) ∧
    (how = .plain → s.me.seenUnit how x = none →
      (∀ b, bufByte s.me.buf x.key = some b → first = (s, (b.1, bufMark s.me.buf x.key got.2.2))) ∧
      (bufByte s.me.buf x.key = none → first = (got.1, (got.2.1, bufMark s.me.buf x.key got.2.2))))

/-- 03 R50: a plain read hits in L1 and returns the line's bytes and marks; a miss returns the byte current at the home; host and
fabric pages never fill. That a miss does fill its line is the model's choice (log 6: R50 allows it and does not ask it). -/
def Says.L1Reads : Prop :=
  ∀ (s : State) (c : Nat) (x : Xlat),
    (x.host = true → s.readL1 c x = (s, s.readOut true x.slot x.key)) ∧
    (x.fab = true → x.host = false → s.readL1 c x = (s, s.readOut false x.slot x.key)) ∧
    (x.host = false → x.fab = false →
      (∀ l, lookupKey (s.core c).l1 (x.key / 64) = some l →
        s.readL1 c x = (s, (byteAt l.data (x.key % 64), bitOf l.marks (x.key % 64 / 8)))) ∧
      (lookupKey (s.core c).l1 (x.key / 64) = none →
        (s.readL1 c x).2 = (s.readByte x.slot x.key, s.poisoned x.key) ∧
        (s.readL1 c x).1 = s.setCore c { s.core c with l1 := ((s.readL1 c x).1.core c).l1 } ∧
        ((s.core c).l1 = [] → ∃ l, ((s.readL1 c x).1.core c).l1 = [(x.key / 64, l)] ∧
          byteAt l.data (x.key % 64) = s.readByte x.slot x.key)))

/-- 03 R43, R46, R47, R48: the bytes that the scratchpad's segments map: a place outside every span, or in the gap of its span, has
no byte; the segment of an access is one whose span contains its offset, and spans do not overlap, so that it is the only one;
swizzle 0 maps in place, the swizzles 1 to 6 flip bits of the 8-byte unit's number by the low bits of its 512-byte row's. -/
def Says.Segments : Prop :=
  ∀ (segs : List (Option Seg)) (o j : Nat) (g : Seg),
    (segAt segs o = none → spadByte segs o j = none) ∧
    (segAt segs o = none ↔ ∀ x, some x ∈ segs → ¬ (x.base ≤ o ∧ o < x.base + x.span)) ∧
    (some g ∈ segs → g.base ≤ o → o < g.base + g.span →
      (∀ x, some x ∈ segs → x.base ≤ o → o < x.base + x.span → x = g) → segAt segs o = some g) ∧
    (segAt segs o = some g → some g ∈ segs ∧ g.base ≤ o ∧ o < g.base + g.span) ∧
    (∀ k, g.size ≤ 2 ^ k → 2 ^ k < 2 * g.size → g.span = 2 ^ k) ∧
    (segAt segs o = some g → 1 ≤ g.swz → (o - g.base + j) % g.span < g.size →
      let u := (o - g.base + j) % g.span
      spadByte segs o j = some (g.base + (u ^^^ (u / 512 % 2 ^ g.swz) * 8))) ∧
    (segAt segs o = some g → g.swz = 0 → (o - g.base + j) % g.span < g.size →
      spadByte segs o j = some (g.base + (o - g.base + j) % g.span)) ∧
    (segAt segs o = some g → g.size ≤ (o - g.base + j) % g.span → spadByte segs o j = none)

/-- 03 R53, 04 R81: a unit that a strand reads before the others of its next load: it is kept as it then reads, past the L1 or not,
and nothing else changes; the instruction that is taken up next uses it where it reads that unit in that way, and it is gone for the
one after. An acquiring load uses none. No unit is read ahead while the task waits or an atomic of the strand is under way, nor one of
the scratchpad that an earlier store or matrix instruction of the strand may still write (the model's choices, logs 1 and 5). -/
def Says.UnitsReadAhead : Prop :=
  ∀ (s : State) (sid va : Nat) (past : Bool),
    let t := s.strand sid
    let v : State := { s with cur := sid, strands := putKey s.strands sid { t with seen := [] } }
    let got := ({ s with cur := sid } : State).xlats (.core (coreOf sid)) (s.pidOfRegion t.rid) (some t.rid) t.super .read [va] []
    (t.task = none ∨ t.wait ≠ .no ∨ s.homeBusy sid = true → s.readAhead sid va past = s) ∧
    (t.task.isSome = true → t.wait = .no → s.homeBusy sid = false → ∀ o, va = 0xFFFFFFF000000000 + o → o < 2 ^ 20 →
      let segs := ((s.region t.rid).map Region.segs).getD []
      let tile := s.tile (tileOf sid)
      (spadByte segs o 0 = none → s.readAhead sid va past = s) ∧
      ∀ b, spadByte segs o 0 = some b →
        let reached := ∃ x ∈ t.spadOut, ∃ y ∈ x.bytes, ∃ p, spadByte segs x.off y.1 = some p ∧ p / 8 % 64 = b / 8 % 64
        (0 < s.matrixOut sid ∨ reached → s.readAhead sid va past = s) ∧
        (s.matrixOut sid = 0 → ¬ reached →
          ∃ r : UnitRead, s.readAhead sid va past = s.setStrand sid { t with ahead := r :: t.ahead } ∧
            r.unit = (0xFFFFFFF000000000 + b) / 8 ∧ r.bytes.length = 8 ∧
            ∀ i < 8, r.bytes[i]? = some (Memory.get tile.spad (b / 8 * 8 + i), hasNum tile.spadPoison (b / 8)))) ∧
    (t.task.isSome = true → t.wait = .no → s.homeBusy sid = false → va < 0xFFFFFFF000000000 ∨ 0xFFFFFFF0000FFFFF < va →
      (∀ e, got.2 = .error e → s.readAhead sid va past = s) ∧
      (∀ m, got.2 = .ok m →
        let x := placeOf m (va / 8 * 8)
        ∃ r : UnitRead, s.readAhead sid va past = s.setStrand sid { t with ahead := r :: t.ahead } ∧ r.unit = x.key / 8 ∧
          r.slot = x.slot ∧ r.host = x.host ∧ r.past = past ∧ r.bytes.length = 8 ∧
          ∀ i < 8, r.bytes[i]? = some (v.readOne (if past then .vol else .plain) { x with key := x.key + i }).2)) ∧
    ((s.takeUp sid).strand sid).seen = t.ahead ∧ ((s.takeUp sid).strand sid).ahead = [] ∧
    (∀ (x : Xlat) (sc : BitVec 2) (b : Nat), t.seenUnit (.acq sc) x = none ∧ t.seenSpad (.acq sc) b = none) ∧
    (∀ (b : Nat) (r : UnitRead) (how : How), t.seenSpad how b = some r → r ∈ t.seen ∧ r.unit = (0xFFFFFFF000000000 + b) / 8) ∧
    ∀ (x : Xlat) (r : UnitRead), (t.seenUnit .plain x = some r → r.past = false) ∧ (t.seenUnit .vol x = some r → r.past = true) ∧
      ∀ how, t.seenUnit how x = some r → r ∈ t.seen ∧ r.unit = x.key / 8 ∧ r.slot = x.slot ∧ r.host = x.host

/-- Which addresses lie in which window, which traps an access outside takes, where scratchpad bytes lie through the segments, what a read returns, unit by unit, and when a line of L1 supplies it. That every miss fills its line is log 6, the stop on a stack address that no die holds log 11, what a lost stack packet does log 47, the key of the stack log 9, the wait of a scratchpad read for every accepted matrix instruction log 5, the units read ahead logs 1 and 5. -/
def Obligations.Windows : Prop :=
  Says.WindowTraps ∧ Says.WindowReads ∧ Says.PlainReads ∧ Says.L1Reads ∧ Says.Segments ∧ Says.UnitsReadAhead

/-- 06 R123, R124, 05 R83: a store of the low bytes of S[d] that its window admits completes. `.rel` must be aligned, and waits while a
put or a scratchpad store of the strand is still to be performed. -/
def Obligations.ScalarStores : Prop :=
  ∀ (s u : State) (g : Guard) (d a b : SReg) (k : BitVec 12) (size mod : BitVec 3),
    s.clean [a, b] = true → s.hasRoom = true →
    let bytes := fun n => (List.range n).map (fun i => (i, byteAt (s.me.rd d) i, s.me.markS d))
    (∀ x ∈ [(Instr.stB g d a k, 1), (.stH g d a k, 2), (.stW g d a k, 4), (.stD g d a k, 8)],
      s.acts .imm g [d, a] = true →
      s.storing (s.me.rd a + s.me.imm k * BitVec.ofNat 64 x.2) (bytes x.2) none = .ok u → exec x.1 s = .next u.retire) ∧
    (
      let n := sizeBytes size
      let addr := s.me.rd a + s.me.rd b * BitVec.ofNat 64 n
      s.acts .none g [d, a, b] = true →
      (mod.toNat < 4 → s.storing addr (bytes n) none = .ok u → exec (.stIndexed g d a b size mod) s = .next u.retire) ∧
      (4 ≤ mod.toNat → addr.toNat % n ≠ 0 → Traps (.stIndexed g d a b size mod) s 6 addr) ∧
      (4 ≤ mod.toNat → addr.toNat % n = 0 → s.putsOut s.cur = true ∨ s.me.spadOut ≠ [] →
        exec (.stIndexed g d a b size mod) s = .next (s.onMe (fun t => { t with wait := .stalled }))) ∧
      (4 ≤ mod.toNat → addr.toNat % n = 0 → s.putsOut s.cur = false → s.me.spadOut = [] →
        s.storing addr (bytes n) (some (mod.truncate 2)) = .ok u →
        exec (.stIndexed g d a b size mod) s = .next u.retire))

/-- 02 R36, R37, 03 R45, R49, 05 R101, 19 R278, 21 R312: what a store changes. In the stack window the bytes at STACKBASE and no
others, or nothing where the stack's die is not the partition's: that packet is dropped and counted there (the model's choice, log
47; the stack lies under the default key, log 9). In the scratchpad, after the task became irrevocable, a user task's store is
outstanding, unit by unit, and no byte changes until a unit is performed (the model's reading, log 5, of 'performed at once' in 06
R123); in supervisor mode the bytes that the segments map, of the issuing tile, are
written at once. In the global window a user task's units enter its buffer, merged in a restartable task, but with no unit that a release
stands after, and unmerged in an irrevocable one, and memory is as translation left it; in supervisor mode, or when the buffer overflows, the buffered units and these
are performed, and every byte that none of them covers reads as before. The address is the one the store gives. -/
def Says.StoreFrame : Prop :=
  ∀ (s u : State) (a : Word) (n : Nat) (m : Nat → Byte × Bool) (rel : Option (BitVec 2)), s.Inv = true → 0 < n → n ≤ 64 →
    s.storing a ((List.range n).map (fun i => (i, m i))) rel = .ok u →
    (∀ o, a.toNat = 0xFFFFFFF800000000 + o → o + n ≤ 0x40000 →
      let key := s.me.stackbase.toNat + o
      let last := s.me.stackbase.toNat + (o + (n - 1))
      let slot := s.defaultSlot (s.pidOfRegion s.me.rid)
      (stackReach s last = true →
        (∀ k, u.readByte slot k = if key ≤ k ∧ k < key + n then (m (k - key)).1 else s.readByte slot k) ∧
        (∀ k, k / 64 < key / 64 ∨ (key + (n - 1)) / 64 < k / 64 →
          Memory.get u.mem k = Memory.get s.mem k ∧ ∀ other, u.readByte other k = s.readByte other k) ∧
        { s with mem := u.mem, memPoison := u.memPoison, lineKey := u.lineKey } = u) ∧
      (stackReach s last = false → u = s.onDie (homeDie last) (fun d => { d with dropped := d.dropped + 1 }))) ∧
    (∀ o, a.toNat = 0xFFFFFFF000000000 + o → o < 2 ^ 20 →
      let before := s.irrevAct s.cur
      let segs := ((before.region before.me.rid).map Region.segs).getD []
      let units := spadUnits s.me.nextIssued 0 o ((List.range n).map (fun i => (i, m i)))
      (before.me.super = false → u = before.onMe (fun t => { t with spadOut := t.spadOut ++ units })) ∧
      (before.me.super = true → u.mem = before.mem ∧ u.strands = before.strands ∧
        (∀ t, t ≠ tileOf s.cur → u.tile t = before.tile t) ∧
        (∀ b, (∀ j < n, spadByte segs o j ≠ some b) →
          Memory.get (u.tile (tileOf s.cur)).spad b = Memory.get (before.tile (tileOf s.cur)).spad b) ∧
        ∀ j < n, ∀ b, spadByte segs o j = some b → (∀ k < n, k ≠ j → spadByte segs o k ≠ some b) →
          Memory.get (u.tile (tileOf s.cur)).spad b = (m j).1)) ∧
    (a.toNat + n ≤ 2 ^ 56 → ∀ x, s.xlatMine .write ((List.range n).map (fun i => a.toNat + i)) = x →
      x.1.me.super = false → x.1.me.irrev = false → x.1.me.buf = [] → u.mem = x.1.mem ∧ u.onlyStrand x.1 u.cur) ∧
    (a.toNat + n ≤ 2 ^ 56 → ∀ w x, s.xlatMine .write ((List.range n).map (fun i => a.toNat + i)) = (w, .ok x) →
      let units := w.storeUnits a ((List.range n).map (fun i => (i, m i))) x rel s.me.nextIssued
      let shut := if rel.isSome then w.me.buf.length else w.me.closed
      let buf := if w.me.irrev then w.me.buf ++ units else mergeUnits shut units w.me.buf
      let held := (heldUnits buf).length
      (w.me.super = false → held ≤ 512 → u.me.buf = buf ∧ u.me.closed = (if w.me.irrev then w.me.closed else shut) ∧
        u.mem = w.mem ∧ u.onlyStrand w u.cur) ∧
      (w.me.super = true ∨ 512 < held → u.me.buf = [] ∧ u.otherStrands w u.cur ∧
        ∀ slot k, (∀ y ∈ w.me.buf ++ units, (y.slot = slot ∨ y.key / 64 ≠ k / 64) ∧
            ¬ (y.key ≤ k ∧ k < y.key + 8 ∧ bitOf y.mask (k - y.key) = true)) →
          u.readByte slot k = w.readByte slot k))

/-- 02 R36, R37, 06 R109: the youngest buffered unit that covers a byte supplies it; the mark of a load is its whole unit's, as the
buffered stores to the unit leave it in order; merging keeps one unit for an address in a
restartable task, and the merged unit holds the newer byte where the newer store wrote it; the units before the place that a release
holds merge with no later store (06 R124, R130), and a buffer holds as many units as it has addresses. That stores which together
cover a marked unit clear its mark is log 76, what merges log 42. -/
def Says.BufferedUnits : Prop :=
  ∀ (b : List BufUnit) (u x : BufUnit) (key n : Nat) (z : Bool) (l : List BufUnit),
    mergeUnits n [] b = b ∧ (n ≤ b.length → mergeUnits n (u :: l) b = mergeUnits n l (b.take n ++ mergeUnit u (b.drop n))) ∧
    (∃ r, mergeUnits n l b = b.take n ++ r) ∧
    (heldUnits b).Nodup ∧ (∀ k, k ∈ heldUnits b ↔ ∃ y ∈ b, y.key / 8 = k) ∧
    (bufByte [] key = none) ∧ bufMark [] key z = z ∧
    (u.key = key / 8 * 8 → bufMark (b ++ [u]) key z = (u.poison || (bufMark b key z && u.mask != BitVec.allOnes 8))) ∧
    (u.key ≠ key / 8 * 8 → bufMark (b ++ [u]) key z = bufMark b key z) ∧
    (bitOf u.mask (key % 8) = true → u.key = key / 8 * 8 →
      bufByte (b ++ [u]) key = some (byteAt u.data (key % 8), u.poison)) ∧
    (bitOf u.mask (key % 8) = false → bufByte (b ++ [u]) key = bufByte b key) ∧
    (∃ r, mergeUnit u b = r ∧ r.length ≤ b.length + 1 ∧
      ((∀ y ∈ b, y.key ≠ u.key) → r = b ++ [u])) ∧
    (x.key = u.key → bufByte (mergeUnit u [x]) key =
      if u.key = key / 8 * 8 ∧ bitOf u.mask (key % 8) = true then
        some (byteAt u.data (key % 8), (x.poison && u.mask != BitVec.allOnes 8) || u.poison)
      else (bufByte [x] key).map (fun v => (v.1, (v.2 && u.mask != BitVec.allOnes 8) || u.poison)))

/-- 20 R307, 02 R36, 21 R315: one aligned unit written, under the key of a slot or under none: read under the same slot exactly the
masked bytes change; the bytes of every other line read as before under every slot; without a key the memory itself changes in the
masked bytes alone. A whole unmarked unit clears the poison, a marked write sets it, a partial unmarked write leaves it. -/
def Says.UnitWrites : Prop :=
  ∀ (s : State) (slot : Option Nat) (key : Nat) (mask : BitVec 8) (data : BitVec 64) (p : Bool), Memory.wf s.mem = true →
    key % 8 = 0 →
    let t := s.writeUnit slot key mask data p
    (∀ k, k / 64 = key / 64 → t.readByte slot k =
      if key ≤ k ∧ k < key + 8 ∧ bitOf mask (k - key) = true then byteAt data (k - key) else s.readByte slot k) ∧
    (∀ k other, k / 64 ≠ key / 64 → t.readByte other k = s.readByte other k ∧ Memory.get t.mem k = Memory.get s.mem k) ∧
    (slot = none → ∀ k, Memory.get t.mem k =
      if key ≤ k ∧ k < key + 8 ∧ bitOf mask (k - key) = true then byteAt data (k - key) else Memory.get s.mem k) ∧
    (slot = none → t.lineKey = s.lineKey) ∧
    { s with mem := t.mem, memPoison := t.memPoison, lineKey := t.lineKey } = t ∧
    (∀ l, l ≠ key / 64 → lookupKey t.lineKey l = lookupKey s.lineKey l) ∧
    (mask ≠ 0 → p = true → t.memPoison = addNum s.memPoison (key / 8)) ∧
    (mask = BitVec.allOnes 8 → p = false → t.memPoison = delNum s.memPoison (key / 8)) ∧
    (mask ≠ BitVec.allOnes 8 → p = false → t.memPoison = s.memPoison)

/-- 03 R53: a scratchpad store parts into its aligned 8-byte units, each with its own bytes in order. -/
def Says.ScratchpadUnits : Prop :=
  ∀ (label elem o : Nat) (l : List (Nat × Byte × Bool)),
    let us := spadUnits label elem o l
    (∀ x ∈ us, x.off = o ∧ x.elem = elem ∧ x.issued = label ∧ ∃ k, (∃ y ∈ l, (o + y.1) / 8 = k) ∧
      x.bytes = l.filter (fun y => (o + y.1) / 8 == k)) ∧
    (∀ y ∈ l, ∃ x ∈ us, y ∈ x.bytes) ∧ us.Pairwise (fun x y => ∀ i ∈ x.bytes, ∀ j ∈ y.bytes, (o + i.1) / 8 ≠ (o + j.1) / 8)

/-- 03 R43, R48, R49, R53, 06 R109, 07 R139: a unit of a scratchpad store that is outstanding is performed at one point in time, on the
tile of its strand, through the segments of its region: the bytes they map take its bytes and no others change. It is performed once no
earlier unit of its strand reaches a bank of it or is of another element of the same `vstx`. That a store stays outstanding, unit by
unit, until an input performs it is the model's reading, log 5. -/
def Says.ScratchpadStores : Prop :=
  ∀ (s : State) (sid idx : Nat),
    let t := s.strand sid
    let segs := ((s.region t.rid).map Region.segs).getD []
    let place := fun (x : SpadStore) j => spadByte segs x.off j
    let meet := fun (x y : SpadStore) => ∃ j ∈ x.bytes.map Prod.fst, ∃ k ∈ y.bytes.map Prod.fst, ∃ p q,
      place x j = some p ∧ place y k = some q ∧ p / 8 % 64 = q / 8 % 64
    (t.spadOut.length ≤ idx → s.spadStore sid idx = s) ∧
    (∀ x, t.spadOut[idx]? = some x →
      ((∃ y ∈ t.spadOut.take idx, meet y x ∨ (x.issued = y.issued ∧ x.elem ≠ y.elem)) → s.spadStore sid idx = s) ∧
      ((∀ y ∈ t.spadOut.take idx, ¬ meet y x ∧ (x.issued = y.issued → x.elem = y.elem)) → ∃ u : State, s.spadStore sid idx = u.wake sid ∧ u.mem = s.mem ∧
        u.memPoison = s.memPoison ∧ s.otherStrands u sid ∧ u.strand sid = { t with spadOut := t.spadOut.eraseIdx idx } ∧
        (∀ i, i ≠ tileOf sid → u.tile i = s.tile i) ∧
        u.tile (tileOf sid) = { s.tile (tileOf sid) with spad := (u.tile (tileOf sid)).spad
                                                         spadPoison := (u.tile (tileOf sid)).spadPoison } ∧
        (Memory.wf (s.tile (tileOf sid)).spad = true →
          (∀ b, (∀ j ∈ x.bytes.map Prod.fst, place x j ≠ some b) →
            Memory.get (u.tile (tileOf sid)).spad b = Memory.get (s.tile (tileOf sid)).spad b) ∧
          ∀ j y z b, (j, y, z) ∈ x.bytes → place x j = some b →
            (∀ k ∈ x.bytes, place x k.1 = some b → k = (j, y, z)) → Memory.get (u.tile (tileOf sid)).spad b = y)))

/-- The youngest buffered unit supplies a byte; merging keeps one unit for an address; a unit is written with its poison; an outstanding scratchpad store writes its bytes, unit by unit, when they are performed. The choices are logs 5, 42 and 76. -/
def Obligations.StoreBuffer : Prop := Says.BufferedUnits ∧ Says.UnitWrites ∧ Says.ScratchpadUnits ∧ Says.ScratchpadStores

/-- 05 R100, R101, 02 R36: a load completes: its registers take their values and stop being pending; the oldest buffered unit of an
irrevocable task is performed first (the model's choice, log 42: R36 gives no order among them). -/
def Obligations.CompletionsAndDrains : Prop :=
  ∀ (s : State) (sid idx : Nat),
    (∀ l rest, takeAt (s.strand sid).loads idx = some (l, rest) →
      exec (.loadCompletion sid idx) s =
        .next ((s.onStrand sid (fun t => l.writes.foldl Strand.apply { t with loads := rest })).wake sid)) ∧
    (takeAt (s.strand sid).loads idx = none → exec (.loadCompletion sid idx) s = .next s) ∧
    (∀ u r, (s.strand sid).buf = u :: r → (s.strand sid).restartable = false →
      exec (.storeDrain sid) s = .next ((s.performUnit sid u).onStrand sid (fun t => { t with buf := r }))) ∧
    ((s.strand sid).buf = [] ∨ (s.strand sid).restartable = true → exec (.storeDrain sid) s = .next s) ∧
    (∀ (t : Strand) (d : SReg) (x : Word) (m : Bool), d ≠ 0 →
      (t.apply (.s d x m)).rd d = x ∧ (t.apply (.s d x m)).markS d = m ∧ bitOf (t.apply (.s d x m)).pendS d.toNat = false)

/-! ### Atomics and exact sums -/

/-- The operation has left for its home: the next word follows, or in a scope-trap region the strand stays on an acquiring one
until it is performed (03 R61). -/
def sentHome (v : State) (o : BitVec 3) (h : HomeOp) (w : List RegWrite) : State :=
  let u := v.irrevAct v.cur
  let t := u.sendHome h w
  if holdsFor u o then t.onMe (fun x => { x with wait := .acquire }) else t.retire

/-- 06 R125, R126, R127: an integer atomic or an exact update that translates leaves for its home, the task irrevocable and
its destination pending, a releasing form once no put and no scratchpad store of the strand is still to be performed (R124, 03 R49);
with its place misaligned, in the stack window, or for a slot outside the global window, it traps. That a
slot outside every window takes the trap 0x0B and not 0x08 is the model's choice (log 14: R127 gives 0x0B for a slot outside the
global window). -/
def Says.AtomicIssue : Prop :=
  ∀ (s u : State) (g : Guard) (d a b : SReg) (o : BitVec 3) (p : Xlat), s.hasRoom = true →
    s.clean [a] = true →
    let free := (relScope o).isSome = true → s.writesOut s.cur = false
    let waits := s.onMe (fun t => { t with wait := .stalled })
    let addr := s.me.rd a
    let amos : List (Instr × HomeKind) :=
      [(.amoAdd g d a b o, .amo 0), (.amoAnd g d a b o, .amo 1), (.amoOr g d a b o, .amo 2), (.amoXor g d a b o, .amo 3),
       (.amoMin g d a b o, .amo 4), (.amoMax g d a b o, .amo 5), (.amoMinz g d a b o, .amo 6),
       (.amoMaxz g d a b o, .amo 7), (.amoSwap g d a b o, .amo 8), (.cas g d a b o, .cas (s.me.rd d) (s.me.markS d))]
    let sums : List (Instr × HomeKind) := [(.xaddF32 g a b o, .xaddF32), (.xaddF64 g a b o, .xaddF64)]
    ((relScope o).isSome = true → s.writesOut s.cur = true →
      (s.acts .none g [d, a, b] = true → ∀ x ∈ amos, exec x.1 s = .next waits) ∧
      (s.acts .none g [a, b] = true → ∀ x ∈ sums, exec x.1 s = .next waits)) ∧
    (free → s.acts .none g [d, a, b] = true → ∀ x ∈ amos,
      (addr.toNat < 2 ^ 56 → s.homePlace addr 8 .atomic = .ok (u, p) → u.me.dual = none →
        exec x.1 s = .next (sentHome u o (homeOp u x.2 addr p (s.me.rd b) (s.me.markS b) d 0 o) [.s d 0 false])) ∧
      (addr.toNat < 2 ^ 56 → addr.toNat % 8 ≠ 0 → Traps x.1 s 6 addr) ∧
      (0xFFFFFFF800000000 ≤ addr.toNat → addr.toNat < 0xFFFFFFF800040000 → Traps x.1 s 0x0B addr)) ∧
    (free → s.acts .none g [a, b] = true → ∀ x ∈ sums,
      (addr.toNat < 2 ^ 56 → s.homePlace addr 64 .atomic = .ok (u, p) → u.me.dual = none →
        exec x.1 s = .next (sentHome u o (homeOp u x.2 addr p (s.me.rd b) (s.me.markS b) 0 0 o) [])) ∧
      (2 ^ 56 ≤ addr.toNat → Traps x.1 s 0x0B addr) ∧
      (addr.toNat < 2 ^ 56 → addr.toNat % 64 ≠ 0 → Traps x.1 s 6 addr)) ∧
    (s.writesOut s.cur = false ↔ s.putsOut s.cur = false ∧ s.me.spadOut = [])

/-- 06 R127, R128, R129: `xmerge`, `xclr` and `xrnd` leave for their homes; `xrnd` is not irrevocable. -/
def Says.SlotOperationsLeave : Prop :=
  ∀ (s u v : State) (g : Guard) (d a b : SReg) (o : BitVec 3) (mode : BitVec 2) (q : BitVec 1) (p : Xlat)
    (m : List (Nat × Xlat)),
    s.hasRoom = true → s.clean [a] = true → (s.me.rd a).toNat < 2 ^ 56 → (s.me.rd a).toNat % 64 = 0 →
    (s.acts .none g [a, b] = true → s.clean [b] = true → (relScope o).isSome = true → s.writesOut s.cur = true →
      exec (.xmerge g a b o) s = .next (s.onMe (fun t => { t with wait := .stalled }))) ∧
    (s.acts .none g [a, b] = true → s.clean [b] = true → ((relScope o).isSome → s.writesOut s.cur = false) →
      (s.me.rd b).toNat < 2 ^ 56 → (s.me.rd b).toNat % 64 = 0 → s.homePlace (s.me.rd a) 64 .atomic = .ok (u, p) →
      u.xlatMine .exactRead [(s.me.rd b).toNat] = (v, .ok m) → v.me.dual = none →
      let y := placeOf m (s.me.rd b).toNat
      exec (.xmerge g a b o) s = .next (sentHome v o { homeOp v (.xmerge y.key y.slot) (s.me.rd a) p 0 false 0 0 o with
        also := some ((s.me.rd b).toNat, y.size) } [])) ∧
    (s.acts .none g [a] = true → s.homePlace (s.me.rd a) 64 .atomic = .ok (u, p) → u.me.dual = none →
      exec (.xclr g a) s = .next ((u.irrevAct u.cur).sendHome (homeOp u .xclr (s.me.rd a) p 0 false 0 0 0) []).retire) ∧
    (s.acts .mode g [d, a, b] = true → (bitOf s.me.pfxr 60 = true → rmOnly s.me.pfxr = true ∧ mode = 0) →
      s.homePlace (s.me.rd a) 64 .exactRead = .ok (u, p) →
      exec (.xrnd g d a b mode q) s = .next
        (u.sendHome (homeOp u (.xrnd (q == 1) (if bitOf s.me.pfxr 60 then s.me.rm else mode)) (s.me.rd a) p 0 false d b 0)
          [.s d 0 false, .s b 0 false]).retire)

/-- 06 R126, R127, R128, R129, 02 R38: where a slot operation traps: a slot outside the global window takes 0x0B (one outside every
window too: log 14), a misaligned one 6, S[a] being tested before S[b]; and where an operation that would leave for its home takes the
trap of an irrevocable act in a dual run, once its places have been found. -/
def Says.HomeTraps : Prop :=
  ∀ (s u v : State) (g : Guard) (d a b : SReg) (o : BitVec 3) (mode : BitVec 2) (q : BitVec 1) (p : Xlat)
    (m : List (Nat × Xlat)), s.hasRoom = true → s.clean [a] = true → ((relScope o).isSome → s.writesOut s.cur = false) →
    let x := s.me.rd a
    let y := s.me.rd b
    let bad := fun i (z : Word) => (2 ^ 56 ≤ z.toNat → Traps i s 0x0B z) ∧ (z.toNat < 2 ^ 56 → z.toNat % 64 ≠ 0 → Traps i s 6 z)
    let dual := fun i (w : State) => w.me.dual.isSome = true → exec i s = .next (w.takeTrap w.cur 0x13 0)
    let good := x.toNat < 2 ^ 56 ∧ x.toNat % 64 = 0
    let modes := bitOf s.me.pfxr 60 = true → rmOnly s.me.pfxr = true ∧ mode = 0
    (s.acts .none g [a] = true → bad (.xclr g a) x ∧
      (good → s.homePlace x 64 .atomic = .ok (u, p) → dual (.xclr g a) u)) ∧
    (s.acts .mode g [d, a, b] = true → modes → bad (.xrnd g d a b mode q) x) ∧
    (s.acts .none g [a, b] = true → s.clean [b] = true → bad (.xmerge g a b o) x ∧ (good → bad (.xmerge g a b o) y ∧
      (y.toNat < 2 ^ 56 → y.toNat % 64 = 0 → s.homePlace x 64 .atomic = .ok (u, p) → u.xlatMine .exactRead [y.toNat] = (v, .ok m) →
        dual (.xmerge g a b o) v))) ∧
    (s.acts .none g [a, b] = true → good → s.homePlace x 64 .atomic = .ok (u, p) →
      dual (.xaddF32 g a b o) u ∧ dual (.xaddF64 g a b o) u) ∧
    (s.acts .none g [d, a, b] = true → x.toNat < 2 ^ 56 → s.homePlace x 8 .atomic = .ok (u, p) →
      ∀ i ∈ [Instr.amoAdd g d a b o, .amoAnd g d a b o, .amoOr g d a b o, .amoXor g d a b o, .amoMin g d a b o, .amoMax g d a b o,
        .amoMinz g d a b o, .amoMaxz g d a b o, .amoSwap g d a b o, .cas g d a b o], dual i u)

/-- 06 R125, R126, R109, R124: an integer atomic in the scratchpad window is performed by the tile at once, through the region's
segments: the old value is on its way to S[d], an acquiring form empties the core's L1 at die scope and wider. It waits while a
store of the strand to its bank is still to be performed (03 R49), and while any accepted matrix instruction of the strand is under way
(the model's choice, log 5). A misaligned place traps. -/
def Says.ScratchpadAtomics : Prop :=
  ∀ (s : State) (g : Guard) (d a b : SReg) (o : BitVec 3) (off : Nat), s.hasRoom = true →
    ((relScope o).isSome → s.writesOut s.cur = false) → s.clean [a] = true → s.acts .none g [d, a, b] = true →
    (s.me.rd a).toNat = 0xFFFFFFF000000000 + off → off < 2 ^ 20 →
    let y := s.me.rd b
    let m := s.me.markS b
    let u := s.irrevAct s.cur
    let segs := ((u.region u.me.rid).map Region.segs).getD []
    let t := u.tile (tileOf u.cur)
    let bs := (List.range 8).map (t.readSpad segs off)
    let old := leWord (bs.map Prod.fst)
    let put := fun (x : Word) (p : Bool) =>
      u.setTile (tileOf u.cur) (t.writeSpad segs off ((List.range 8).map (fun i => (i, byteAt x i, p))))
    let ends := fun (v : State) (p : Bool) =>
      let v := if 1 ≤ o.toNat ∧ o.toNat ≤ 3 then v.dropL1 (coreOf u.cur) else v
      if d = 0 then v.retire else (v.addLoad [.s d old p]).retire
    let amos : List (Instr × Nat) :=
      [(.amoAdd g d a b o, 0), (.amoAnd g d a b o, 1), (.amoOr g d a b o, 2), (.amoXor g d a b o, 3), (.amoMin g d a b o, 4),
       (.amoMax g d a b o, 5), (.amoMinz g d a b o, 6), (.amoMaxz g d a b o, 7), (.amoSwap g d a b o, 8)]
    let waits := s.onMe (fun t => { t with wait := .stalled })
    let busy := 0 < s.matrixOut s.cur ∨ s.bankBusy s.cur off (List.range 8) = true
    (off % 8 ≠ 0 → Traps (.cas g d a b o) s 6 (s.me.rd a) ∧ ∀ x ∈ amos, Traps x.1 s 6 (s.me.rd a)) ∧
    (off % 8 = 0 → busy → exec (.cas g d a b o) s = .next waits ∧ ∀ x ∈ amos, exec x.1 s = .next waits) ∧
    (off % 8 = 0 → ¬ busy → s.me.dual.isSome = true →
      Traps (.cas g d a b o) s 0x13 0 ∧ ∀ x ∈ amos, Traps x.1 s 0x13 0) ∧
    (off % 8 = 0 → ¬ busy → s.me.dual = none →
      (∀ x ∈ amos, exec x.1 s = .next (ends (put (amoNew x.2 old y) (m || (anyMark bs && x.2 != 8))) (anyMark bs || m))) ∧
      exec (.cas g d a b o) s = .next (ends (if old = s.me.rd d then put y m else u) (anyMark bs || m || s.me.markS d)))

/-- Each atomic and exact operation is an irrevocable act, leaves for its home with the operands read, or is performed by the tile in the scratchpad window, and completes; misalignment, wrong windows and dual runs trap (0x0B for a slot outside every window: log 14; the wait for matrix instructions and for outstanding scratchpad stores: log 5). -/
def Obligations.AtomicsLeave : Prop := Says.AtomicIssue ∧ Says.SlotOperationsLeave ∧ Says.HomeTraps ∧ Says.ScratchpadAtomics

/-- 06 R125: the read-modify-write of each integer atomic, and what the home does: the old value returns, the unit holds the
new one. -/
def Says.AtomicEffects : Prop :=
  ∀ (s : State) (h : HomeOp) (old x e : Word) (m : Bool), Memory.wf s.mem = true → h.key % 8 = 0 →
    let unit := fun (u : State) => leWord ((List.range 8).map (fun i => u.readByte h.slot (h.key + i)))
    let elsewhere := fun (t : State) =>
      (∀ k, k / 64 = h.key / 64 → (k < h.key ∨ h.key + 8 ≤ k) → t.readByte h.slot k = s.readByte h.slot k) ∧
      (∀ k other, k / 64 ≠ h.key / 64 → t.readByte other k = s.readByte other k) ∧
      { s with mem := t.mem, memPoison := t.memPoison, lineKey := t.lineKey } = t
    let t := (s.performHome h).1
    old = unit s →
    (amoNew 0 old x = old + x ∧ amoNew 1 old x = old &&& x ∧ amoNew 2 old x = old ||| x ∧ amoNew 3 old x = old ^^^ x ∧
      amoNew 4 old x = (if x.toInt < old.toInt then x else old) ∧ amoNew 5 old x = (if old.toInt < x.toInt then x else old) ∧
      amoNew 6 old x = (if x.toNat < old.toNat then x else old) ∧ amoNew 7 old x = (if old.toNat < x.toNat then x else old) ∧
      amoNew 8 old x = x) ∧
    (∀ op, h.kind = .amo op →
      (s.performHome h).2 = [.s h.d old (s.poisoned h.key || h.xMark)] ∧ unit t = amoNew op old h.x ∧ elsewhere t ∧
      t.memPoison = (if h.xMark = true ∨ (s.poisoned h.key = true ∧ op ≠ 8) then addNum s.memPoison (h.key / 8)
        else delNum s.memPoison (h.key / 8))) ∧
    (h.kind = .cas e m →
      (s.performHome h).2 = [.s h.d old (s.poisoned h.key || h.xMark || m)] ∧ (old ≠ e → t = s) ∧
      (old = e → unit t = h.x ∧ elsewhere t ∧
        t.memPoison = (if h.xMark then addNum s.memPoison (h.key / 8) else delNum s.memPoison (h.key / 8))))

/-- 06 R127, R128, R129, 04 R79, R80: what the home of a slot does: `xadd` adds one value, `xmerge` the other slot, `xclr` clears; the
slot is written whole and unpoisoned and nothing is returned. `xrnd` changes nothing and returns the rounded value and the flags
with the count. -/
def Says.SlotEffects : Prop :=
  ∀ (s : State) (h : HomeOp), Memory.wf s.mem = true → s.memPoison.Pairwise (· < ·) → h.key % 64 = 0 →
    let slot := s.readSlot h.key h.slot
    let holds := fun (x : BitVec 512) =>
      (s.performHome h).2 = [] ∧ (s.performHome h).1.readSlot h.key h.slot = x ∧
      (∀ k other, k / 64 ≠ h.key / 64 → (s.performHome h).1.readByte other k = s.readByte other k) ∧
      (∀ u, u / 8 ≠ h.key / 64 → hasNum (s.performHome h).1.memPoison u = hasNum s.memPoison u) ∧
      { s with mem := (s.performHome h).1.mem, memPoison := (s.performHome h).1.memPoison
               lineKey := (s.performHome h).1.lineKey } = (s.performHome h).1
    (h.kind = .xaddF32 → holds (slotAdd slot (FFmt.f32.decode (h.x.toNat % 2 ^ 32)) h.xMark)) ∧
    (h.kind = .xaddF64 → holds (slotAdd slot (FFmt.f64.decode h.x.toNat) h.xMark)) ∧
    (∀ y, h.kind = .xmerged y → holds (slotMerge slot y)) ∧
    (∀ k v, h.kind = .xmerge k v → holds (slotMerge slot (s.readSlot k v))) ∧
    (h.kind = .xclr → holds 0) ∧
    (∀ f64 rm, h.kind = .xrnd f64 rm →
      let r := slotRound slot (if f64 then FFmt.f64 else FFmt.f32) (RMode.ofBits rm)
      s.performHome h = (s, [.s h.d (BitVec.ofNat 64 r.1) r.2,
        .s h.e (BitVec.ofNat 64 (slotCount slot + slotFlags slot * 2 ^ 32)) false]))

/-- 05 R101, 06 R125, R128, 04 R81, 03 R50, R61: HOME_ATOMIC completes for every operation on its way: it leaves the queue and its home
performs it; a value returns as a load of its strand, if that still holds its task; an acquiring one leaves the core's L1 empty. A
strand that stayed on an acquiring operation goes on with the next word, or takes the scope-miss trap after the access. An `xmerge`
of two slots reads the other one first and then goes to the home of its own. -/
def Says.HomeSteps : Prop :=
  ∀ (s : State) (idx : Nat),
    (takeAt s.homeQ idx = none → exec (.homeAtomic idx) s = .next s) ∧
    (∀ h rest, takeAt s.homeQ idx = some (h, rest) →
      let t := s.strand h.sid
      let p := s.performHome h
      let two := ∃ k v, h.kind = .xmerge k v ∧ k ≠ h.key
      let miss := h.acq != 0 && inDebug s h.sid && scopeMiss s h.sid h.acq h.key
      (∀ k v, h.kind = .xmerge k v → k ≠ h.key → ∃ u, exec (.homeAtomic idx) s = .next u ∧
        u.homeQ = setAt s.homeQ idx { h with kind := .xmerged (s.readSlot k v), also := none } ∧ u.mem = s.mem ∧
        u.strands = s.strands) ∧
      (¬ two → t.taskNo ≠ h.taskNo → ∃ u, exec (.homeAtomic idx) s = .next u ∧ u.homeQ = rest ∧ u.mem = p.1.mem ∧
        u.memPoison = p.1.memPoison ∧ u.strands = s.strands) ∧
      (¬ two → t.taskNo = h.taskNo → t.wait = .acquire → miss = true → ∃ u : State,
        exec (.homeAtomic idx) s = .next (u.takeTrap h.sid 0x0D (BitVec.ofNat 64 h.va)) ∧ u.homeQ = rest ∧ u.mem = p.1.mem) ∧
      (¬ two → t.taskNo = h.taskNo → t.wait ≠ .acquire ∨ miss = false → ∃ u, exec (.homeAtomic idx) s = .next u ∧
        u.homeQ = rest ∧ u.mem = p.1.mem ∧ u.memPoison = p.1.memPoison ∧ s.otherStrands u h.sid ∧
        (u.strand h.sid).loads = t.loads ++ (if h.isLoad then [{ writes := p.2 }] else []) ∧
        (u.strand h.sid).smiss = t.smiss + miss.toNat ∧ (h.acq ≠ 0 → (u.core (coreOf h.sid)).l1 = []) ∧
        (t.wait = .acquire → (u.strand h.sid).wait = .no ∧ (u.strand h.sid).pc = t.pc + 4) ∧
        (t.wait = .stalled → (u.strand h.sid).wait = .no) ∧ (u.strand h.sid).s = t.s))

/-- At its home an atomic returns the old value to its register and stores the value its rule computes; an exact operation adds, merges, clears or rounds; HOME_ATOMIC completes. -/
def Obligations.HomeAtomic : Prop := Says.AtomicEffects ∧ Says.SlotEffects ∧ Says.HomeSteps

/-- 04 R78, R79: one value added to a slot, and two slots merged. A slot is COUNT, six flags and N. -/
def Says.ExactAddition : Prop :=
  ∀ (v w : BitVec 512) (neg : Bool) (q : ℚ), 0 ≤ q →
    let m : Int := (q * 2 ^ 160).floor
    let sum := if neg then slotN v - m else slotN v + m
    slotCount (slotAdd v (.fin neg q) false) = min (slotCount v + 1) 0xFFFFFFFF ∧
    (q < 2 ^ 223 → slotN (slotAdd v (.fin neg q) false) = (BitVec.ofInt 448 sum).toInt) ∧
    (2 ^ 223 ≤ q → slotN (slotAdd v (.fin neg q) false) = slotN v) ∧
    slotFlags (slotAdd v (.fin neg q) false) = slotFlags v ||| (if (m : ℚ) ≠ q * 2 ^ 160 then 16 else 0) |||
      (if 2 ^ 223 ≤ q then 32 else 0) ∧
    slotAdd v .nan false = slotMake (slotN v) (slotFlags v ||| 1) (slotCount v + 1) ∧
    slotAdd v (.inf false) false = slotMake (slotN v) (slotFlags v ||| 2) (slotCount v + 1) ∧
    slotAdd v (.inf true) false = slotMake (slotN v) (slotFlags v ||| 4) (slotCount v + 1) ∧
    (∀ x, slotAdd v x true = slotMake (slotN v) (slotFlags v ||| 8) (slotCount v + 1)) ∧
    (slotN (slotMerge v w) = (BitVec.ofInt 448 (slotN v + slotN w)).toInt ∧
      slotFlags (slotMerge v w) = slotFlags v ||| slotFlags w ∧
      slotCount (slotMerge v w) = min (slotCount v + slotCount w) 0xFFFFFFFF)

/-- 04 R81: the final slot does not depend on the order of two contributions, with their poison. -/
def Says.ExactSumsCommute : Prop :=
  ∀ (v : BitVec 512) (x y : FVal) (p r : Bool),
    slotAdd (slotAdd v x p) y r = slotAdd (slotAdd v y r) x p

/-- 04 R80: what `xrnd` delivers, by the first matching row. -/
def Says.SlotRounding : Prop :=
  ∀ (v : BitVec 512) (f : FFmt) (m : RMode),
    let fl := slotFlags v
    (fl.testBit 3 = true → slotRound v f m = (f.nan, true)) ∧
    (fl.testBit 3 = false →
      (fl.testBit 0 = true ∨ (fl.testBit 1 = true ∧ fl.testBit 2 = true) ∨ fl.testBit 5 = true →
        slotRound v f m = (f.nan, false)) ∧
      (fl.testBit 0 = false → fl.testBit 5 = false →
        (fl.testBit 1 = true → fl.testBit 2 = false → slotRound v f m = (f.encInf false, false)) ∧
        (fl.testBit 1 = false → fl.testBit 2 = true → slotRound v f m = (f.encInf true, false)) ∧
        (fl.testBit 1 = false → fl.testBit 2 = false →
          slotRound v f m = (f.round m false ((slotN v : ℚ) / 2 ^ 160), false))))

/-- 04 R63: the six floating-point formats: the value of each encoding, the largest finite one and the canonical NaN. -/
def Says.FormatValues : Prop :=
  ∀ (f : FFmt) (eb fb bias max nan : Nat),
    (f, eb, fb, bias, max, nan) ∈ [(FFmt.f64, 11, 52, 1023, 0x7FEFFFFFFFFFFFFF, 0x7FF8000000000000),
      (.f32, 8, 23, 127, 0x7F7FFFFF, 0x7FC00000), (.f16, 5, 10, 15, 0x7BFF, 0x7E00), (.bf16, 8, 7, 127, 0x7F7F, 0x7FC0),
      (.fp8, 4, 3, 7, 0x7E, 0x7F), (.e5m2, 5, 2, 15, 0x7B, 0x7E)] →
    f.maxFinite = max ∧ f.nan = nan ∧ f.signBit true = 2 ^ (eb + fb) ∧ f.signBit false = 0 ∧
    f.encInf false = (if f = .fp8 then max else (2 ^ eb - 1) * 2 ^ fb) ∧ f.encInf true = 2 ^ (eb + fb) + f.encInf false ∧
    ∀ (neg : Bool) (e frac : Nat), e < 2 ^ eb → frac < 2 ^ fb →
      let x := f.decode (f.signBit neg + e * 2 ^ fb + frac)
      (e = 0 → x = .fin neg (frac * (2 : ℚ) ^ (1 - (bias : Int) - fb))) ∧
      (0 < e → e < 2 ^ eb - 1 ∨ (f = .fp8 ∧ frac ≠ 7) → x = .fin neg ((2 ^ fb + frac) * (2 : ℚ) ^ ((e : Int) - bias - fb))) ∧
      (e = 2 ^ eb - 1 → f ≠ .fp8 → x = if frac = 0 then .inf neg else .nan) ∧
      (e = 2 ^ eb - 1 → f = .fp8 → frac = 7 → x = .nan)

/-- 04 R64, R66: one rounding: a magnitude between two neighbours of the format goes to the one its mode names, the nearest and of two equally
near the even one under RNE; past the largest finite value it becomes that or an infinity, in E4M3 always that. -/
def Says.RoundedOnce : Prop :=
  ∀ (f : FFmt) (k : Nat) (q : ℚ) (z : Bool) (m : RMode), f ∈ [FFmt.f64, .f32, .f16, .bf16, .fp8, .e5m2] →
    let val := fun n => (f.decode n).rat
    let top := f.maxFinite
    let past := f.encInf false
    let minus := f.signBit true
    f.round m z 0 = f.signBit z ∧
    (k < top → 0 < q → val k ≤ q → q < val (k + 1) →
      let up := if q = val k then k else k + 1
      let near := if 2 * q < val k + val (k + 1) ∨ (2 * q = val k + val (k + 1) ∧ k % 2 = 0) then k else k + 1
      f.round .rtz z q = k ∧ f.round .rdn z q = k ∧ f.round .rup z q = up ∧ f.round .rne z q = near ∧
      f.round .rtz z (-q) = minus + k ∧ f.round .rup z (-q) = minus + k ∧ f.round .rdn z (-q) = minus + up ∧
      f.round .rne z (-q) = minus + near) ∧
    (val top ≤ q →
      let up := if q = val top then top else past
      let near := if 2 * q < 3 * val top - val (top - 1) then top else past
      (f ≠ .fp8 → f.round .rtz z q = top ∧ f.round .rdn z q = top ∧ f.round .rup z q = up ∧ f.round .rne z q = near ∧
        f.round .rtz z (-q) = minus + top ∧ f.round .rup z (-q) = minus + top ∧ f.round .rdn z (-q) = minus + up ∧
        f.round .rne z (-q) = minus + near) ∧
      (f = .fp8 → f.round m z q = top ∧ f.round m z (-q) = minus + top))

/-- 04 R64, 06 R119: sums, differences, products, quotients and fused products: the exact result rounded once; the signs of exact zeros, the
infinities, and the invalid operations, whose result is the canonical NaN. -/
def Says.FloatResults : Prop :=
  ∀ (f : FFmt) (m : RMode) (x y w : Nat), f ∈ [FFmt.f64, .f32, .f16, .bf16] →
    let d := f.decode
    let once := fun (q : ℚ) (zero : Bool) => if q = 0 then f.signBit zero else f.round m false q
    (d x = .nan ∨ d y = .nan →
      f.add m x y = f.nan ∧ f.sub m x y = f.nan ∧ f.mul m x y = f.nan ∧ f.div m x y = f.nan ∧ f.fma m x y w = f.nan) ∧
    (d w = .nan → f.fma m x y w = f.nan) ∧
    (∀ a p b q, d x = .fin a p → d y = .fin b q →
      let u := (d x).rat
      let v := (d y).rat
      f.add m x y = once (u + v) ((a && b) || (m == .rdn && a != b)) ∧
      f.sub m x y = once (u - v) ((a && !b) || (m == .rdn && a == b)) ∧ f.mul m x y = once (u * v) (a != b) ∧
      (q ≠ 0 → f.div m x y = once (u / v) (a != b)) ∧ (q = 0 → p ≠ 0 → f.div m x y = f.encInf (a != b)) ∧
      (q = 0 → p = 0 → f.div m x y = f.nan) ∧
      (∀ c r, d w = .fin c r →
        f.fma m x y w = once (u * v + (d w).rat) (((a != b) && c) || (m == .rdn && (a != b) != c))) ∧
      ∀ c, d w = .inf c → f.fma m x y w = f.encInf c) ∧
    (∀ a b, d x = .inf a → d y = .inf b →
      f.add m x y = (if a = b then f.encInf a else f.nan) ∧ f.sub m x y = (if a = b then f.nan else f.encInf a) ∧
      f.mul m x y = f.encInf (a != b) ∧ f.div m x y = f.nan) ∧
    (∀ a b q, d x = .inf a → d y = .fin b q →
      f.add m x y = f.encInf a ∧ f.sub m x y = f.encInf a ∧ f.mul m x y = (if q = 0 then f.nan else f.encInf (a != b)) ∧
      f.div m x y = f.encInf (a != b)) ∧
    (∀ a p b, d x = .fin a p → d y = .inf b →
      f.add m x y = f.encInf b ∧ f.sub m x y = f.encInf (!b) ∧ f.mul m x y = (if p = 0 then f.nan else f.encInf (a != b)) ∧
      f.div m x y = f.signBit (a != b)) ∧
    ((d x).isInf = true ∨ (d y).isInf = true → d x ≠ .nan → d y ≠ .nan →
      let a := (d x).isNeg != (d y).isNeg
      ((d x).isZero = true ∨ (d y).isZero = true → f.fma m x y w = f.nan) ∧
      ((d x).isZero = false → (d y).isZero = false →
        (∀ c, d w = .inf c → f.fma m x y w = if c = a then f.encInf a else f.nan) ∧
        ∀ c r, d w = .fin c r → f.fma m x y w = f.encInf a))

/-- 04 R64, 06 R119: square roots: below zero invalid, else the exact root rounded once. That the root of -0 is +0 is log 17's reading. -/
def Says.Roots : Prop :=
  ∀ (f : FFmt) (m : RMode) (x : Nat), f ∈ [FFmt.f64, .f32, .f16, .bf16] →
    let val := fun n => (f.decode n).rat
    (f.decode x = .nan ∨ f.decode x = .inf true → f.sqrt m x = f.nan) ∧ (f.decode x = .inf false → f.sqrt m x = f.encInf false) ∧
    ∀ a p, f.decode x = .fin a p → (p = 0 → f.sqrt m x = 0) ∧ (p ≠ 0 → a = true → f.sqrt m x = f.nan) ∧
      ∀ k, p ≠ 0 → a = false → k < f.maxFinite → val k * val k ≤ p → p < val (k + 1) * val (k + 1) →
        let mid := val k + val (k + 1)
        f.sqrt .rtz x = k ∧ f.sqrt .rdn x = k ∧ f.sqrt .rup x = (if val k * val k = p then k else k + 1) ∧
        f.sqrt .rne x = if 4 * p < mid * mid ∨ (4 * p = mid * mid ∧ k % 2 = 0) then k else k + 1

/-- 04 R67, 06 R122, 07 R146: conversions between floating-point and integer formats: rounded once, saturated, a NaN canonical or 0; from
integer to integer the value saturated to the target's range. That an exact
zero is +0 but for a wider target, which keeps it, is log 17's reading. -/
def Says.NumberConversions : Prop :=
  ∀ (f t : FFmt) (m : RMode) (x w : Nat) (signed : Bool), f ∈ [FFmt.f64, .f32, .f16, .bf16, .fp8, .e5m2] →
    t ∈ [FFmt.f64, .f32, .f16, .bf16, .fp8, .e5m2] → w ∈ [8, 16, 32, 64] →
    let lo : Int := if signed then -(2 ^ (w - 1) : Int) else 0
    let hi : Int := if signed then 2 ^ (w - 1) - 1 else 2 ^ w - 1
    let pattern : Int → Nat := fun n => ((max lo (min hi n)) % 2 ^ w).toNat
    let toFloat := convertElem m (.float f) (.float t) x
    let toInt := fun m => convertElem m (.float f) (.int signed w) x
    (f.decode x = .nan → toFloat = t.nan ∧ toInt m = 0) ∧
    (∀ a, f.decode x = .inf a → toFloat = t.encInf a ∧ toInt m = pattern (if a then lo else hi)) ∧
    (∀ a p, f.decode x = .fin a p →
      let q := (f.decode x).rat
      toFloat = (if p ≠ 0 then t.round m false q else if f.width < t.width then t.signBit a else 0) ∧
      ∀ n : Int, n ≤ q → q < n + 1 →
        toInt .rdn = pattern n ∧ toInt .rup = pattern (if q = n then n else n + 1) ∧
        toInt .rtz = pattern (if q = n ∨ 0 ≤ q then n else n + 1) ∧
        toInt .rne = pattern (if 2 * q < 2 * n + 1 ∨ (2 * q = 2 * n + 1 ∧ n % 2 = 0) then n else n + 1)) ∧
    (x < 2 ^ w → convertElem m (.int signed w) (.float t) x =
      t.round m false (((if signed ∧ 2 ^ (w - 1) ≤ x then (x : Int) - 2 ^ w else x) : Int) : ℚ)) ∧
    (∀ (sg : Bool) (v : Nat), v ∈ [8, 16, 32, 64] → x < 2 ^ v → convertElem m (.int sg v) (.int signed w) x =
      pattern (if sg ∧ 2 ^ (v - 1) ≤ x then (x : Int) - 2 ^ v else x))

/-- 04 R70, R72, 06 R122: the magnitudes of l6 in their order, step n being that of q = n - 16, and the conversions from it and to it. -/
def Says.L6Conversions : Prop :=
  ∀ (f t : FFmt) (m : RMode) (x code : Nat), f ∈ [FFmt.f32, .f16] → t ∈ [FFmt.f64, .f32, .f16, .bf16, .fp8, .e5m2] →
    let table : List Nat := [0x3F800000, 0x3F9837F0, 0x3FB504F3, 0x3FD744FD]
    let step : Nat → ℚ := fun n => if n = 0 then 0 else
      (FFmt.f32.decode ((table[n % 4]?).getD 0)).rat * (2 : ℚ) ^ (((n : Int) - 16) / 4)
    let toL6 := fun m => convertElem m (.float f) .l6 x
    let coded := fun (neg : Bool) (n : Nat) => if n = 0 then 0x10 else (if neg then 32 else 0) + (n + 16) % 32
    (code < 64 → code % 32 ≠ 16 → convertElem m .l6 (.float t) code =
      t.round m false (if code < 32 then step ((code + 16) % 32) else - step ((code + 16) % 32))) ∧
    convertElem m .l6 (.float t) 0x10 = 0 ∧ convertElem m .l6 (.float t) 0x30 = t.nan ∧
    (f.decode x = .nan → toL6 m = 0x30) ∧ (∀ a, f.decode x = .inf a → toL6 m = coded a 31) ∧
    ∀ a p, f.decode x = .fin a p → (step 31 ≤ p → toL6 m = coded a 31) ∧
      ∀ n, n < 31 → step n ≤ p → p < step (n + 1) →
        toL6 .rtz = coded a n ∧ toL6 .rup = coded a (if p = step n ∨ a = true then n else n + 1) ∧
        toL6 .rdn = coded a (if p = step n ∨ a = false then n else n + 1) ∧
        toL6 .rne = coded a (if 2 * p < step n + step (n + 1) ∨ (2 * p = step n + step (n + 1) ∧ n % 2 = 0) then n else n + 1)

/-- 04 R64, 06 R119, R120, R121, 07 R143, in every format: the lesser and the greater of two values, -0 being less than +0, a NaN
giving the canonical NaN; the comparisons, in which the zeros are equal and with a NaN only `ne` holds; the absolute value; the class
masks. -/
def Says.FloatOrders : Prop :=
  ∀ (f : FFmt) (x y : Nat), f ∈ [FFmt.f64, .f32, .f16, .bf16] →
    let d := f.decode
    let picks := fun (lt gt : Bool) => f.min x y = (if gt then y else x) ∧ f.max x y = (if lt then y else x)
    let ranks := fun (lt gt : Bool) => f.cmp 0 x y = (!lt && !gt) ∧ f.cmp 1 x y = (lt || gt) ∧ f.cmp 2 x y = lt ∧
      f.cmp 3 x y = !lt ∧ f.cmp 4 x y = !gt ∧ f.cmp 5 x y = gt
    (d x = .nan ∨ d y = .nan → f.min x y = f.nan ∧ f.max x y = f.nan ∧ ∀ cc < 6, f.cmp cc x y = decide (cc = 1)) ∧
    (∀ a p b q, d x = .fin a p → d y = .fin b q →
      let u := (d x).rat
      let v := (d y).rat
      ranks (decide (u < v)) (decide (v < u)) ∧
      picks (decide (u < v ∨ (u = v ∧ a = true ∧ b = false))) (decide (v < u ∨ (u = v ∧ a = false ∧ b = true)))) ∧
    (∀ a b, d x = .inf a → d y = .inf b → ranks (a && !b) (b && !a) ∧ picks (a && !b) (b && !a)) ∧
    (∀ a b q, d x = .inf a → d y = .fin b q → ranks a (!a) ∧ picks a (!a)) ∧
    (∀ a p b, d x = .fin a p → d y = .inf b → ranks (!b) b ∧ picks (!b) b) ∧
    (d x = .nan → f.abs x = f.nan) ∧
    (∀ (neg : Bool) (e frac : Nat), e < 2 ^ f.ebits → frac < 2 ^ f.fbits →
      let r := e * 2 ^ f.fbits + frac
      let w := f.signBit neg + r
      let top := 2 ^ f.ebits - 1
      (d w ≠ .nan → f.abs w = r) ∧
      f.classify w = (if e = top then (if frac = 0 then (if neg then 1 else 128) else if frac < 2 ^ (f.fbits - 1) then 256 else 512)
        else if e = 0 then (if frac = 0 then (if neg then 8 else 16) else if neg then 4 else 32) else if neg then 2 else 64))

/-- 07 R144: 1/√x rounded once to min(12, precision) significant bits: of two neighbours k and k + step among the numbers with so
many, the one that the mode names. -/
def Says.ReciprocalRoots : Prop :=
  ∀ (f : FFmt) (m : RMode) (x : Nat), f ∈ [FFmt.f64, .f32, .f16, .bf16] →
    let val := fun n => (f.decode n).rat
    let step := 2 ^ (f.fbits + 1 - min 12 (f.fbits + 1))
    (f.decode x = .nan ∨ f.decode x = .inf true → f.rsqrt m x = f.nan) ∧ (f.decode x = .inf false → f.rsqrt m x = 0) ∧
    ∀ a p, f.decode x = .fin a p → (p = 0 → f.rsqrt m x = f.encInf a) ∧ (p ≠ 0 → a = true → f.rsqrt m x = f.nan) ∧
      ∀ k, p ≠ 0 → a = false → k + step ≤ f.maxFinite → k % step = 0 → val k * val k * p ≤ 1 →
        1 < val (k + step) * val (k + step) * p →
        let mid := val k + val (k + step)
        f.rsqrt .rtz x = k ∧ f.rsqrt .rdn x = k ∧ f.rsqrt .rup x = (if val k * val k * p = 1 then k else k + step) ∧
        f.rsqrt .rne x = if 4 < mid * mid * p ∨ (4 = mid * mid * p ∧ k / step % 2 = 0) then k else k + step

/-- What the floating-point and conversion instructions compute is exact but for one rounding. -/
def Says.Arithmetic : Prop :=
  Says.FormatValues ∧ Says.RoundedOnce ∧ Says.FloatResults ∧ Says.Roots ∧ Says.FloatOrders ∧ Says.ReciprocalRoots ∧
  Says.NumberConversions ∧ Says.L6Conversions

/-- An exact addition is exact, sums commute, and a slot is rounded once; what one rounding delivers in each format, and with it every sum,
product, quotient, root, reciprocal root, minimum, maximum, comparison, class and conversion. -/
def Obligations.ExactSums : Prop := Says.ExactAddition ∧ Says.ExactSumsCommute ∧ Says.SlotRounding ∧ Says.Arithmetic

/-! ### Fences, waits, special registers -/

/-- 06 R118, 01 R15, R130, R131, R132, 05 R101: `pause`, the fences and `waitc`; each waits exactly while its condition fails; a pause
has at most S[a] + 64 core cycles to go, the count that the model holds for it, and none with S[a] = 0 (the model's choice, log 8). The
fences wait for the strand's atomics, whose order among its accesses the model gives so (log 5). After a release later stores merge with
no unit that is buffered now. -/
def Obligations.FencesAndWaits : Prop :=
  ∀ (s : State) (a : SReg) (sc : BitVec 2) (l st : BitVec 6) (c m : BitVec 5),
    let waits := s.onMe (fun t => { t with wait := .stalled })
    (s.acts .none 0 [a] = true → s.clean [a] = true →
      exec (.pause a) s = .next (s.onMe (fun t =>
        { t with wait := if t.rd a = 0 then .no else .paused ((t.rd a).toNat + 64) })).retire) ∧
    (s.acts .none 0 [] = true →
      exec (.fenceAcq sc) s = .next (if s.homeBusy s.cur then waits
        else (if sc = 0 then s else s.dropL1 (coreOf s.cur)).retire) ∧
      let closes := fun (u : State) => u.onMe (fun t => { t with closed := t.buf.length })
      exec (.fenceRel sc) s =
        .next (if s.putsOut s.cur || s.me.spadOut != [] || s.homeBusy s.cur then waits else (closes s).retire) ∧
      exec (.fenceAr sc) s = .next (if s.putsOut s.cur || s.me.spadOut != [] || s.homeBusy s.cur then waits
        else (closes (if sc = 0 then s else s.dropL1 (coreOf s.cur))).retire) ∧
      exec .fenceP s = .next (if s.putsOut s.cur then waits else s.retire) ∧
      exec (.waitc l st c m) s = .next (if s.loadsOut s.cur ≤ l.toNat ∧ s.storesOut s.cur ≤ st.toNat ∧
        s.copiesOut s.cur ≤ c.toNat ∧ s.matrixOut s.cur ≤ m.toNat then s.retire else waits))

/-- 02 R19, 06 R133, 19 R279, 20 R294, R301, R309, 21 R311, 22 R327, 05 R92, 01 R5: `srd` completes for every selector that the mode
admits, with the register the selector names, and nothing else changes; a supervisor selector in user mode takes the privilege
trap. A write-only register reads 0. -/
def Obligations.SpecialReads : Prop :=
  ∀ (s : State) (g : Guard) (d : SReg) (sel : BitVec 11), s.acts .none g [d] = true →
    (sel.toNat < 0x400 ∨ s.me.super = true → exec (.srd g d sel) s = .next (s.result d (s.readSel sel.toNat) false)) ∧
    (0x400 ≤ sel.toNat → s.me.super = false → Traps (.srd g d sel) s 2 0) ∧
    let die := s.die (dieOf s.cur)
    let tile := s.tile (tileOf s.cur)
    let core := s.core (coreOf s.cur)
    let top := fun (n : Nat) => BitVec.ofNat 64 (min n (2 ^ 64 - 1))
    s.readSel 0 = s.me.sts ∧ s.readSel 1 = s.me.pfxr ∧ s.readSel 0x014 = BitVec.ofNat 64 (s.cur % 16) ∧
    s.readSel 0x030 = BitVec.ofNat 64 s.me.cycles ∧ s.readSel 0x031 = BitVec.ofNat 64 s.meshTime ∧
    s.readSel 0x400 = s.me.epc ∧ s.readSel 0x401 = s.me.ecause ∧ s.readSel 0x402 = s.me.edetail ∧
    s.readSel 0x403 = s.me.ests ∧ s.readSel 0x405 = s.me.kscratch ∧ s.readSel 0x409 = s.me.svsts ∧
    s.readSel 0x410 = s.me.stackbase ∧ s.readSel 0x424 = s.me.regstat ∧
    (∀ r, s.region s.me.rid = some r → s.readSel 0x011 = BitVec.ofNat 64 r.tiles.length ∧
      s.readSel 0x012 = BitVec.ofNat 64 (r.rectH % 65536 * 65536 + r.rectW % 65536) ∧
      s.readSel 0x015 = r.kphase.zeroExtend 64 ∧ s.readSel 0x408 = r.block ∧
      (∀ n, r.tiles[n]? = some (tileOf s.cur) → (∀ m < n, r.tiles[m]? ≠ some (tileOf s.cur)) →
        s.readSel 0x010 = BitVec.ofNat 64 n ∧ ∀ y x, r.posns[n]? = some (y, x) → s.readSel 0x013 = BitVec.ofNat 64 (y * 65536 + x))) ∧
    (∀ r p, s.region s.me.rid = some r → s.partition r.pid = some p →
      s.readSel 0x430 = p.ptroot ∧ s.readSel 0x431 = p.prqbase ∧
      s.readSel 0x450 = BitVec.ofNat 64 (p.kcount % 512 * 2 ^ 41 + p.kbase % 512 * 2 ^ 32 + r.pid % 16 * 2 ^ 28 +
        (p.dies.map (2 ^ ·)).sum * 2 ^ 16 + p.ports.toNat)) ∧
    s.readSel 0x020 = BitVec.ofNat 64 s.me.smiss ∧ s.readSel 0x440 = top die.cecount ∧ s.readSel 0x441 = top die.uecount ∧
    s.readSel 0x442 = die.lastue ∧ s.readSel 0x462 = top core.terr ∧ s.readSel 0x463 = top tile.wheld ∧
    s.readSel 0x461 = BitVec.ofNat 64 (min core.freq (if s.sprinting (coreOf s.cur) then 2100 else s.config.coreLimit) % 65536 * 2 ^ 32 +
      tile.temp.toNat * 2 ^ 24 + (s.sprinting (coreOf s.cur)).toNat * 4 + tile.overi.toNat * 2 + tile.hot.toNat) ∧
    (∀ w ∈ [0x406, 0x420, 0x421, 0x422, 0x423], s.readSel w = 0)

/-! ### Vector registers -/

/-- V[d] is written under the guard; with no byte enabled nothing happens (05 R99). -/
def vecResult (s : State) (g : Guard) (d : VReg) (x : Vec) (marks : BitVec 8) : State :=
  if s.me.guardBytes g = 0 then s.retire else s.resultV d g x marks

/-- 04 R68, 07 R135, R136, 01 R10: the elements of a result; a write changes the enabled bytes and no others, and marks the
units it touches. -/
def Obligations.VectorWrites : Prop :=
  ∀ (t : Strand) (d r : VReg) (x : Vec) (en : BitVec 64) (m : BitVec 8) (f : Nat → Nat),
    (∀ n ∈ [1, 2, 4, 8], ∀ i < 64 / n, elemOf (mapElems n f) n i = f i % 2 ^ (8 * n)) ∧
    (∀ j < 64, byteAt ((t.wrVBytes d x en m).rdV d) j = if en.getLsbD j then byteAt x j else byteAt (t.rdV d) j) ∧
    (∀ u < 8, bitOf ((t.wrVBytes d x en m).markV d) u =
      if fld en (8 * u) 8 = 0 then bitOf (t.markV d) u
      else if fld en (8 * u) 8 = 255 then bitOf m u else (bitOf (t.markV d) u || bitOf m u)) ∧
    (r ≠ d → (t.wrVBytes d x en m).rdV r = t.rdV r ∧ (t.wrVBytes d x en m).markV r = t.markV r) ∧
    { t.wrVBytes d x en m with v := t.v, vMark := t.vMark } = t

/-- 07 R141: every element-wise integer operation, on elements of 8 × size bits, under the guard. -/
def Obligations.VectorInteger : Prop :=
  ∀ (s : State) (g : Guard) (d a b : VReg) (w : BitVec 2), s.actsB .none g [] [d, a, b] = true →
    let n := 2 ^ w.toNat
    let W := 8 * n
    let ops : List (Instr × (BitVec W → BitVec W → BitVec W)) :=
      [(.vaddInt g d a b w, fun x y => BitVec.ofNat W (x.toNat + y.toNat)),
       (.vsubInt g d a b w, fun x y => BitVec.ofInt W (x.toInt - y.toInt)),
       (.vmulInt g d a b w, fun x y => BitVec.ofNat W (x.toNat * y.toNat)),
       (.vmulh g d a b w, fun x y => BitVec.ofInt W (x.toInt * y.toInt / 2 ^ W)),
       (.vmulhz g d a b w, fun x y => BitVec.ofNat W (x.toNat * y.toNat / 2 ^ W)),
       (.vand g d a b w, fun x y => x &&& y), (.vor g d a b w, fun x y => x ||| y), (.vxor g d a b w, fun x y => x ^^^ y),
       (.vshl g d a b w, fun x y => x <<< (y.toNat % W)), (.vshr g d a b w, fun x y => x >>> (y.toNat % W)),
       (.vsra g d a b w, fun x y => x.sshiftRight (y.toNat % W)),
       (.vminInt g d a b w, fun x y => if x.toInt ≤ y.toInt then x else y),
       (.vmaxInt g d a b w, fun x y => if x.toInt ≤ y.toInt then y else x),
       (.vminz g d a b w, fun x y => if x.toNat ≤ y.toNat then x else y),
       (.vmaxz g d a b w, fun x y => if x.toNat ≤ y.toNat then y else x)]
    ∀ o ∈ ops, exec o.1 s = .next (vecResult s g d
      (mapElems n (fun i => (o.2 (BitVec.ofNat W (elemOf (s.me.rdV a) n i)) (BitVec.ofNat W (elemOf (s.me.rdV b) n i))).toNat))
      (s.me.markV a ||| s.me.markV b))

/-- 07 R143, R144: every element-wise floating-point operation, each live element as the scalar operation in its format and
the pending mode; `vfma` reads V[d] as its addend. -/
def Says.FloatElements : Prop :=
  ∀ (s : State) (g : Guard) (d a b : VReg) (t : BitVec 2), rmOnly s.me.pfxr = true →
    let f := fpType t
    let n := f.width / 8
    let rm := RMode.ofBits s.me.rm
    let x := fun i => elemOf (s.me.rdV a) n i
    let y := fun i => elemOf (s.me.rdV b) n i
    let z := fun i => elemOf (s.me.rdV d) n i
    let res : (Nat → Nat) → BitVec 8 → Host.Outcome State Fault Refusal := fun r m => .next (vecResult s g d (mapElems n r) m)
    let m := s.me.markV a ||| s.me.markV b
    (s.actsB .mode g [] [d, a, b] = true →
      exec (.vaddFp g d a b t) s = res (fun i => f.add rm (x i) (y i)) m ∧
      exec (.vsubFp g d a b t) s = res (fun i => f.sub rm (x i) (y i)) m ∧
      exec (.vmulFp g d a b t) s = res (fun i => f.mul rm (x i) (y i)) m ∧
      exec (.vdiv g d a b t) s = res (fun i => f.div rm (x i) (y i)) m ∧
      exec (.vminFp g d a b t) s = res (fun i => f.min (x i) (y i)) m ∧
      exec (.vmaxFp g d a b t) s = res (fun i => f.max (x i) (y i)) m ∧
      exec (.vfma g d a b t) s = res (fun i => f.fma rm (x i) (y i) (z i)) (m ||| s.me.markV d)) ∧
    (s.actsB .mode g [] [d, a] = true →
      exec (.vsqrt g d a t) s = res (fun i => f.sqrt rm (x i)) (s.me.markV a) ∧
      exec (.vfrsqe g d a t) s = res (fun i => f.rsqrt rm (x i)) (s.me.markV a) ∧
      exec (.vabs g d a t) s = res (fun i => f.abs (x i)) (s.me.markV a))

/-- 07 R144: the special inputs of `vfrsqe` and its example. -/
def Says.RootSamples : Prop :=
  FFmt.f32.rsqrt .rne 0x40000000 = 0x3F350000 ∧ FFmt.f32.rsqrt .rne 0 = 0x7F800000 ∧
  FFmt.f32.rsqrt .rne 0x80000000 = 0xFF800000 ∧ FFmt.f32.rsqrt .rne 0x7F800000 = 0 ∧
  FFmt.f32.rsqrt .rne 0xBF800000 = FFmt.f32.nan ∧ FFmt.f32.rsqrt .rne 0x7FC00000 = FFmt.f32.nan

/-- Each element-wise floating-point operation, vfma, vsqrt, vabs and vfrsqe computes every element and completes. -/
def Obligations.VectorFloat : Prop := Says.FloatElements ∧ Says.RootSamples

/-- 07 R142, R145, 06 R110: a vector compare writes the enabled bytes of P[d]: every byte of an element that it writes gets
the comparison's outcome; P[d] = p0 discards it. A marked live source element traps; where both sources have one, V[a] is the one
reported (the model's choice, log 65). -/
def Obligations.VectorCompares : Prop :=
  ∀ (s : State) (g : Guard) (d : PReg) (a b : VReg) (cc : BitVec 4) (fc : BitVec 3) (w t : BitVec 2),
    let en := s.me.guardBytes g
    let whole : Instr → Pfx → Nat → (Nat → Bool) → Prop := fun i px n holds =>
      s.actsB px g [] [a, b] = true → en ≠ 0 →
      ((∀ k < 64 / n, elemLive en n k = true → elemMark (s.me.markV a) n k = false ∧ elemMark (s.me.markV b) n k = false) →
        ∃ x : Word, (∀ k < 64 / n, ∀ j < n, x.getLsbD (n * k + j) = holds k) ∧
          exec i s = .next ((s.onMe (fun st => st.wrP d ((st.rdP d &&& ~~~ en) ||| (x &&& en))
            (if en = BitVec.allOnes 64 then false else st.markP d))).retire)) ∧
      ((∃ k < 64 / n, elemLive en n k = true ∧ elemMark (s.me.markV a) n k = true) →
        Traps i s 5 (BitVec.ofNat 64 (0x100 + a.toNat))) ∧
      ((∀ k < 64 / n, elemLive en n k = true → elemMark (s.me.markV a) n k = false) →
        (∃ k < 64 / n, elemLive en n k = true ∧ elemMark (s.me.markV b) n k = true) →
        Traps i s 5 (BitVec.ofNat 64 (0x100 + b.toNat)))
    (
      let n := 2 ^ w.toNat
      whole (.vcmpInt g d a b cc w) .none n (fun k => condHolds cc.toNat
        (BitVec.ofNat (8 * n) (elemOf (s.me.rdV a) n k)) (BitVec.ofNat (8 * n) (elemOf (s.me.rdV b) n k)))) ∧
    (rmOnly s.me.pfxr = true →
      let f := fpType t
      let n := f.width / 8
      whole (.vcmpFp g d a b fc t) .mode n (fun k =>
        f.cmp fc.toNat (elemOf (s.me.rdV a) n k) (elemOf (s.me.rdV b) n k)))

/-- 07 R146, 04 R73: `vcvt` converts as many elements as the wider format gives and writes 0 above, each as `convertElem` gives it (its
values, integer to integer among them, stand in ExactSums); c4 goes through the core's code table, which another region may not use. -/
def Obligations.VectorConversions : Prop :=
  ∀ (s : State) (g : Guard) (d a : VReg) (src tgt : BitVec 4), rmOnly s.me.pfxr = true →
    s.actsB .mode g [] [d, a] = true → s.me.guardBytes g ≠ 0 →
    let e := elemFmt src
    let o := elemFmt tgt
    let n := o.width / 8
    let cnt := 512 / max e.width o.width
    let core := s.core (coreOf s.cur)
    (e ≠ .c4 → ∃ m, exec (.vcvt g d a src tgt) s = .next (s.resultV d g (mapElems n (fun i => if i < cnt then
        convertElem (RMode.ofBits s.me.rm) e o (fld (s.me.rdV a) (e.width * i) e.width) else 0)) m) ∧
      (s.me.markV a = 0 → m = 0)) ∧
    (e = .c4 → core.tableOwner = some s.me.rid → ∃ m, exec (.vcvt g d a src tgt) s =
      .next (s.resultV d g (mapElems n (fun i => if i < cnt then fld core.table (8 * fld (s.me.rdV a) (4 * i) 4) 8 else 0)) m)) ∧
    (e = .c4 → core.tableOwner ≠ some s.me.rid → Traps (.vcvt g d a src tgt) s 0x23 0)

/-- 07 R147: movement between lanes. -/
def Obligations.VectorMovement : Prop :=
  ∀ (s : State) (g : Guard) (d a b : VReg) (sd sa sb : SReg) (p : PReg) (w : BitVec 2),
    let n := 2 ^ w.toNat
    let cnt := 64 / n
    let gives : Instr → (Vec → Prop) → Prop := fun i q => ∃ x m, exec i s = .next (vecResult s g d x m) ∧ q x
    (s.actsB .none g [] [d, a, b] = true → s.cleanP [p] = true → gives (.vsel g d a b p) (fun x => ∀ j < 64,
      byteAt x j = if (s.me.rdP p).getLsbD j then byteAt (s.me.rdV a) j else byteAt (s.me.rdV b) j)) ∧
    (s.actsB .none g [sa] [d] = true → gives (.vbcast g d sa w) (fun x => ∀ i < cnt,
      elemOf x n i = (s.me.rd sa).toNat % 2 ^ (8 * n))) ∧
    (s.actsB .none g [] [d, a, b] = true → gives (.vperm g d a b w) (fun x => ∀ i < cnt,
      elemOf x n i = if elemOf (s.me.rdV b) n i < cnt then elemOf (s.me.rdV a) n (elemOf (s.me.rdV b) n i) else 0)) ∧
    (s.actsB .none g [sb] [d, a] = true → s.clean [sb] = true → gives (.vslide g d a sb w) (fun x => ∀ i < cnt,
      let k : Int := i + (s.me.rd sb).toInt
      elemOf x n i = if 0 ≤ k ∧ k < cnt then elemOf (s.me.rdV a) n k.toNat else 0)) ∧
    (s.actsV .none g [sd, sb] [a] [] = true → s.clean [sb] = true →
      let k := (s.me.rd sb).toNat
      exec (.vext g sd a sb w) s = .next (if k < cnt then
        s.result sd (BitVec.ofNat 64 (elemOf (s.me.rdV a) n k)) (elemMark (s.me.markV a) n k) else s.result sd 0 false)) ∧
    (s.actsB .none g [sa, sb] [d] = true → s.clean [sb] = true → s.me.guardBytes g ≠ 0 →
      ∃ st, exec (.vins g d sa sb w) s = .next (s.setStrand s.cur st).retire ∧
        (cnt ≤ (s.me.rd sb).toNat → st = s.me) ∧
        (∀ i < cnt, s.me.guardBytes g = BitVec.allOnes 64 → elemOf (st.rdV d) n i =
          if i = (s.me.rd sb).toNat then (s.me.rd sa).toNat % 2 ^ (8 * n) else elemOf (s.me.rdV d) n i))

/-- 07 R148: a reduction combines the selected elements. The integer operations give what any order gives; the
floating-point ones follow the fixed tree, each node rounded; without an element selected the identity. -/
def Says.ElementSums : Prop :=
  ∀ (s : State) (g : Guard) (d : SReg) (a : VReg) (p : PReg) (op : BitVec 3) (fo w t : BitVec 2),
    s.actsV .none g [d] [a] [] = true → s.cleanP [p] = true →
    (
      let n := 2 ^ w.toNat
      let W := 8 * n
      let l := (selected s.me a p n).filterMap id
      let x := (l.map (BitVec.ofNat W)).foldl (redComb W op.toNat) (redIdentity W op.toNat)
      exec (.vredInt g d a p op w) s = .next (s.result d
        (if op = 3 ∨ op = 4 then x.zeroExtend 64 else x.signExtend 64) (selectedMark s.me a p n (64 / n)))) ∧
    (fo.toNat < 3 →
      let f := fpType t
      let n := f.width / 8
      let comb := if fo = 0 then f.add .rne else if fo = 1 then f.min else f.max
      let none := if fo = 0 then 0 else f.encInf (fo == 2)
      exec (.vredFp g d a p fo t) s = .next (s.result d
        (BitVec.ofNat 64 ((treeReduce comb 6 (selected s.me a p n)).getD none)) (selectedMark s.me a p n (64 / n))))

/-- 07 R148, R141: what each integer operation combines, and its identity; op codes 0 to 7 are add, min, max, minz, maxz, and, or, xor. -/
def Says.ReductionOps : Prop :=
  ∀ (W : Nat) (x y : BitVec W), W ∈ [8, 16, 32, 64] →
    (redComb W 0 x y).toNat = (x.toNat + y.toNat) % 2 ^ W ∧
    redComb W 1 x y = (if x.toInt ≤ y.toInt then x else y) ∧ redComb W 2 x y = (if x.toInt ≤ y.toInt then y else x) ∧
    redComb W 3 x y = (if x.toNat ≤ y.toNat then x else y) ∧ redComb W 4 x y = (if x.toNat ≤ y.toNat then y else x) ∧
    redComb W 5 x y = x &&& y ∧ redComb W 6 x y = x ||| y ∧ redComb W 7 x y = x ^^^ y ∧
    (∀ op ∈ [0, 4, 6, 7], redIdentity W op = 0) ∧ (∀ op ∈ [3, 5], redIdentity W op = BitVec.allOnes W) ∧
    (redIdentity W 1).toInt = 2 ^ (W - 1) - 1 ∧ (redIdentity W 2).toInt = -2 ^ (W - 1)

/-- 07 R148: the tree pairs neighbours at each level, and one without a partner goes up unchanged. -/
def Says.ReductionTree : Prop :=
  ∀ (f : Nat → Nat → Nat) (a b c d : Nat),
    treeReduce f 6 [some a, some b, some c, some d] = some (f (f a b) (f c d)) ∧
    treeReduce f 6 [some a, none, some c, some d] = some (f a (f c d)) ∧
    treeReduce f 6 [none, none, some c, none] = some c ∧
    treeReduce f 6 [none, none, none, none] = none ∧
    treeReduce (FFmt.f32.add .rne) 6 ([some 0x4B800000, some 0, some 0x3F800000, some 0x3F800000] ++
      List.replicate 12 (some 0)) = some 0x4B800001

/-- Reductions combine the selected elements by their operation, in the order of their tree, and write S[d]. -/
def Obligations.Reductions : Prop := Says.ElementSums ∧ Says.ReductionOps ∧ Says.ReductionTree

/-- 07 R149: `vscan` writes running sums of the selected elements; `vcompact` packs the selected elements downward, zeros
above. -/
def Says.Scans : Prop :=
  ∀ (s : State) (g : Guard) (d a : VReg) (p : PReg) (w : BitVec 2), s.actsB .none g [] [d, a] = true → s.cleanP [p] = true →
    let n := 2 ^ w.toNat
    let cnt := 64 / n
    let on := fun i => elemSelected (s.me.rdP p) n i
    (∃ x m, exec (.vscan g d a p w) s = .next (vecResult s g d x m) ∧ ∀ i < cnt,
      elemOf x n i = (((List.range (i + 1)).filter on).map (elemOf (s.me.rdV a) n)).sum % 2 ^ (8 * n)) ∧
    (∃ x m, exec (.vcompact g d a p w) s = .next (vecResult s g d x m) ∧ ∀ i < cnt,
      elemOf x n i = ((((List.range cnt).filter on).map (elemOf (s.me.rdV a) n))[i]?).getD 0)

/-- 07 R150: each 32-bit lane adds its products; the integer form modulo 2^32, the floating-point forms exactly with one
rounding. -/
def Says.DotProducts : Prop :=
  ∀ (s : State) (g : Guard) (d a b : VReg), s.actsB .none g [] [d, a, b] = true →
    let gives : Instr → (Nat → Nat) → Prop := fun i lane =>
      exec i s = .next (vecResult s g d (mapElems 4 lane) (s.me.markV a ||| s.me.markV b ||| s.me.markV d))
    let c := fun j => elemOf (s.me.rdV d) 4 j
    let prods := fun n j => (List.range (4 / n)).map (fun k =>
      (elemOf (s.me.rdV a) n (4 / n * j + k), elemOf (s.me.rdV b) n (4 / n * j + k)))
    let float : FFmt → Nat → Nat → Nat := fun f n j => FFmt.f32.ofVal .rne
      (sumVals (FFmt.f32.decode (c j) :: (prods n j).map (fun x => (f.decode x.1).mul (f.decode x.2))))
    gives (.vdotI8 g d a b) (fun j => (BitVec.ofInt 32 ((c j : Int) +
      ((prods 1 j).map (fun x => (BitVec.ofNat 8 x.1).toInt * (BitVec.ofNat 8 x.2).toInt)).sum)).toNat) ∧
    gives (.vdotF16 g d a b) (float .f16 2) ∧ gives (.vdotBf16 g d a b) (float .bf16 2) ∧
    gives (.vdotE4m3 g d a b) (float .fp8 1)

/-- 04 R64, R74: the exact product of two values, and the exact sum of a list of them: a NaN, a product of 0 and an infinity, or
infinities of both signs give NaN; one infinity gives itself; an exact zero is -0 where every term is negative, else +0 (the sign of
an exact zero is the model's reading, log 27). -/
def Says.ExactTerms : Prop :=
  ∀ (a b : Bool) (p q : ℚ) (x : FVal) (l : List FVal),
    FVal.mul .nan x = .nan ∧ x.mul .nan = .nan ∧ (FVal.inf a).mul (.inf b) = .inf (a != b) ∧
    (FVal.inf a).mul (.fin b q) = (if q = 0 then .nan else .inf (a != b)) ∧
    (FVal.fin a p).mul (.inf b) = (if p = 0 then .nan else .inf (a != b)) ∧
    (FVal.fin a p).mul (.fin b q) = .fin (a != b) (p * q) ∧
    (.nan ∈ l ∨ (.inf true ∈ l ∧ .inf false ∈ l) → sumVals l = .nan) ∧
    (.nan ∉ l → .inf a ∈ l → .inf (!a) ∉ l → sumVals l = .inf a) ∧
    ((∀ y ∈ l, ∃ c r, y = .fin c r) →
      let t := (l.map FVal.rat).sum
      sumVals l = if t = 0 then .fin (l.all FVal.isNeg) 0 else .fin (decide (t < 0)) |t|)

/-- vscan, vcompact and the dot products give the elements their rules give; the exact products and sums that a dot product and a matrix output round once (the sign of an exact zero: log 27). -/
def Obligations.ScansAndPacks : Prop := Says.Scans ∧ Says.DotProducts ∧ Says.ExactTerms

/-! ### Vector memory -/

/-- 07 R137, R138, R139: vector loads and stores whose bytes can be reached complete: 64 bytes from the base, by elements
at a stride, or by elements at indices, all of which are checked before any is performed; only enabled bytes are performed, elements
in ascending order. A marked index of a live element traps. A `vstx` with elements in the scratchpad and elsewhere waits until no store
of the strand is outstanding and performs each element before the next (the model's way to that order, log 5). -/
def Says.VectorAccesses : Prop :=
  ∀ (s u v : State) (g : Guard) (d x : VReg) (a st : SReg) (k : BitVec 9) (w : BitVec 2) (bs : List (Byte × Bool))
    (key : Option Nat) (l : List (Nat × Byte × Bool)), s.clean [a, st] = true → s.hasRoom = true → s.me.guardBytes g ≠ 0 →
    let en := s.me.guardBytes g
    let n := 2 ^ w.toNat
    let base := s.me.rd a + k.signExtend 64 * 64
    let loaded := fun (u : State) l => (u.addLoad [.v d (gatherBytes l).1 (gatherBytes l).2.1 (gatherBytes l).2.2]).retire
    let strided := fun i => s.me.rd a + BitVec.ofNat 64 i * s.me.rd st
    let indexed := fun i => s.me.rd a + (BitVec.ofNat (8 * n) (elemOf (s.me.rdV x) n i)).signExtend 64 * BitVec.ofNat 64 n
    let trap := BitVec.ofNat 64 (0x100 + x.toNat)
    (s.actsB .load g [a] [d] = true →
      (s.reading base (enabledBytes en) .plain = .ok (u, bs, key) →
        exec (.vld g d a k) s = .next (loaded u ((enabledBytes en).zip bs))) ∧
      (s.reading base (enabledBytes en) .vol = .ok (u, bs, key) →
        exec (.vldVol g d a k) s = .next (loaded u ((enabledBytes en).zip bs)) ∧
        exec (.vldFg g d a k) s = .next (loaded u ((enabledBytes en).zip bs)))) ∧
    (s.actsB .none g [a] [d] = true → s.storing base (storeList s.me d 0 (enabledBytes en)) none = .ok u →
      exec (.vst g d a k) s = .next u.retire) ∧
    (s.actsB .load g [a, st] [d] = true → State.gathering en n (liveElems en n strided) s = .ok (u, l) →
      exec (.vlds g d a st w) s = .next (loaded u l)) ∧
    (s.actsB .load g [a] [d, x] = true →
      (indexMarked s.me en x n = false → State.checking .read en n (liveElems en n indexed) s.me.heldUnits s = .ok u →
        State.gathering en n (liveElems en n indexed) u = .ok (v, l) → exec (.vldx g d a x w) s = .next (loaded v l)) ∧
      (indexMarked s.me en x n = true → Traps (.vldx g d a x w) s 5 trap)) ∧
    (s.actsB .none g [a] [d, x] = true →
      (indexMarked s.me en x n = false → State.checking .write en n (liveElems en n indexed) s.me.heldUnits s = .ok u →
        let there := fun (y : Nat × Word) => ∃ o, (elemBytes en n y.1).head? = some o ∧
          0xFFFFFFF000000000 ≤ (y.2 + BitVec.ofNat 64 o).toNat ∧ (y.2 + BitVec.ofNat 64 o).toNat ≤ 0xFFFFFFF0000FFFFF
        ∀ mixed, (mixed = true ↔ (∃ y ∈ liveElems en n indexed, there y) ∧ ∃ y ∈ liveElems en n indexed, ¬ there y) →
          (mixed = true → 0 < u.storesOut u.cur → exec (.vstx g d a x w) s = .next (u.onMe (fun t => { t with wait := .stalled }))) ∧
          (mixed = false ∨ u.storesOut u.cur = 0 → State.scattering s.me.nextIssued d en n mixed (liveElems en n indexed) u = .ok v →
            exec (.vstx g d a x w) s = .next v.retire)) ∧
      (indexMarked s.me en x n = true → Traps (.vstx g d a x w) s 5 trap))

/-- 07 R139: the live elements in ascending order; each element of a scatter is a store of its own with the element's enabled bytes,
before the next one; in a `vstx` with elements in the scratchpad and elsewhere each is performed before the next (log 5). -/
def Says.ElementOrder : Prop :=
  ∀ (s : State) (label i : Nat) (d : VReg) (en : BitVec 64) (w : BitVec 2) (now : Bool) (a : Word) (r : List (Nat × Word))
    (f : Nat → Word),
    let n := 2 ^ w.toNat
    (liveElems en n f).Pairwise (fun x y => x.1 < y.1) ∧
    (∀ j x, (j, x) ∈ liveElems en n f ↔ x = f j ∧ j < 64 / n ∧ ∃ k < n, en.getLsbD (j * n + k) = true) ∧
    State.scattering label d en n now [] s = .ok s ∧
    (∀ e, s.storingAs label i a (storeList s.me d (i * n) (elemBytes en n i)) none = .error e →
      State.scattering label d en n now ((i, a) :: r) s = .error e) ∧
    (∀ u, s.storingAs label i a (storeList s.me d (i * n) (elemBytes en n i)) none = .ok u →
      State.scattering label d en n now ((i, a) :: r) s = State.scattering label d en n now r
        (if now = true ∧ (u.strand u.cur).restartable = false then (u.flushSpad u.cur).drain u.cur else u))

/-- 07 R137, R136: the register image of the bytes a vector load read: each enabled byte its byte, the others none, and the
units that received a byte of a poisoned unit. -/
def Says.RegisterImages : Prop :=
  ∀ (en : BitVec 64) (f : Nat → Byte × Bool),
    let r := gatherBytes ((enabledBytes en).zip ((enabledBytes en).map f))
    r.2.1 = en ∧ (∀ j < 64, byteAt r.1 j = if en.getLsbD j then (f j).1 else 0) ∧
    (∀ u < 8, bitOf r.2.2 u = (List.range 8).any (fun j => en.getLsbD (8 * u + j) && (f (8 * u + j)).2))

/-- Vector loads, stores, gathers and scatters access the enabled bytes or elements and complete; the images of registers. -/
def Obligations.VectorMemory : Prop := Says.VectorAccesses ∧ Says.ElementOrder ∧ Says.RegisterImages

/-! ### Tasks, messages, the deque, barriers -/

/-- 08 R156, R157, R151, 02 R22, R27: `spawn`, `spawnj` and `join`: the record is checked, a lane slot reserved and the join
list changed; a lane that is disabled or full gives a false predicate; the traps of a malformed record, a bad join pointer
and a full join list. -/
def Says.Spawns : Prop :=
  ∀ (s : State) (g : Guard) (pd : PReg) (a : SReg),
    let t := s.me
    let w0 := t.rd a
    let w2 := t.rd (a + 2)
    let k := recordTask w0 (t.rd (a + 1)) w2 (t.rd (a + 3)) (t.markS (a + 1)) false (t.markS (a + 3)) (tileOf s.cur)
    let words := bytesOf w0 8 ++ bytesOf (t.rd (a + 1)) 8 ++ bytesOf w2 8 ++ bytesOf (t.rd (a + 3)) 8
    (s.acts .none g [a, a + 1, a + 2, a + 3] = true →
      (malformed w0 = true → Traps (.spawn g pd a) s 0x10 0 ∧ Traps (.spawnj g pd a) s 0x10 0) ∧
      (malformed w0 = false → s.clean [a, a + 2] = true →
        (w2 ≠ 0 → joinOk w2 = false → Traps (.spawnj g pd a) s 0x11 w2) ∧
        (w2 ≠ 0 → joinOk w2 = true → joinFull t w2.toNat = true → Traps (.spawnj g pd a) s 0x12 w2) ∧
        (∀ r l, s.region t.rid = some r → r.lanes[k.lane]? = some l →
          let full := l.disabled || decide (2 ^ l.c ≤ l.queue.length + l.reserved)
          let u := s.setRegion t.rid { r with lanes := setAt r.lanes k.lane { l with reserved := l.reserved + 1 } }
          (exec (.spawn g pd a) s = .next (if full then s.resultP pd 0 false else (u.onMe (fun t =>
            { (t.wrP pd (BitVec.allOnes 64) false).log ([2] ++ words) with records := t.records ++ [(k, false)] })).retire)) ∧
          (w2 = 0 → exec (.spawnj g pd a) s = exec (.spawn g pd a) s) ∧
          (w2 ≠ 0 → joinOk w2 = true → joinFull t w2.toNat = false →
            exec (.spawnj g pd a) s = .next (if full then s.resultP pd 0 false else (u.onMe (fun t =>
              { (t.wrP pd (BitVec.allOnes 64) false).log ([3] ++ words) with
                records := t.records ++ [(k, true)], joins := addJoin t.joins w2.toNat 1 })).retire))))) ∧
    (s.acts .none g [a] = true → s.clean [a] = true →
      (w0 = 0 → exec (.join g a) s = .next s.retire) ∧
      (w0 ≠ 0 → joinOk w0 = false → Traps (.join g a) s 0x11 w0) ∧
      (w0 ≠ 0 → joinOk w0 = true → joinFull t w0.toNat = true → Traps (.join g a) s 0x12 w0) ∧
      (w0 ≠ 0 → joinOk w0 = true → joinFull t w0.toNat = false →
        exec (.join g a) s = .next (s.onMe (fun t =>
          { t.log ([4] ++ bytesOf w0 8) with joins := addJoin t.joins w0.toNat (-1) })).retire))

/-- 08 R151: the join list keeps one net count for each block; a new block takes a new place. -/
def Says.JoinLists : Prop :=
  ∀ (l : List (Nat × Int)) (b c : Nat) (n : Int), c ≠ b →
    (((addJoin l b n).filter (fun x => x.1 == b)).map Prod.snd).sum = ((l.filter (fun x => x.1 == b)).map Prod.snd).sum + n ∧
    (addJoin l b n).filter (fun x => x.1 == c) = l.filter (fun x => x.1 == c) ∧
    (addJoin l b n).length = l.length + (if l.any (fun x => x.1 == b) then 0 else 1)

/-- A record is checked, a lane slot reserved and the join list changed; a full or disabled lane gives a false predicate; malformed records, bad join pointers and a full list trap. -/
def Obligations.SpawnsAndJoins : Prop := Says.Spawns ∧ Says.JoinLists

/-- 08 R158, 02 R13, R28, 05 R100: `tend` waits while an operation or a token is outstanding, those of a `send` or `launch` whose token
field is 0 apart, then commits, once its join blocks translate, of
an entry that takes its counter to 0 the whole block; a task that has deferred nothing, spawned nothing and joined nothing makes its
buffered stores visible, is counted, and its strand falls idle. The first record of a launch notifies its own join block too: that it
does is read by inference from 02 R29 (log 51). -/
def Says.TaskEnds : Prop :=
  ∀ (s u v : State) (g : Guard) (m k : List (Nat × Xlat)), s.acts .none g [] = true →
    let t := s.me
    let c := s.cur
    let out := s.loadsOut c + s.storesOut c + s.copiesOut c + s.matrixOut c + s.tokensOut c
    let at' := fun (u : State) how l => u.xlats (.core (coreOf c)) (u.pidOfRegion t.rid) (some t.rid) t.super how l []
    (t.task.map Task.first ≠ some true → t.commitJoins = t.joins) ∧
    (∀ x, t.task = some x → x.first = true → ∀ b, x.regs[2]? = some b → b ≠ 0 → joinOk b = true →
      t.commitJoins = addJoin t.joins b.toNat (-1)) ∧
    (0 < out → exec (.tend g) s = .next (s.onMe (fun t => { t with wait := .stalled }))) ∧
    (out = 0 → t.dual = none →
      at' s .atomic ((t.commitJoins.filter (fun x => x.2 ≠ 0)).map Prod.fst) = (u, .ok m) →
      at' u .read ((t.commitJoins.filter (u.reachesZero m)).map (fun x => x.1 + 47)) = (v, .ok k) →
      exec (.tend g) s = .next (v.commit c)) ∧
    (out = 0 → t.dual = none → t.commitJoins = [] → t.records = [] → t.deferred = [] → t.task.bind Task.ticket = none →
      t.task.map Task.lastAct ≠ some true →
      let w := (((s.drain c).unreserve c).count t.rid 0).idle c
      exec (.tend g) s = .next w ∧ (w.strand c).task = none)

/-- 02 R28, 08 R151, R153, R158: the commit: buffered stores, the deferred operations in their order, the records into their lanes, each
with the slot that was reserved for it, then the join list, every increment before any decrement; the task is counted and its strand
falls idle. A step of a join counter writes it at its home; from 1 to 0 it makes the continuation ready, at 0 or below it raises the
underflow fault. -/
def Says.Commits : Prop :=
  ∀ (s u v : State) (sid rid mk n : Nat) (w : Stepper) (up : Bool) (block : Nat) (l : List (Nat × Int)) (x : Nat × Int) (k : Task)
    (r : Region) (y : Lane) (bs : List (Byte × Bool)) (keys : List Nat),
    (let t := s.strand sid
     let s1 := t.deferred.foldl (fun s d => s.perform sid d) ((s.drain sid).unreserve sid)
     let s2 := (t.records.map Prod.fst).foldl (fun s k => s.enqueue t.rid k none) s1
     let s3 := s2.applyJoins { agent := .core (coreOf sid), super := t.super, sid := sid, command := none } t.rid (tileOf sid) t.commitJoins
     let s4 := ((s3.noVerdict sid).count t.rid 0).idle sid
     s.commit sid = (if t.task.map Task.lastAct = some true then s4.kill t.rid else s4)) ∧
    (let own := (s.strand sid).rid
     (∀ h, s.perform sid (.arrive h) = s.arrive own h ∧ s.perform sid (.free h) = s.bfree own h) ∧
     (∀ h z, s.perform sid (.expect h z) = s.expect own h z.toInt) ∧ (∀ a b, s.perform sid (.verdict a b) = s.answer a b) ∧
     ∀ hi lo aux tag, s.perform sid (.push hi lo aux tag) = s.onTile (tileOf sid) (fun t =>
       { t with deque := t.deque ++ [{ rid := own, hi := hi, lo := lo, aux := aux, tag := tag }] })) ∧
    (s.region rid = some r → r.lanes[k.lane]? = some y →
      let z : Lane := { y with queue := y.queue ++ [s.ready k (laneLevel r k.lane)], reserved := y.reserved - 1 }
      s.enqueue rid k none = s.setRegion rid { r with lanes := setAt r.lanes k.lane z }) ∧
    (let pid := s.pidOfRegion rid
     let c : Word := leWord (bs.map Prod.fst)
     let z : Word := if up then c + 1 else c - 1
     let a := if z = 0 then v.windowsAt pid block else v
     s.readVirt w.agent pid (some rid) w.super block 8 = (u, .ok bs) → w.command = none →
     u.writeFor w.agent pid (some rid) w.super (some (coreOf w.sid)) ((List.range 8).map (fun i => (block + i, byteAt z i, false))) =
       (v, .ok keys) →
     s.joinStep w rid block mk up = if up = true then a else if c = 1 then a.continuation w.agent w.super rid block mk
       else if c.toInt ≤ 0 then a.raiseFault rid 0x81 z (BitVec.ofNat 64 block) else a) ∧
    (s.joinSteps w rid block mk up 0 = s ∧ s.joinSteps w rid block mk up (n + 1) = (s.joinStep w rid block mk up).joinSteps w rid block mk up n) ∧
    (s.applyJoins w rid mk [] = s ∧
      s.applyJoins w rid mk l = (s.applyJoins w rid mk (l.filter (fun x => 0 < x.2))).applyJoins w rid mk (l.filter (fun x => x.2 < 0)) ∧
      ((∀ y ∈ l, 0 < y.2) → 0 < x.2 →
        s.applyJoins w rid mk (x :: l) = (s.joinSteps w rid x.1 mk true x.2.toNat).applyJoins w rid mk l) ∧
      ((∀ y ∈ l, y.2 < 0) → x.2 < 0 →
        s.applyJoins w rid mk (x :: l) = (s.joinSteps w rid x.1 mk false (-x.2).toNat).applyJoins w rid mk l))

/-- 02 R22, R28, R35: a continuation enters the lane it names, or stands on its overflow chain where the lane has no free slot, the block
linked behind the last one; a malformed one, one for a disabled lane, or one whose page does not translate is a bad one (the last by log
53). A counter that comes to 0 ends a window of the ordered regions of the partition that name its block. -/
def Says.Continuations : Prop :=
  ∀ (s u : State) (a : Agent) (super : Bool) (rid block mk i : Nat) (r : Region) (k : Task) (y : Lane) (l : List (Byte × Bool)) (e : XErr × Nat),
    let bad := fun (v : State) => v.raiseFault rid 0x80 0 (BitVec.ofNat 64 block)
    let go := s.continuation a super rid block mk
    let field := fun i => BitVec.ofNat 64 (fieldAt (l.map Prod.fst) (8 * i) 8)
    let mark := fun i => ((l[8 * i]?).map Prod.snd).getD false
    (s.readVirt a (s.pidOfRegion rid) (some rid) super (block + 8) 40 = (u, .error e) → go = bad u) ∧
    (s.readVirt a (s.pidOfRegion rid) (some rid) super (block + 8) 40 = (u, .ok l) → u.region rid = some r →
      (malformed (field 0) = true → go = bad u) ∧
      (∀ y, r.lanes[fld (field 0) 56 4]? = some y → y.disabled = true → go = bad u) ∧
      (∀ y, malformed (field 0) = false → r.lanes[fld (field 0) 56 4]? = some y → y.disabled = false → go =
        u.enqueue rid (recordTask (field 0) (field 1) (field 2) (field 3) (mark 1) (mark 2) (mark 3) mk) (some block))) ∧
    (s.region rid = some r → r.lanes[k.lane]? = some y →
      let sets := fun (v : State) (z : Lane) => v.setRegion rid { r with lanes := setAt r.lanes k.lane z }
      (y.queue.length + y.reserved < 2 ^ y.c →
        s.enqueue rid k (some block) = sets s { y with queue := y.queue ++ [s.ready k (laneLevel r k.lane)] }) ∧
      (2 ^ y.c ≤ y.queue.length + y.reserved → ∃ v : State, (y.chain = [] → v = s) ∧
        (∀ b w, y.chain.getLast? = some (b, w) → v = s.writeQuiet r.pid (b + 40) (natBytes block 8)) ∧
        s.enqueue rid k (some block) = sets v { y with chain := y.chain ++ [(block, s.ready k r.prio)] })) ∧
    ((s.regions.map Prod.fst).Pairwise (· < ·) → ∀ x, s.region i = some x → ∀ pid,
      (s.windowsAt pid block).region i = some (if x.pid = pid ∧ x.winjoin ≠ 0 ∧ x.winjoin.toNat = block ∧ x.ordered = true then
        { x with windows := x.windows + 1 } else x))

/-- `tend` waits, then commits: stores, deferred operations, records and joins in their order, with the continuations and windows that follow (logs 51 and 53). -/
def Obligations.TaskEnd : Prop := Says.TaskEnds ∧ Says.Commits ∧ Says.Continuations

/-- 08 R160, 02 R33, 05 R100: `send` checks the handler's address, is irrevocable and leaves its message on the way with the
token pending. -/
def Says.Sends : Prop :=
  ∀ (s : State) (g : Guard) (sc : BitVec 2) (t a b : SReg) (rel : BitVec 1),
    s.acts .none g [t, a, a + 1, b, b + 1, b + 2, b + 3, b + 4, b + 5] = true → s.clean [a, a + 1] = true →
    let x := s.me
    let m : Flight :=
      { rid := x.rid, sid := s.cur, taskNo := x.taskNo, token := t, srcTile := tileOf s.cur, dest := x.rd a
        code := x.rd (a + 1), payload := [x.rd b, x.rd (b + 1), x.rd (b + 2), x.rd (b + 3), x.rd (b + 4), x.rd (b + 5)]
        marks := (List.range 6).foldl (fun acc i => setBit acc (4 + i) (x.markS (b + BitVec.ofNat 5 i))) 0 }
    (codeOk (x.rd (a + 1)) = false → Traps (.send g sc t a b rel) s 0x10 0) ∧
    (codeOk (x.rd (a + 1)) = true → s.enginesOut s.cur < 16 → x.dual = none →
      (rel = 1 → s.writesOut s.cur = false ∧ s.homeBusy s.cur = false) →
      let u := s.irrevAct s.cur
      exec (.send g sc t a b rel) s = .next ((({ u with msgs := u.msgs ++ [m] } : State).pendToken t).retire))

/-- 02 R33, R34, R35, 01 R14: a message arrives: no tile of the region gives status 2, a full mailbox 1; an accepted one is
parked with the sender's next sequence number and gives 0. It waits on its way while its region is preempted (the model's choice, log
25). -/
def Says.MessageArrivals : Prop :=
  ∀ (s : State) (idx : Nat),
    (takeAt s.msgs idx = none → exec (.messageArrival idx) s = .next s) ∧
    (∀ m rest r, takeAt s.msgs idx = some (m, rest) → s.region m.rid = some r → r.state = .preempted →
      exec (.messageArrival idx) s = .next s) ∧
    (∀ m rest r, takeAt s.msgs idx = some (m, rest) → s.region m.rid = some r → r.state ≠ .preempted →
      let u : State := { s with msgs := rest }
      (r.tiles[m.dest.toNat]? = none →
        exec (.messageArrival idx) s = .next (u.completeToken m.sid m.taskNo m.token 2)) ∧
      (∀ tl, r.tiles[m.dest.toNat]? = some tl → r.mailbox ≤ r.mail.countP (fun x => x.tile == tl) →
        exec (.messageArrival idx) s = .next (u.completeToken m.sid m.taskNo m.token 1)) ∧
      (∀ tl, r.tiles[m.dest.toNat]? = some tl → r.mail.countP (fun x => x.tile == tl) < r.mailbox →
        ∃ (v : State) (x : Mail), exec (.messageArrival idx) s = .next (v.completeToken m.sid m.taskNo m.token 0) ∧
          v.region m.rid = some { r with mail := r.mail ++ [x] } ∧ x.tile = tl ∧ x.ready.task.pc = m.code ∧
          x.ready.task.pin = some tl ∧ x.seq = (s.tile m.srcTile).seq ∧
          (v.tile m.srcTile).seq = x.seq + 1))

/-- send is irrevocable and leaves with its token pending; an arriving message is parked with its number or refused with its status. -/
def Obligations.Messages : Prop := Says.Sends ∧ Says.MessageArrivals

/-- A deque take that has succeeded: the entry's words, the undo list of a restartable task, an acquire at pkg scope. -/
def taken (s : State) (pd : PReg) (d : SReg) (tl : Nat) (e : DqEntry) (deque : List DqEntry) : State :=
  let u := (s.onTile tl (fun t => { t with deque := deque })).onMe (fun t =>
    let t := ((t.wrP pd (BitVec.allOnes 64) false).wr d (e.hi ++ e.lo) false).wr (d + 1) (e.aux ++ e.tag) false
    if t.restartable then { t with undo := .take tl e :: t.undo } else t)
  (u.dropL1 (coreOf u.cur)).retire

/-- A deque take that has found nothing, with its reason. -/
def notTaken (s : State) (pd : PReg) (d : SReg) (reason : Word) : State :=
  (s.onMe (fun t => ((t.wrP pd 0 false).wr d 0 false).wr (d + 1) reason false)).retire

/-- 08 R161, R163, R164, R152: takes from the deque: the newest entry whole, its lower half ⌊n/2⌋, or the upper half ⌈n/2⌉ of
the oldest entry of another tile; the reasons when nothing is taken, a full undo list among them. What is taken carries no mark (the
model's choice, log 69). -/
def Says.DequeTakes : Prop :=
  ∀ (s : State) (g : Guard) (pd : PReg) (d b : SReg), s.me.dual = none →
    let q := (s.tile (tileOf s.cur)).deque
    let roomy := s.me.restartable = true → s.me.undo.length < 4
    (s.acts .none g [d, d + 1] = true →
      (dqFind q s.me.rid false = none → exec (.dqpop g pd d) s = .next (notTaken s pd d 0) ∧
        exec (.dqsplit g pd d) s = .next (notTaken s pd d 0)) ∧
      (∀ i e, dqFind q s.me.rid false = some i → q[i]? = some e →
        let n := (e.hi - e.lo).toNat
        let half := e.lo + BitVec.ofNat 32 (n / 2)
        (s.me.restartable = true → 4 ≤ s.me.undo.length → exec (.dqpop g pd d) s = .next (notTaken s pd d 1) ∧
          exec (.dqsplit g pd d) s = .next (notTaken s pd d 1)) ∧
        (roomy → exec (.dqpop g pd d) s = .next (taken s pd d (tileOf s.cur) e (q.take i ++ q.drop (i + 1)))) ∧
        (roomy → exec (.dqsplit g pd d) s = .next (if 2 ≤ n then
          taken s pd d (tileOf s.cur) { e with hi := half } (setAt q i { e with lo := half })
          else taken s pd d (tileOf s.cur) e (q.take i ++ q.drop (i + 1)))))) ∧
    (s.acts .none g [d, d + 1, b] = true → s.clean [b] = true →
      ((s.myRegion.bind (fun r => r.tiles[(s.me.rd b).toNat]?)) = none →
        exec (.dqsteal g pd d b) s = .next (notTaken s pd d 2)) ∧
      (∀ tl, (s.myRegion.bind (fun r => r.tiles[(s.me.rd b).toNat]?)) = some tl →
        (dqFind (s.tile tl).deque s.me.rid true = none → exec (.dqsteal g pd d b) s = .next (notTaken s pd d 0)) ∧
        (∀ i, dqFind (s.tile tl).deque s.me.rid true = some i → s.me.restartable = true → 4 ≤ s.me.undo.length →
          exec (.dqsteal g pd d b) s = .next (notTaken s pd d 1)) ∧
        (∀ i e, dqFind (s.tile tl).deque s.me.rid true = some i → (s.tile tl).deque[i]? = some e → roomy →
          let n := (e.hi - e.lo).toNat
          let cut := e.hi - BitVec.ofNat 32 ((n + 1) / 2)
          exec (.dqsteal g pd d b) s = .next (if 2 ≤ n then
            taken s pd d tl { e with lo := cut } (setAt (s.tile tl).deque i { e with hi := cut })
            else taken s pd d tl e ((s.tile tl).deque.take i ++ (s.tile tl).deque.drop (i + 1))))))

/-- 08 R161, R163, R153: the newest and the oldest entry of a region; a push places its entry at the newest end, at commit in
a restartable task, or fails when the 64 places are in use. Marks of its two registers are dropped (the model's choice, log 69). -/
def Says.DequePushes : Prop :=
  ∀ (s : State) (g : Guard) (pd : PReg) (a : SReg) (l : List DqEntry) (rid : Nat) (e : DqEntry),
    (e.rid = rid → dqFind (l ++ [e]) rid false = some l.length ∧ dqFind (e :: l) rid true = some 0) ∧
    (e.rid ≠ rid → dqFind (l ++ [e]) rid false = dqFind l rid false ∧
      dqFind (e :: l) rid true = (dqFind l rid true).map (· + 1)) ∧
    (s.acts .none g [a, a + 1] = true → s.me.dual = none →
      let x := s.me.rd a
      let y := s.me.rd (a + 1)
      let t := s.tile (tileOf s.cur)
      let entry : DqEntry := { rid := s.me.rid, hi := bits x 32 32, lo := bits x 0 32, aux := bits y 32 32, tag := bits y 0 32 }
      (64 ≤ t.deque.length + t.dqReserved.length → exec (.dqpush g pd a) s = .next (s.resultP pd 0 false)) ∧
      (t.deque.length + t.dqReserved.length < 64 → s.me.restartable = true →
        exec (.dqpush g pd a) s = .next (((s.onTile (tileOf s.cur) (fun x => { x with dqReserved := x.dqReserved ++ [s.cur] })).onMe
          (fun t => { t.wrP pd (BitVec.allOnes 64) false with
            deferred := t.deferred ++ [.push (bits x 32 32) (bits x 0 32) (bits y 32 32) (bits y 0 32)] })).retire)) ∧
      (t.deque.length + t.dqReserved.length < 64 → s.me.restartable = false → s.writesOut s.cur = false →
        s.homeBusy s.cur = false → ∃ u, exec (.dqpush g pd a) s = .next u ∧
          (u.tile (tileOf s.cur)).deque = t.deque ++ [entry] ∧ u.me.rdP pd = BitVec.allOnes 64 ∧
          u.mem = (s.drain s.cur).mem))

/-- Pops, splits, steals and pushes take and place entries as their rules say, with their reasons when nothing is taken; entries hold no marks (log 69). -/
def Obligations.Deques : Prop := Says.DequeTakes ∧ Says.DequePushes

/-- 08 R165, R166, R168, R172, 19 R291: the phases of a barrier: the phase ends when every party has arrived and nothing is expected, be it
by an arrival or by the last expected bytes, and with nobody waiting its watchdog stops; until then arrivals and expectations count; one
arrival too many breaks it; an expectation beyond 28 bits breaks it; a freed reference that leaves too few breaks it, the last one
frees it. On a broken one arrivals and expectations have no effect; an operation whose handle names no barrier any more does nothing
(the model's choice, log 70). -/
def Says.Phases : Prop :=
  ∀ (s : State) (rid d i : Nat) (h : Word) (b : Barrier) (n : Int),
    (s.barrierOf rid h = none → s.arrive rid h = s ∧ s.expect rid h n = s ∧ s.bfree rid h = s) ∧
    (s.barrierOf rid h = some (d, i, b) → b.broken = true → s.arrive rid h = s ∧ s.expect rid h n = s) ∧
    (s.barrierOf rid h = some (d, i, b) → b.broken = false →
    let now := fun (u : State) => lookupKey (u.die d).barriers i
    let fits := fun (k : Int) => -(2 ^ 27) ≤ k ∧ k < 2 ^ 27
    let next := fun (u : State) => ∃ run, now u = some { b with ph := b.ph + 1, arrived := 0, pend := 0, spent := 0, running := run } ∧
      (s.waitedOn h = false → run = false)
    (fits b.pend →
      (b.arrived ≠ b.count → b.arrived + 1 ≠ b.count ∨ b.pend ≠ 0 →
        now (s.arrive rid h) = some { b with arrived := b.arrived + 1, running := true }) ∧
      (b.arrived + 1 = b.count → b.pend = 0 → next (s.arrive rid h))) ∧
    (fits (b.pend + n) →
      (b.arrived ≠ b.count ∨ b.pend + n ≠ 0 → now (s.expect rid h n) = some { b with pend := b.pend + n }) ∧
      (b.arrived = b.count → b.pend + n = 0 → next (s.expect rid h n))) ∧
    (b.arrived = b.count → now (s.arrive rid h) = some { b with broken := true, running := false }) ∧
    (b.pend + n < -(2 ^ 27) ∨ 2 ^ 27 ≤ b.pend + n →
      now (s.expect rid h n) = some { b with pend := b.pend + n, broken := true, running := false }) ∧
    (b.refs = 1 → now (s.bfree rid h) = none ∨ ¬ risingFrom 0 (s.die d).barriers) ∧
    (1 < b.refs → b.refs - 1 < b.count - b.arrived →
      now (s.bfree rid h) = some { b with refs := b.refs - 1, broken := true, running := false }) ∧
    (1 < b.refs → b.count - b.arrived ≤ b.refs - 1 → now (s.bfree rid h) = some { b with refs := b.refs - 1 }))

/-- 08 R165, R168, R153: `balloc` with its reasons in their order, and a new barrier's fields. What is left of a barrier budget, less what the
region holds and what its children got, is log 55's reading. -/
def Says.BarrierAllocation : Prop :=
  ∀ (s : State) (g : Guard) (sc : BitVec 2) (d : SReg) (pd : PReg) (b : SReg),
    s.acts .none g [d, b] = true → s.clean [b] = true → s.me.dual = none →
    let n := (s.me.rd b).toNat
    let dd := dieOf s.cur
    let budget := (s.myRegion.map (fun r => r.bbudget - r.bused - r.barriersHeld)).getD 0
    let full := s.me.restartable = true ∧ 4 ≤ s.me.undo.length
    let fails := fun x => exec (.balloc g sc d pd b) s = .next ((s.onMe (fun t => (t.wr d x false).wrP pd 0 false)).retire)
    (n = 0 ∨ 65535 < n → fails 3) ∧
    (1 ≤ n → n ≤ 65535 → full → fails 4) ∧
    (1 ≤ n → n ≤ 65535 → ¬ full → budget = 0 → fails 2) ∧
    (1 ≤ n → n ≤ 65535 → ¬ full → 0 < budget → freePlace (s.die dd).barriers 4096 0 = none → fails 1) ∧
    (∀ i, 1 ≤ n → n ≤ 65535 → ¬ full → 0 < budget → freePlace (s.die dd).barriers 4096 0 = some i →
      ∃ u serial, exec (.balloc g sc d pd b) s = .next u ∧
        lookupKey (u.die dd).barriers i = some { count := n, refs := n, arrived := 0, pend := 0, ph := 0, scope := sc
                                                 broken := false, serial := serial, rid := s.me.rid, spent := 0, running := false } ∧
        (d ≠ 0 → u.me.rd d = handleOf serial dd i) ∧ u.me.rdP pd = BitVec.allOnes 64 ∧
        (∀ r, s.region s.me.rid = some r → u.region s.me.rid = some { r with barriersHeld := r.barriersHeld + 1 }) ∧
        (s.me.restartable = true → u.me.undo = .barrier (handleOf serial dd i) :: s.me.undo))

/-- 08 R165, R168, R169, R170, R153: a handle that names no live barrier of the region traps; in a restartable task the changes
wait for the commit, in an irrevocable one they are made at once; `bwait` returns false at once on a broken barrier (log 33),
true on a passed phase, and else waits. -/
def Says.BarrierWords : Prop :=
  ∀ (s : State) (g : Guard) (pd : PReg) (d a b : SReg), s.clean [a, b] = true →
    let h := s.me.rd a
    let later : Deferred → (Strand → Strand) → State := fun x f =>
      (s.onMe (fun t => { f t with deferred := t.deferred ++ [x] })).retire
    (s.barrierOf s.me.rid h = none →
      (s.acts .none g [a, b] = true → s.me.dual = none → Traps (.bexpect g a b) s 0x15 h) ∧
      (s.acts .none g [a, b] = true → Traps (.bwait g pd a b) s 0x15 h) ∧
      (s.acts .none g [d, a] = true → s.me.dual = none → Traps (.barrive g d a) s 0x15 h) ∧
      (s.acts .none g [a] = true → s.me.dual = none → Traps (.bfree g a) s 0x15 h)) ∧
    (∀ dd i x, s.barrierOf s.me.rid h = some (dd, i, x) →
      (s.me.dual = none → s.me.restartable = true →
        (s.acts .none g [a, b] = true → exec (.bexpect g a b) s = .next (later (.expect h (s.me.rd b)) id)) ∧
        (s.acts .none g [d, a] = true →
          exec (.barrive g d a) s = .next (later (.arrive h) (fun t => t.wr d (x.ph.zeroExtend 64) false))) ∧
        (s.acts .none g [a] = true → exec (.bfree g a) s = .next (later (.free h) id))) ∧
      (s.me.dual = none → s.me.restartable = false → s.writesOut s.cur = false → s.homeBusy s.cur = false → s.me.buf = [] →
        (s.acts .none g [a, b] = true →
          exec (.bexpect g a b) s = .next (((s.onMe id).expect s.me.rid h (s.me.rd b).toInt).retire)) ∧
        (s.acts .none g [d, a] = true →
          exec (.barrive g d a) s =
            .next (((s.onMe (fun t => t.wr d (x.ph.zeroExtend 64) false)).arrive s.me.rid h).retire)) ∧
        (s.acts .none g [a] = true → exec (.bfree g a) s = .next (((s.onMe id).bfree s.me.rid h).retire))) ∧
      (s.acts .none g [a, b] = true →
        let ph : BitVec 32 := bits (s.me.rd b) 0 32
        let selfWait := s.me.restartable = true ∧ Deferred.arrive h ∈ s.me.deferred
        (selfWait → Traps (.bwait g pd a b) s 0x16 h) ∧
        (¬ selfWait → x.broken = false → phasePassed x.ph ph = true →
          exec (.bwait g pd a b) s = .next (((s.acquire s.cur x.scope).onMe (fun t => t.wrP pd (BitVec.allOnes 64) false)).retire)) ∧
        (¬ selfWait → x.broken = true →
          exec (.bwait g pd a b) s = .next (s.resultP pd 0 false)) ∧
        (¬ selfWait → x.broken = false → phasePassed x.ph ph = false →
          exec (.bwait g pd a b) s = .next ((s.putBarrier dd i { x with running := true }).onMe
            (fun t => { t with wait := .barrier pd h ph })))))

/-- balloc, bexpect, barrive, bwait and bfree in restartable and irrevocable tasks, with their traps and reasons (logs 33 and 55). -/
def Obligations.BarrierOperations : Prop := Says.BarrierAllocation ∧ Says.BarrierWords

/-- 19 R291: the barrier watchdog breaks a phase that has counted its limit, in a RUNNING region without a trapped task. -/
def Says.BarrierWatchdog : Prop :=
  ∀ (s : State) (die idx : Nat),
    (lookupKey (s.die die).barriers idx = none → exec (.barrierWatchdog die idx) s = .next s) ∧
    (∀ b r, lookupKey (s.die die).barriers idx = some b → s.region b.rid = some r →
      exec (.barrierWatchdog die idx) s = .next (
        if b.running = true ∧ b.broken = false ∧ r.state = .running ∧ 2 ^ r.bwdog ≤ b.spent ∧
          (∀ x ∈ s.strands, x.2.rid = b.rid → x.2.task.isSome = true → x.2.trapped = false)
        then (s.breakBarrier die idx b).raiseFault b.rid 0x82 (handleOf b.serial die idx) 0 else s))

/-- 08 R166, R168, R169, R170: what becomes of a strand that waits in `bwait`: when the phase it waits for is over it goes on with the
next word, P[pd] all ones, its core's L1 empty where the barrier has a scope; when the barrier breaks or its last reference is freed it
goes on with P[pd] 0; every other strand stays as it is. A saved one that waits is released in the same way, for the time when it goes
on. -/
def Says.BarrierWaiters : Prop :=
  ∀ (s : State) (rid d i sid : Nat) (h : Word) (b : Barrier) (pd : PReg) (ph : BitVec 32) (n : Int),
    (s.strands.map Prod.fst).Pairwise (· < ·) → s.barrierOf rid h = some (d, i, b) → b.broken = false →
    let t := s.strand sid
    let goes := fun (u : State) (x : Word) => u.strand sid = { t.wrP pd x false with wait := .no, pc := t.pc + 4 }
    let fits := fun (k : Int) => -(2 ^ 27) ≤ k ∧ k < 2 ^ 27
    let ends := fun (u : State) =>
      (t.wait = .barrier pd h ph → phasePassed (b.ph + 1) ph = true →
        goes u (BitVec.allOnes 64) ∧ (b.scope ≠ 0 → (u.core (coreOf sid)).l1 = [])) ∧
      ((∀ q p, t.wait = .barrier q h p → phasePassed (b.ph + 1) p = false) → u.strand sid = t) ∧
      ∀ (k m : Nat) (r : Region) (x : Strand), s.region k = some r → r.strandsSaved[m]? = some (sid, x) →
        ∃ r' : Region, u.region k = some r' ∧ r'.strandsSaved[m]? = some (sid, match x.wait with
          | .barrier q h' p => if h' = h ∧ phasePassed (b.ph + 1) p = true then { x with wait := .released q true } else x
          | _ => x)
    let breaks := fun (u : State) =>
      (t.wait = .barrier pd h ph → goes u 0) ∧ ((∀ q p, t.wait ≠ .barrier q h p) → u.strand sid = t) ∧
      ∀ (k m : Nat) (r : Region) (x : Strand), s.region k = some r → r.strandsSaved[m]? = some (sid, x) →
        ∃ r' : Region, u.region k = some r' ∧ r'.strandsSaved[m]? = some (sid, match x.wait with
          | .barrier q h' _ => if h' = h then { x with wait := .released q false } else x
          | _ => x)
    h = handleOf b.serial d i ∧
    (∀ (now p : BitVec 32), phasePassed now p = true ↔ 1 ≤ (now - p).toNat ∧ (now - p).toNat ≤ 2 ^ 31) ∧
    (fits b.pend → b.arrived ≠ b.count → b.arrived + 1 = b.count → b.pend = 0 → ends (s.arrive rid h)) ∧
    (fits (b.pend + n) → b.arrived = b.count → b.pend + n = 0 → ends (s.expect rid h n)) ∧
    (b.arrived = b.count → breaks (s.arrive rid h)) ∧ (¬ fits (b.pend + n) → breaks (s.expect rid h n)) ∧
    (b.refs = 1 → breaks (s.bfree rid h)) ∧ (1 < b.refs → b.refs - 1 < b.count - b.arrived → breaks (s.bfree rid h)) ∧
    breaks (s.breakBarrier d i b)

/-- Arrivals, expectations and frees complete, break or free a barrier and release the strands that wait for it; the watchdog breaks a phase that lasts too long. -/
def Obligations.BarrierPhases : Prop := Says.Phases ∧ Says.BarrierWaiters ∧ Says.BarrierWatchdog

/-- 08 R159, 02 R29, R30, 20 R302: `launch` is irrevocable; a bad address gives status 3, a refused packet its code, and a created region
leaves the token pending while it is PLACING, as a packet whose translation faults does while it waits for `replay` (in every class of
fault, as an engine command: log 37's reading). -/
def Says.LaunchWord : Prop :=
  ∀ (s : State) (g : Guard) (t a : SReg), s.acts .none g [t, a] = true → s.clean [a] = true → s.me.dual = none →
    s.enginesOut s.cur < 16 → s.writesOut s.cur = false → s.homeBusy s.cur = false →
    let u := s.irrevAct s.cur
    let x := s.me.rd a
    (x.toNat % 64 ≠ 0 ∨ 2 ^ 56 ≤ x.toNat + 127 → exec (.launch g t a) s = .next (u.result t 3 false)) ∧
    (x.toNat % 64 = 0 → x.toNat + 127 < 2 ^ 56 → ∀ v l,
      u.readVirt (.core (coreOf u.cur)) (u.pidOfRegion u.me.rid) (some u.me.rid) u.me.super x.toNat 128 = (v, .ok l) →
      let made := v.launchRegion (.core (coreOf u.cur)) u.me.super u.me.rid (l.map Prod.fst) (.strand u.cur u.me.taskNo t) none
      (∀ w c, made = (w, .refused c) → exec (.launch g t a) s = .next (w.result t (BitVec.ofNat 64 c) false)) ∧
      (∀ w rid, made = (w, .placing rid) → exec (.launch g t a) s = .next (w.pendToken t).retire) ∧
      (∀ w e, made = (w, .fault e) → exec (.launch g t a) s =
        .next (((w.launchParks { sid := u.cur, taskNo := u.me.taskNo, rid := u.me.rid, super := u.me.super, token := t, addr := x
                                 parked := false } (dieOf w.cur) e).pendToken t).retire))) ∧
    (x.toNat % 64 = 0 → x.toNat + 127 < 2 ^ 56 → ∀ v e,
      u.readVirt (.core (coreOf u.cur)) (u.pidOfRegion u.me.rid) (some u.me.rid) u.me.super x.toNat 128 =
        (v, .error e) →
      let w := v.engineFault u.me.rid (dieOf v.cur) 0 .read e
      exec (.launch g t a) s = .next ((({ w with launches := w.launches ++ [{ sid := u.cur, taskNo := u.me.taskNo, rid := u.me.rid
                                                                              super := u.me.super, token := t, addr := x
                                                                              parked := true }] } : State).pendToken t).retire))

/-- 08 R159, 19 R284, R285: what a created child is: PLACING, below its parent, its budgets charged to the parent and covered. -/
def Says.CreatedRegions : Prop :=
  ∀ (s u : State) (ag : Agent) (super : Bool) (par rid : Nat) (pk : List Byte) (o : Origin) (gen : Option LaunchId) (p : Region),
    s.region par = some p → par ≠ s.nextId → s.launchRegion ag super par pk o gen = (u, .placing rid) →
    rid = s.nextId ∧ u.nextId = rid + 1 ∧ ∃ r, u.region rid = some r ∧ r.state = .placing ∧ r.parent = some par ∧ r.pid = p.pid ∧
      r.fhandler = BitVec.ofNat 64 (orParent (fieldAt pk 72 8) p.fhandler.toNat) ∧
      p.qused + r.qbudget ≤ p.qbudget ∧ p.bused + r.bbudget ≤ p.bbudget ∧ p.pused + r.pbudget ≤ p.pbudget ∧
      u.region par = some { p with qused := p.qused + r.qbudget, bused := p.bused + r.bbudget, pused := p.pused + r.pbudget }

/-- launch is irrevocable and ends with a status or a pending token; a created child is PLACING and charged to its parent within budgets. -/
def Obligations.Launches : Prop := Says.LaunchWord ∧ Says.CreatedRegions

/-! ### The copy engine and the encoder -/

/-- The command of major 0x28 as issued in a state. -/
def copyCmd (s : State) (op : Nat) (acq : BitVec 1) (sc : BitVec 2) (t a b : SReg) (rel : BitVec 1) : CopyCmd :=
  { op := op, sid := s.cur, taskNo := s.me.taskNo, rid := s.me.rid, token := t, super := s.me.super, dst := s.me.rd a
    src := s.me.rd b, len := s.me.rd t, acq := acq == 1, rel := rel == 1, scope := sc, order := s.nextId, status := none
    parked := false, started := false, listed := [], srcs := [], moved := [], half := [], bad := [] }

/-- A command enters its tile's copy engine, its token pending. -/
def copyIssued (s : State) (c : CopyCmd) : State :=
  ((({ s with nextId := s.nextId + 1 } : State).onTile (tileOf s.cur) (fun y => { y with copies := y.copies ++ [c] })).pendToken
    c.token).retire

/-- 08 R155, R171, R175, R176, R177, 05 R100, R101: the commands of major 0x28 enter their engine with the operands as read; all
but `copyw` are irrevocable acts. The copy engine of a tile holds 64 commands of all its strands, and one that finds it full stalls
(08, before R171). -/
def Obligations.EngineCommands : Prop :=
  ∀ (s : State) (g : Guard) (acq : BitVec 1) (sc : BitVec 2) (t a b : SReg) (rel : BitVec 1),
    s.enginesOut s.cur < 16 → s.me.dual = none → acqReady s acq = true →
    let u := s.irrevAct s.cur
    (s.acts .none g [t, a, b] = true → s.clean [t, a, b] = true → 64 ≤ (s.tile (tileOf s.cur)).copies.length →
      ∀ i ∈ [Instr.copy g acq sc t a b rel, .put g acq sc t a b rel, .putO g acq sc t a b rel, .gather g acq sc t a b rel,
          .copyw g acq sc t a b], exec i s = .next (s.onMe (fun x => { x with wait := .stalled }))) ∧
    (s.acts .none g [t, a, b] = true → s.clean [t, a, b] = true → s.matrixOut s.cur = 0 →
      (s.tile (tileOf s.cur)).copies.length < 64 →
      exec (.copy g acq sc t a b rel) s = .next (copyIssued u (copyCmd u 0 acq sc t a b rel)) ∧
      exec (.put g acq sc t a b rel) s = .next (copyIssued u (copyCmd u 1 acq sc t a b rel)) ∧
      exec (.putO g acq sc t a b rel) s = .next (copyIssued u (copyCmd u 2 acq sc t a b rel)) ∧
      exec (.gather g acq sc t a b rel) s = .next (copyIssued u (copyCmd u 3 acq sc t a b rel)) ∧
      exec (.copyw g acq sc t a b) s = .next (copyIssued s (copyCmd s 4 acq sc t a b 0))) ∧
    (s.acts .none g [t, a] = true → s.clean [a] = true →
      let c : EncCmd :=
        { no := u.nextId, sid := u.cur, taskNo := u.me.taskNo, rid := u.me.rid, token := t, super := u.me.super, desc := u.me.rd a
          acq := acq == 1, rel := rel == 1, scope := sc, parked := false, listed := [], frame := none, rows := []
          label := 0, wrote := 0 }
      exec (.venc g acq sc t a rel) s = .next (((({ u with nextId := u.nextId + 1 } : State).onDie (dieOf u.cur) (fun d =>
        { d with encCmds := d.encCmds ++ [c] })).pendToken t).retire))

/-- 03 R50, 05 R100: a command completes: the lines that it has written for its strand leave the L1 of the strand's core, and no
other's; then its token takes the status and its strand goes on. A write that it performs notes its lines under its number. -/
def Says.CommandLines : Prop :=
  ∀ (s : State) (rid sid taskNo cmd : Nat) (r : SReg) (x : Word) (keys : List Nat),
    let u := s.dropWritten sid cmd
    let n := s.noteWritten rid sid cmd keys
    let mine := fun l => ∃ w ∈ s.written, w.cmd = cmd ∧ w.line = l
    s.commandEnds sid taskNo cmd r x = (u.completeToken sid taskNo r x).wake sid ∧
    (∀ w, w ∈ u.written ↔ w ∈ s.written ∧ w.cmd ≠ cmd) ∧
    (((s.core (coreOf sid)).l1.map Prod.fst).Pairwise (· < ·) →
      (∀ l, ¬ mine l → lookupKey (u.core (coreOf sid)).l1 l = lookupKey (s.core (coreOf sid)).l1 l) ∧
      ∀ l, mine l → lookupKey (u.core (coreOf sid)).l1 l = none) ∧ (∀ c, c ≠ coreOf sid → u.core c = s.core c) ∧
    (∀ w, w ∈ n.written ↔ w ∈ s.written ∨ (w.rid = rid ∧ w.sid = sid ∧ w.cmd = cmd ∧ ∃ k ∈ keys, w.line = k / 64)) ∧
    { s with written := n.written } = n

/-- 08 R171, R172, R173, R175, 01 R11, 03 R59, R62, 09 R179: a command in its engine: the tests before any byte moves, each with its
code; length 0 ends one other than `copyw` with code 0; a `gather` reads what is left of its list, and parks at the byte of it whose
page is not present, with what it has read; a `copyw` that passes takes the buffer over, when nothing accepted or earlier uses it. Then it performs what units are left, and ends, or parks at a page that is not present. That it performs them in ascending
order is the model's choice (log 41). A put ends at PUT_ARRIVAL, every other command at COPY_COMPLETION. A `copyw` of a region that a
pre-emption has suspended waits until its strand has a core again (log 34). -/
def Says.CopyEnds : Prop :=
  ∀ (s : State) (tile idx : Nat) (c : CopyCmd) (r : Region), (s.tile tile).copies[idx]? = some c → s.region c.rid = some r →
    c.parked = false → r.state ≠ .preempted → c.status = none →
    let n := creditOf c
    let src := c.src.toNat
    let dst := c.dst.toNat
    let isPut := c.op = 1 ∨ c.op = 2
    let step := exec (.copyCompletion tile idx) s
    let arrive := exec (.putArrival tile idx) s
    let ends := fun (u : State) x => u.copyEnds tile idx c x
    let arrives := fun (x : Word) => s.setCopy tile idx { c with status := some x }
    (c.op = 4 → 2 ^ 32 ≤ c.sid → step = .next s) ∧
    ((c.op = 4 → c.sid < 2 ^ 32) →
    (isPut → step = .next s) ∧ (¬ isPut → arrive = .next s) ∧
    (c.started = false → putBlocked s tile idx c = true → arrive = .next s) ∧
    (c.started = false → putBlocked s tile idx c = false →
      (n = 0 → (c.op = 0 ∨ c.op = 3 → step = .next (ends s 0)) ∧ (isPut → arrive = .next (arrives 0))) ∧
      (n ≠ 0 →
        (c.op = 0 → ∀ code, code = lowest [addrCode r src n true true true, lenCode c, addrCode r dst n true true false] → code ≠ 0 →
          step = .next (ends s (statusWord code 0))) ∧
        (isPut → ∀ code, code = lowest [addrCode r src n true true false, lenCode c, addrCode r dst n false false true] → code ≠ 0 →
          arrive = .next (arrives (statusWord code 0))) ∧
        (c.op = 3 → ∀ code, code = lowest [addrCode r src (8 * gatherCount c) true true false, lenCode c,
            addrCode r dst n true true false] →
          let cnt := gatherCount c
          let listBad := lenCode c = 2 ∨ addrCode r src (8 * cnt) true true false ≠ 0
          (listBad → step = .next (ends s (statusWord code 0))) ∧
          let done := c.listed.length
          let part := fun k => (List.range k).map (fun i => (src, done + i))
          (¬ listBad → ∀ u l, s.engineRead c tile (part (8 * cnt - done)) = (u, .ok l) → ∀ code2,
            code2 = lowest (code :: (listAddrs (c.listed ++ l.map Prod.fst) cnt).map (fun x =>
              addrCode r x (gatherSize c) true true true)) → code2 ≠ 0 → step = .next (ends u (statusWord code2 0))) ∧
          (¬ listBad → ∀ u e, s.engineRead c tile (part (8 * cnt - done)) = (u, .error e) → ∀ v l,
            u.engineRead c tile (part (min (8 * cnt - done) (e.2 - (src + done)))) = (v, .ok l) →
            step = .next (v.copyParks tile idx { c with listed := c.listed ++ l.map Prod.fst } .read e)))) ∧
      (c.op = 4 → ∀ code, code = lowest [addrCode r src n true true false, lenCode c] →
        (code ≠ 0 → step = .next (ends s (statusWord code 0))) ∧
        (code = 0 → copywReady s tile idx c = false → step = .next s))) ∧
    (∀ v x, s.copyStart r tile idx c = (v, some x) →
      let go := State.moveUnits tile ((List.range (unitLimit v x)).filter (fun u => !x.moved.contains u)) v x
      let run := if c.op = 1 ∨ c.op = 2 then arrive else step
      (∀ w y k e, go = (w, y, some (k, e)) → run = .next (w.copyParks tile idx y k e)) ∧
      (∀ w y, go = (w, y, none) → run = .next (w.copyDone tile idx y))))

/-- 08 R171, R175, 09 R179: which commands start, and what a start does: nothing in memory; a `gather` has read its list; a `copyw` has
the buffer, every byte, tag and poison mark of another owner cleared. One that changes the owner waits for the accepted matrix
instructions of the core, for its earlier `copyw`s and for those that write under the owner of now. A `copyw` that a pre-emption
suspends, or under which the buffer gets another owner, begins again, with every byte (log 34). -/
def Says.CopyStarts : Prop :=
  ∀ (s : State) (tile idx : Nat) (c : CopyCmd) (r : Region) (k : Core) (rid : Nat),
    (c.started = true → c.op ≠ 4 ∨ (s.core (coreOf c.sid)).owner = some c.rid → s.copyStart r tile idx c = (s, some c)) ∧
    (c.op = 4 → c.started = true → (s.core (coreOf c.sid)).owner ≠ some c.rid → startCode r c = 0 →
      s.copyStart r tile idx c = if copywReady s tile idx c then
        (s.onCore (coreOf c.sid) (fun k => k.takeOver c.rid), some { c with started := true, moved := [], half := [], bad := [] })
        else (s, none)) ∧
    ((s.core (coreOf c.sid)).owner = some c.rid → copywReady s tile idx c = true) ∧
    ((s.core (coreOf c.sid)).owner ≠ some c.rid →
      (copywReady s tile idx c = true ↔ (s.core (coreOf c.sid)).mq = [] ∧ ∀ j y, (s.tile tile).copies[j]? = some y → j ≠ idx →
        y.op = 4 → coreOf y.sid = coreOf c.sid → idx < j ∧ (y.started = true → (s.core (coreOf c.sid)).owner ≠ some y.rid))) ∧
    (c.op = 4 → c.suspended = { c with started := false, moved := [], half := [], bad := [] }) ∧ (c.op ≠ 4 → c.suspended = c) ∧
    (c.started = false → putBlocked s tile idx c = false → startCode r c = 0 →
      (c.op < 3 → creditOf c ≠ 0 → s.copyStart r tile idx c = (s, some { c with started := true })) ∧
      (c.op = 4 → copywReady s tile idx c = true →
        s.copyStart r tile idx c =
          (s.onCore (coreOf c.sid) (fun k => k.takeOver c.rid),
            some { c with started := true, moved := [], half := [], bad := [] })) ∧
      (c.op = 3 → creditOf c ≠ 0 → addrCode r c.src.toNat (8 * gatherCount c) true true false = 0 → lenCode c = 0 → ∀ u l,
        s.engineRead c tile ((List.range (8 * gatherCount c - c.listed.length)).map (fun i => (c.src.toNat, c.listed.length + i))) =
          (u, .ok l) →
        let addrs := listAddrs (c.listed ++ l.map Prod.fst) (gatherCount c)
        (∀ x ∈ addrs, addrCode r x (gatherSize c) true true true = 0) →
        s.copyStart r tile idx c = (u, some { c with started := true, srcs := addrs }))) ∧
    (k.takeOver rid).owner = some rid ∧ (k.owner = some rid → k.takeOver rid = k) ∧
    (k.owner ≠ some rid → (k.takeOver rid).weight = 0 ∧ (k.takeOver rid).form = 0 ∧ (k.takeOver rid).wPoison = 0)

/-- 08 R171, R176, 03 R53, 09 R190: the units of a command: unit n is the aligned 8-byte unit that holds the destination bytes it does;
it reads the source of each of its bytes that is not performed yet and writes them, and is done once. A page fault stops it at its
byte: the bytes before it are performed. A marked byte spoils its block of the weight buffer, for every `copyw` of the core that has
written into that block. -/
def Says.CopyUnits : Prop :=
  ∀ (s : State) (tile n o core b : Nat) (c : CopyCmd) (us : List Nat),
    let offs := (unitPlaces c n).filter (fun o => !c.half.contains o)
    let block := (c.dst.toNat / 8 + n) / 8
    let bad := fun (bs : List (Byte × Bool)) => if anyMark bs then addNum c.bad block else c.bad
    let filled := fun (u : State) (l : List (Nat × Byte × Bool)) =>
      let v := u.onCore (coreOf c.sid) (fun k => k.fill c.dst.toNat (fld c.len 28 4) l)
      if l.any (fun y => y.2.2) then v.spoilBlock (coreOf c.sid) block else v
    (o ∈ unitPlaces c n ↔ o < creditOf c ∧ (c.dst.toNat % 8 + o) / 8 = n) ∧
    (o < creditOf c → (c.dst.toNat % 8 + o) / 8 < unitCount c) ∧
    (c.op ≠ 3 → sourceOf c o = (c.src.toNat, o)) ∧
    (c.op = 3 → ∀ x, c.srcs[o / gatherSize c]? = some x → sourceOf c o = (x, o % gatherSize c)) ∧
    (∀ u e, s.engineRead c tile (offs.map (sourceOf c)) = (u, .error e) →
      let before := offs.takeWhile (fun o => (sourceOf c o).1 + (sourceOf c o).2 != e.2)
      (before = [] → State.moveUnits tile (n :: us) s c = (u, c, some (.read, e))) ∧
      (before ≠ [] → ∀ v bs, u.engineRead c tile (before.map (sourceOf c)) = (v, .ok bs) →
        let next := { c with half := c.half ++ before, bad := bad bs }
        (c.op = 4 → State.moveUnits tile (n :: us) s c = (filled v (before.zip bs), next, some (.read, e))) ∧
        (c.op ≠ 4 → ∀ w, v.engineWrite c tile (before.zip bs) = (w, .ok ()) →
          State.moveUnits tile (n :: us) s c = (w, next, some (.read, e))))) ∧
    (∀ u bs, s.engineRead c tile (offs.map (sourceOf c)) = (u, .ok bs) →
      let next := { c with moved := c.moved ++ [n], bad := bad bs }
      (c.op = 4 → State.moveUnits tile (n :: us) s c = State.moveUnits tile us (filled u (offs.zip bs)) next) ∧
      (c.op ≠ 4 → ∀ v e, u.engineWrite c tile (offs.zip bs) = (v, .error e) →
        State.moveUnits tile (n :: us) s c = (v, c, some (.write, e))) ∧
      (c.op ≠ 4 → ∀ v, u.engineWrite c tile (offs.zip bs) = (v, .ok ()) →
        State.moveUnits tile (n :: us) s c = State.moveUnits tile us v next)) ∧
    ((s.spoilBlock core b).tile (core / 4) = { s.tile (core / 4) with copies := (s.tile (core / 4)).copies.map (fun y =>
      if y.op = 4 ∧ coreOf y.sid = core ∧ ((∃ u ∈ y.moved, (y.dst.toNat / 8 + u) / 8 = b) ∨ ∃ o ∈ y.half, (y.dst.toNat + o) / 64 = b)
      then { y with bad := addNum y.bad b } else y) }) ∧
    State.moveUnits tile [] s c = (s, c, none)

/-- 08 R172, R173, R176, 03 R59, R62: a command whose units are all performed: code 4 where a unit of another owner stopped it, with the
bytes before that unit; a put goes to its acknowledgement; else the barrier is credited, and a `copyw` leaves the blocks it wrote
whole from sound data clean. The acknowledgement ends a put. -/
def Says.CopyDones : Prop :=
  ∀ (s : State) (tile idx : Nat) (c : CopyCmd),
    (∀ va, copyRefusal s c = some va →
      (c.op = 0 ∨ c.op = 3) ∧ c.dst.toNat ≤ va ∧ va < c.dst.toNat + creditOf c ∧ unitLimit s c = va / 8 - c.dst.toNat / 8 ∧
      s.copyDone tile idx c = s.copyEnds tile idx c (statusWord 4 (va / 8 * 8 - c.dst.toNat))) ∧
    (copyRefusal s c = none → unitLimit s c = unitCount c ∧
      (c.op = 1 ∨ c.op = 2 → s.copyDone tile idx c = s.setCopy tile idx { c with status := some 0 }) ∧
      (c.op = 0 ∨ c.op = 3 → s.copyDone tile idx c = (s.credit' c).1.copyEnds tile idx c (s.credit' c).2) ∧
      (c.op = 4 →
        let v := s.onCore (coreOf c.sid) (fun k => k.cleanBlocks c.dst.toNat (lenOf c) c.bad)
        s.copyDone tile idx c = (v.credit' c).1.copyEnds tile idx c (v.credit' c).2)) ∧
    ((s.tile tile).copies[idx]? = some c →
      (c.status = none → exec (.putAck tile idx) s = .next s) ∧
      (∀ x, c.status = some x → exec (.putAck tile idx) s = .next (if x = 0 ∧ creditOf c ≠ 0 then
        (s.credit' c).1.copyEnds tile idx c (s.credit' c).2 else s.copyEnds tile idx c x)))

/-- 08 R172, R173, R166: the credit of a complete command. -/
def Says.CopyCredits : Prop :=
  ∀ (s : State) (c : CopyCmd),
    (handleIn c = 0 → s.credit' c = (s, statusWord 0 0)) ∧
    (handleIn c ≠ 0 → s.barrierOf c.rid (handleIn c) = none → s.credit' c = (s, statusWord 5 (creditOf c))) ∧
    (handleIn c ≠ 0 → (s.barrierOf c.rid (handleIn c)).isSome = true →
      s.credit' c = (s.expect c.rid (handleIn c) (-(creditOf c : Int)), statusWord 0 0))

/-- 08 R177, R171, R173, 03 R62: the encoder: bad descriptor addresses, the codes of a bad descriptor, and an encoded frame: read once,
its stream recorded, its planes translated, and written at the output buffer, its bytes and size free values (log 15), with code 0, 6
where the buffer is too small, or 4 with the bytes before the first unit of another owner. A page fault parks it where it is: at a
byte of its descriptor, at the first place of a plane in that page, or at a byte of its output; what it has read, tested and written
stands. That a misaligned descriptor
gives 2 and one outside the global window 1, and that a stream is known by its number and its region, is the model's choice (log 66),
as is the dropping of marks of what it reads (log 77). -/
def Says.EncoderEnds : Prop :=
  ∀ (s : State) (die idx : Nat) (c : EncCmd) (r : Region), (s.die die).encCmds[idx]? = some c → s.region c.rid = some r →
    c.parked = false → r.state ≠ .preempted → ∀ (d : List Byte),
    let ends := fun (u : State) x =>
      (u.onDie die (fun d => { d with encCmds := d.encCmds.eraseIdx idx })).commandEnds c.sid c.taskNo c.no c.token x
    let step := exec (.vencCompletion die idx) s
    (c.frame = some d → step = .next (s.encGoes r die idx c d)) ∧
    (∀ v m, s.xlats (.enc die) r.pid (some c.rid) c.super .read c.rows [] = (v, .ok m) →
      s.encGoes r die idx c d = v.encWrites die idx { c with rows := [] } d) ∧
    (∀ v e, s.xlats (.enc die) r.pid (some c.rid) c.super .read c.rows [] = (v, .error e) →
      s.encGoes r die idx c d = (v.engineFault c.rid die 4 .read e).onDie die (fun x =>
        { x with encCmds := setAt x.encCmds idx { c with rows := c.rows.dropWhile (· != e.2), parked := true } })) ∧
    (∀ base pitch row rows x, x ∈ planeAddrs base pitch row rows ↔ ∃ i < rows, x = base + pitch * i ∨
      (x = (base + pitch * i + row - 1) / 65536 * 65536 ∧ base + pitch * i < x)) ∧
    (c.frame = none → 2 ^ 56 < c.desc.toNat + 128 → step = .next (ends s (statusWord 1 0))) ∧
    (c.frame = none → c.desc.toNat + 128 ≤ 2 ^ 56 → c.desc.toNat % 64 ≠ 0 → step = .next (ends s (statusWord 2 0))) ∧
    (c.frame = none → c.desc.toNat + 128 ≤ 2 ^ 56 → c.desc.toNat % 64 = 0 → ∀ u l,
      s.readVirt (.enc die) r.pid (some c.rid) c.super (c.desc.toNat + c.listed.length) (128 - c.listed.length) = (u, .ok l) → idx = 0 →
      let d := c.listed ++ l.map Prod.fst
      let luma := fieldAt d 0 8
      let chroma := fieldAt d 8 8
      let out := fieldAt d 48 8
      let cap := fieldAt d 56 4
      let row := fieldAt d 24 2 * (if fieldAt d 29 1 = 10 then 2 else 1)
      let rows := fieldAt d 26 2
      let inside : Nat → Nat → Bool := fun x n => x < 2 ^ 56 && x + n ≤ 2 ^ 56
      let kinds := inside luma (fieldAt d 16 4 * (rows - 1) + row) && inside chroma (fieldAt d 20 4 * (rows / 2 - 1) + row) &&
        inside out cap
      let key := (fieldAt d 30 1, c.rid)
      let known := (u.die die).streams.contains key || decide ((u.die die).streams.length < 16)
      (kinds = false → step = .next (ends u (statusWord 1 0))) ∧
      (kinds = true → frameOk d = false → step = .next (ends u (statusWord 2 0))) ∧
      (kinds = true → frameOk d = true → known = false → step = .next (ends u (statusWord 7 0))) ∧
      (kinds = true → frameOk d = true → known = true →
        step = .next ((({ u with freeCtr := u.freeCtr + 1 } : State).onDie die (fun x =>
          { x with streams := if x.streams.contains key then x.streams else x.streams ++ [key] })).encGoes r die idx
            { c with listed := d, frame := some d, label := u.freeCtr
                     rows := planeAddrs luma (fieldAt d 16 4) row rows ++ planeAddrs chroma (fieldAt d 20 4) row (rows / 2) } d))) ∧
    (c.frame = none → c.desc.toNat + 128 ≤ 2 ^ 56 → c.desc.toNat % 64 = 0 →
      let at_ := c.desc.toNat + c.listed.length
      let n := 128 - c.listed.length
      ∀ u e, s.readVirt (.enc die) r.pid (some c.rid) c.super at_ n = (u, .error e) → ∀ v l,
      u.readVirt (.enc die) r.pid (some c.rid) c.super at_ (min n (e.2 - at_)) = (v, .ok l) →
      step = .next ((v.engineFault c.rid die 4 .read e).onDie die (fun x =>
        { x with encCmds := setAt x.encCmds idx { c with listed := c.listed ++ l.map Prod.fst, parked := true } }))) ∧
    (
      let out := fieldAt d 48 8
      let cap := fieldAt d 56 4
      let total := Config.bitstreamSize c.label % 2 ^ 32
      let n := min total cap
      let bytes := fun k => (List.range (k - c.wrote)).map (fun i =>
        (out + c.wrote + i, Config.bitstreamByte (Nat.pair c.label (c.wrote + i)), false))
      let refused := woRefused s c.rid 4 ((List.range (n - c.wrote)).map (out + c.wrote + ·))
      (refused = none → ∀ w, s.engineStore (.enc die) c.issuer (bytes n) = (w, .ok ()) → ∃ x : State, x.mem = w.mem ∧
        s.encWrites die idx c d = ends x (if cap < total then statusWord 6 cap else statusWord 0 total)) ∧
      (∀ va, refused = some va → ∀ w, s.engineStore (.enc die) c.issuer (bytes (max c.wrote (va / 8 * 8 - out))) = (w, .ok ()) →
        ∃ x : State, x.mem = w.mem ∧ s.encWrites die idx c d = ends x (statusWord 4 (max c.wrote (va / 8 * 8 - out)))) ∧
      (refused = none → ∀ w e, s.engineStore (.enc die) c.issuer (bytes n) = (w, .error e) →
        s.encWrites die idx c d = ((w.engineStore (.enc die) c.issuer (bytes (e.2 - out))).1.engineFault c.rid die 4 .write e).onDie die
          (fun x => { x with encCmds := setAt x.encCmds idx { c with wrote := max c.wrote (e.2 - out), parked := true } })))

/-- A copy, gather, put, copyw or encoder command is tested, performs its units in order, and ends with the code its rule gives, its barrier credited. That a
command performs the units left in ascending order is log 41's choice. -/
def Obligations.CopySteps : Prop :=
  Says.CopyEnds ∧ Says.CopyStarts ∧ Says.CopyUnits ∧ Says.CopyDones ∧ Says.CopyCredits ∧ Says.EncoderEnds ∧ Says.CommandLines

/-! ### The matrix unit -/

/-- A matrix instruction stands in its check with the operands as read (09 R186). -/
def inCheck (s : State) (fn d : Nat) (addr scales mask b : Word) (f : BitVec 4 × BitVec 4 × Nat × Bool) (src : Vec)
    (marks : BitVec 8) : State :=
  let op : MatOp :=
    { fn := fn, d := d, addr := addr, scales := scales, mask := mask, b := b, af := f.1, bf := f.2.1, scm := f.2.2.1
      z := f.2.2.2, src := src, srcMarks := marks }
  s.onMe (fun t => { t with wait := .check op })

/-- 09 R180, R183, R186, R192–R197: matrix instructions go into their check with their operands and formats; S[a+1] is read only
with a scale mode; one that finds a `copyw` of its strand under way waits for it before its first test; `ctld` acts at issue. -/
def Says.MatrixWords : Prop :=
  ∀ (s : State) (g : Guard) (d : AReg) (vd va : VReg) (a b : SReg) (f : BitVec 4 × BitVec 4 × Nat × Bool),
    s.enginesOut s.cur < 16 →
    let t := s.me
    (s.copywOut s.cur = true → ∀ i ∈ [Instr.mma g d a b, .mmas g d a b, .mmal g d a b, .mzero g d, .mld g d a, .mst g d a,
      .prune g vd va], exec i s = .next (s.onMe (fun x => { x with wait := .stalled, inCheck := true }))) ∧
    (∀ x ∈ [((Instr.mma g d a b), 0), (.mmas g d a b, 1), (.mmal g d a b, 2)], s.copywOut s.cur = false → matFmt x.2 t.pfxr = some f →
      let ss := if f.2.2.1 = 0 then [a, a + 2, b] else [a, a + 1, a + 2, b]
      s.acts .mode g ss = true → s.clean ss = true →
      exec x.1 s = .next (inCheck s x.2 d.toNat (t.rd a) (t.rd (a + 1)) (t.rd (a + 2)) (t.rd b) f 0 0)) ∧
    (s.acts .none g [] = true → s.copywOut s.cur = false → exec (.mzero g d) s = .next (inCheck s 3 d.toNat 0 0 0 0 (0, 0, 0, false) 0 0)) ∧
    (s.acts .none g [a] = true → s.clean [a] = true → s.copywOut s.cur = false →
      exec (.mld g d a) s = .next (inCheck s 4 d.toNat (t.rd a) 0 0 0 (0, 0, 0, false) 0 0) ∧
      exec (.mst g d a) s = .next (inCheck s 5 d.toNat (t.rd a) 0 0 0 (0, 0, 0, false) 0 0)) ∧
    (s.actsV .mode g [] [vd, va] [] = true → s.copywOut s.cur = false → matFmt 6 t.pfxr = some f →
      exec (.prune g vd va) s = .next (inCheck s 6 vd.toNat 0 0 0 0 f (t.rdV va) (t.markV va))) ∧
    (s.acts .none g [a, a + 1] = true → s.clean [a, a + 1] = true →
      exec (.ctld g a) s = .next ((s.onCore (coreOf s.cur) (fun c => { c with
        table := t.rd (a + 1) ++ t.rd a, tableOwner := some t.rid })).retire)) ∧
    (bitOf t.pfxr 60 = false → matFmt 0 t.pfxr = some (2, 2, 0, false) ∧ matFmt 1 t.pfxr = some (4, 4, 0, false) ∧
      matFmt 2 t.pfxr = some (6, 6, 0, false) ∧ matFmt 6 t.pfxr = some (4, 0, 0, false))

/-- 09 R186, R187, R188: a check that may run either takes the trap of its first failing test or accepts the instruction: it
queues at the core with its copy of the code table, and the strand goes on. A store of an accumulator is irrevocable. That within the
test of the operands A comes before the scales and these before B is the model's choice (log 65). -/
def Says.MatrixAccepts : Prop :=
  ∀ (s : State) (sid : Nat) (op : MatOp), (s.strand sid).wait = .check op →
    let t := s.strand sid
    let k := s.core (coreOf sid)
    let step := exec (.matrixAccept sid) s
    (matReady s sid op = false → step = .next s) ∧
    (matReady s sid op = true →
      (∀ c d, matCheck k t.rid op = some (c, d) → step = .next (s.takeTrap sid c (BitVec.ofNat 64 d))) ∧
      (matCheck k t.rid op = none → op.fn = 5 → t.dual.isSome = true → step = .next (s.takeTrap sid 0x13 0)) ∧
      (matCheck k t.rid op = none → (op.fn = 5 → t.dual = none) →
        let u := if op.fn = 5 then s.irrevAct sid else s
        ∃ v, step = .next v ∧
          (v.core (coreOf sid)).mq = (u.core (coreOf sid)).mq ++
            [{ op := op, sid := sid, taskNo := t.taskNo, table := (u.core (coreOf sid)).table }] ∧
          (v.strand sid).pc = t.pc + 4 ∧ (v.strand sid).wait = .no)) ∧
    (op.fn < 3 ∨ op.fn = 4 ∨ op.fn = 5 → spadAligned op.addr = false → matCheck k t.rid op = some (0x20, 0)) ∧
    (op.fn < 3 → spadAligned op.addr = true → op.scm ≠ 0 → spadAligned op.scales = false →
      matCheck k t.rid op = some (0x20, 1)) ∧
    (op.fn < 3 → spadAligned op.addr = true → op.scm = 0 → op.b.toNat % 64 = 0 →
      op.b.toNat + (matShape op.fn op.af op.bf).2.2.1 ≤ 65536 → k.owner ≠ some t.rid → matCheck k t.rid op = some (0x21, 0))

/-- Each matrix instruction goes into its check with operands and formats; ctld acts at issue; an accepted instruction enters the unit. The order within the operands' test is log 65's choice. -/
def Obligations.MatrixIssue : Prop := Says.MatrixWords ∧ Says.MatrixAccepts

/-- 09 R184, R185, R190, 04 R74–R76: each output of a multiply: with both mask bits set the exact sum of the old element and
the products, rounded once; else the old element, or 0 under `.z`. -/
def Says.MatrixProducts : Prop :=
  ∀ (s : State) (x : Accepted) (acc : BitVec 32768) (marks : BitVec 1024) (i j : Nat), i < 32 → j < 32 →
    let op := x.op
    let e := 32 * i + j
    let sh := matShape op.fn op.af op.bf
    let rid := (s.strand x.sid).rid
    let a := spadOperand s (tileOf x.sid) rid op.addr (32 * sh.1 * sh.2.1)
    let sc := if op.scm = 0 then (0, 0) else spadOperand s (tileOf x.sid) rid op.scales (scaleBytes op.scm (sh.1 / 32))
    let terms := (List.range sh.1).filterMap
      (matTerm op (s.core (coreOf x.sid)) x.table sh.1 sh.2.1 a.1 a.2 sc.1 sc.2 i j)
    let old : BitVec 32 := bits acc (32 * e) 32
    let out := if bitOf op.mask i && bitOf op.mask (32 + j) then matOut op terms old (bitOf marks e)
      else if op.z then (0, false) else (old, bitOf marks e)
    bits (matMul s x acc marks).1 (32 * e) 32 = out.1 ∧ bitOf (matMul s x acc marks).2 e = out.2

/-- 09 R181, R182, R184, R190, 04 R69, R73: the term of element q of the row and column of an output: the stored element of B, of a
sparse operand only where the metadata keeps it, times the element of A and the scales of the mode; its mark is that of the element of
A, of a scale or of the element of B. That marked metadata mark nothing is log 40's reading of 09 R190. -/
def Says.MatrixTerms : Prop :=
  ∀ (op : MatOp) (k : Core) (table : BitVec 128) (kk asz a am sc sm i j q : Nat),
    let p := (kk * i + q) * asz
    let x := natFld a (8 * p) (8 * asz)
    let off := op.b.toNat
    let scales : Option Nat × Option Nat :=
      if op.scm = 1 ∨ op.scm = 5 then (some i, none) else if op.scm = 2 ∨ op.scm = 6 then (none, some j)
      else if op.scm = 3 ∨ op.scm = 7 then (some i, some (32 + j))
      else if op.scm = 4 then (some (kk / 32 * i + q / 32), some (32 * (kk / 32) + kk / 32 * j + q / 32)) else (none, none)
    let scale : Option Nat → FVal := fun n => match n with
      | none => .fin false 1
      | some n => if op.scm ≤ 4 then (if natFld sc (8 * n) 8 = 255 then .nan else .fin false (dyadic 1 ((natFld sc (8 * n) 8 : Int) - 127)))
        else FFmt.f32.decode (natFld sc (32 * n) 32)
    let marked : Option Nat → Bool := fun n => match n with
      | none => false
      | some n => if op.scm ≤ 4 then natFld sm n 1 != 0 else natFld sm (4 * n) 4 != 0
    let term := fun (o : Nat) (prod : FVal) => some (prod.mul ((scale scales.1).mul (scale scales.2)),
      natFld am p asz != 0 || bitOf k.wPoison ((off + o) / 64) || marked scales.1 || marked scales.2)
    let gives := fun r => matTerm op k table kk asz a am sc sm i j q = r
    let times := fun y => (matElem op.af table x).mul (matElem op.bf table y)
    (op.fn = 0 → op.bf = 7 → gives (term (32 * j + q / 2) (times (fld k.weight (8 * (off + 32 * j) + 4 * q) 4)))) ∧
    (op.fn = 0 → op.bf ≠ 7 → op.af = 2 ∨ op.af = 3 →
      gives (term (64 * j + 2 * q) (times (fld k.weight (8 * (off + 64 * j + 2 * q)) 16)))) ∧
    (op.fn = 0 → op.bf ≠ 7 → op.af ≠ 2 → op.af ≠ 3 → gives (term (64 * j + q) (times (fld k.weight (8 * (off + 64 * j + q)) 8)))) ∧
    (op.fn = 2 → gives (term (128 * j + q) (l6mul x (fld k.weight (8 * (off + 128 * j + q)) 8)))) ∧
    (op.fn = 1 →
      let n := fld k.weight (8 * (off + 2048 + 16 * j) + 4 * (q / 4)) 4
      let kept := fun o => gives (term o (times (fld k.weight (8 * (off + o)) 8)))
      (n % 4 = q % 4 → kept (64 * j + 2 * (q / 4))) ∧
      (n % 4 ≠ q % 4 → n / 4 = q % 4 → kept (64 * j + 2 * (q / 4) + 1)) ∧
      (n % 4 ≠ q % 4 → n / 4 ≠ q % 4 → gives none))

/-- 04 R70, R71: the exact linear value of an l6 product: NaN with a NaN, 0 with a zero, else the constant of the sum of the logarithms. -/
def Says.LogProducts : Prop :=
  ∀ (x y : Nat), x < 64 → y < 64 →
    let table : List Nat := [0x3F800000, 0x3F9837F0, 0x3FB504F3, 0x3FD744FD]
    let log : Nat → Int := fun n => if n % 32 < 16 then (n % 32 : Nat) else (n % 32 : Nat) - 32
    let sum := log x + log y
    (x = 0x30 ∨ y = 0x30 → l6mul x y = .nan) ∧
    (x ≠ 0x30 → y ≠ 0x30 → x = 0x10 ∨ y = 0x10 → ∃ z, l6mul x y = .fin z 0) ∧
    (x % 32 ≠ 16 → y % 32 ≠ 16 → l6mul x y = .fin ((x / 32 + y / 32) % 2 == 1)
      ((FFmt.f32.decode ((table[(sum % 4).toNat]?).getD 0)).rat * (2 : ℚ) ^ (sum / 4)))

/-- 04 R74, R75, R76, 09 R185, R190: an enabled output: in i32 the old element plus the sum of the products modulo 2^32, in FP32 their
exact sum rounded once; under `.z` the old element counts as 0. It is marked when a term is, or the old element is that it reads. -/
def Says.MatrixOutputs : Prop :=
  ∀ (op : MatOp) (terms : List (FVal × Bool)) (ints : List (Int × Bool)) (c : BitVec 32) (cm : Bool),
    (op.af = 8 → matOut op (ints.map (fun x => (.fin (decide (x.1 < 0)) (x.1.natAbs : ℚ), x.2))) c cm =
      (BitVec.ofInt 32 ((if op.z then 0 else c.toInt) + (ints.map Prod.fst).sum), ints.any Prod.snd || (!op.z && cm))) ∧
    (op.af ≠ 8 → matOut op terms c cm =
      (BitVec.ofNat 32 (FFmt.f32.ofVal .rne (sumVals ((if op.z then .fin false 0 else FFmt.f32.decode c.toNat) :: terms.map Prod.fst))),
        terms.any Prod.snd || (!op.z && cm)))

/-- 09 R195: `mld` reads 4,096 bytes of the scratchpad into the accumulator, element by element with their marks, and ends its errors (log 32);
`mst` writes them back. 09 R196: `prune` writes the two kept bytes of each group of four, the metadata nibbles above, and 0 in the rest. -/
def Says.AccumulatorMoves : Prop :=
  ∀ (s : State) (x : Accepted) (f : FFmt) (v : Vec) (m : BitVec 8),
    let t := s.strand x.sid
    let d : AReg := BitVec.ofNat 2 x.op.d
    let segs := ((s.region t.rid).map Region.segs).getD []
    let off := x.op.addr.toNat - spadBase
    let r := fun j => (s.tile (tileOf x.sid)).readSpad segs off j
    (x.op.fn = 4 →
      let u := (s.matrixDo x).strand x.sid
      s.onlyStrand (s.matrixDo x) x.sid ∧ { t with a := u.a, aMark := u.aMark, aErr := u.aErr } = u ∧ u.errA d = 0 ∧
      (∀ j < 4096, byteAt (u.rdA d) j = (r j).1) ∧
      (∀ e < 1024, bitOf (u.aMark[d.toNat]'d.isLt) e = (List.range 4).any (fun i => (r (4 * e + i)).2)) ∧
      (∀ b, b ≠ d → u.rdA b = t.rdA b)) ∧
    (x.op.fn = 5 → s.matrixDo x = s.onTile (tileOf x.sid) (fun y => y.writeSpad segs off
      ((List.range 4096).map (fun i => (i, byteAt (t.rdA d) i, bitOf (t.aMark[d.toNat]'d.isLt) (i / 4)))))) ∧
    (x.op.fn = 6 →
      let p := pruneVec (if x.op.af = 5 then FFmt.e5m2 else FFmt.fp8) x.op.src x.op.srcMarks
      s.matrixDo x = s.setStrand x.sid (t.apply (.v (BitVec.ofNat 5 x.op.d) p.1 (BitVec.allOnes 64) p.2))) ∧
    (let p := pruneVec f v m
     (∀ g < 16, ∀ k, k = pruneKeep f ((List.range 4).map (fun i => fld v (8 * (4 * g + i)) 8)) → k.1 < 4 → k.2 < 4 →
       byteAt p.1 (2 * g) = byteAt v (4 * g + k.1) ∧ byteAt p.1 (2 * g + 1) = byteAt v (4 * g + k.2) ∧
       fld p.1 (256 + 4 * g) 4 = k.1 + 4 * k.2) ∧
     (∀ i, 320 ≤ i → p.1.getLsbD i = false) ∧
     (∀ u < 8, bitOf p.2 u = (decide (u < 4) && (bitOf m (2 * u) || bitOf m (2 * u + 1)) || (u == 4 && m != 0))))

/-- 09 R186, R189, R190, R194, R179, 04 R73: the unit completes its oldest instruction: multiplies, clears, loads and stores of an
accumulator, `prune`; an instruction of a task that is gone has no effect. An element with a parity error that a multiply reads as C
is marked and counted, once; one it does not read is not, and `.z`, `mzero` and `mld` end the error, which is log 32's choice. That a core
reset, which clears the buffer and the table, ends their poison too is log 78's. -/
def Says.MatrixCompletes : Prop :=
  ∀ (s : State) (core : Nat),
    ((s.core core).mq = [] → exec (.matrixComplete core) s = .next s) ∧
    (∀ x r, (s.core core).mq = x :: r →
      let u := s.onCore core (fun k => { k with mq := r })
      let d : AReg := BitVec.ofNat 2 x.op.d
      exec (.matrixComplete core) s =
        .next (if (s.strand x.sid).taskNo = x.taskNo then (u.matrixDo x).wake x.sid else u) ∧
      (x.op.fn < 3 →
        let t := u.strand x.sid
        let m := t.aMark[x.op.d % 4]'(Nat.mod_lt _ (by decide))
        let hit := t.errA d &&& readAsC x.op
        let r := matMul u x (t.rdA d) (m ||| hit)
        let n := (List.range 1024).countP (bitOf hit)
        let die := u.die (dieOf x.sid)
        (t.errA d = 0 → u.matrixDo x = u.setStrand x.sid (t.wrA d r.1 r.2)) ∧
        (t.errA d ≠ 0 → die.uecount < 2 ^ 64 →
          (u.matrixDo x).strand x.sid = (t.wrA d r.1 r.2).setErrA d (if x.op.z then 0 else t.errA d &&& ~~~ readAsC x.op) ∧
          ((u.matrixDo x).die (dieOf x.sid)).uecount = min (die.uecount + n) (2 ^ 64 - 1))) ∧
      (∀ e < 1024, bitOf (readAsC x.op) e = (!x.op.z && bitOf x.op.mask (e / 32) && bitOf x.op.mask (32 + e % 32))) ∧
      (x.op.fn = 3 → u.matrixDo x = u.setStrand x.sid ((u.strand x.sid).wrA d 0 0)) ∧
      (x.op.fn = 5 → (u.matrixDo x).strands = u.strands ∧ (u.matrixDo x).mem = u.mem)) ∧
    exec (.coreReset core) s = .next (s.onCore core (fun k =>
      { k with weight := 0, form := 0, wPoison := 0, owner := none, table := 0, tableOwner := none })) ∧
    (pruneKeep FFmt.fp8 [0x38, 0xB8, 0x40, 0x30] = (0, 2) ∧ pruneKeep FFmt.fp8 [0, 0x80, 0, 0] = (0, 1) ∧
      pruneKeep FFmt.fp8 [0x7F, 0x30, 0x7E, 0xFF] = (0, 3))

/-- What an accepted matrix instruction computes and writes when it completes: the terms and outputs of a multiply, a load, a store, a prune. The exact
products and sums of values are those of ScansAndPacks. That it reads its operands when it completes is log 46's choice of a moment that 09 R189
leaves free; metadata, failed accumulator elements and the clearing of a buffer follow logs 40, 32 and 78, and the order of two NaNs of
`prune` log 79. -/
def Obligations.MatrixResults : Prop :=
  Says.MatrixProducts ∧ Says.MatrixTerms ∧ Says.LogProducts ∧ Says.MatrixOutputs ∧ Says.AccumulatorMoves ∧ Says.MatrixCompletes

/-! ### Trees -/

/-- 10 R210, R212, 05 R100: builder commands enter the builder of the issuing tile's die, irrevocable, their token pending. -/
def Says.BuilderCommands : Prop :=
  ∀ (s : State) (g : Guard) (acq : BitVec 1) (sc : BitVec 2) (t a b : SReg) (rel : BitVec 1),
    s.enginesOut s.cur < 16 → s.me.dual = none → acqReady s acq = true →
    let u := s.irrevAct s.cur
    let enters := fun kind operand => (((({ u with nextId := u.nextId + 1 } : State).onDie (dieOf u.cur) (fun d =>
      { d with builds := d.builds ++ [newBuild u kind t (u.me.rd a) operand acq rel sc] })).pendToken t).retire)
    (s.acts .none g [t, a, 0] = true → s.clean [a] = true →
      exec (.build g acq sc t a rel) s = .next (enters 0 0) ∧ exec (.refit g acq sc t a rel) s = .next (enters 1 0)) ∧
    (s.acts .none g [t, a, b] = true → s.clean [a, b] = true →
      exec (.rebal g acq sc t a b rel) s = .next (enters 2 (u.me.rd b)))

/-- 10 R213, R207, R206, R211: `gpin` at a header that reads: BAD_HEADER, EMPTY, PIN_LIMIT, or one act that adds a pin to the CURRENT
slot and records it, an acquire at pkg, and the baton. What is left of a pin budget, less what the region holds and what its children got, is
log 55's reading. -/
def Says.Pinning : Prop :=
  ∀ (s u : State) (c : BuildCmd) (d : Nat) (h : List Byte), c.kind = 3 → hdrAddrOk c.hdr = true → s.readHeader c d = (u, .ok h) →
    let left := ((u.region c.rid).map (fun r => r.pbudget - r.pused - r.pinsHeld)).getD 0
    (treeHeaderOk h = false → s.pinDo c d = (u, .ok (buildStatus 5 0))) ∧
    (treeHeaderOk h = true →
      (currentSlot h = none ∨ fieldAt h 20 4 = 0 → s.pinDo c d = (u, .ok (buildStatus 6 0))) ∧
      (∀ i, currentSlot h = some i → fieldAt h 20 4 ≠ 0 →
        let x := slotAt h i
        (left = 0 ∨ 4096 ≤ (u.die d).pins.length → s.pinDo c d = (u, .ok (buildStatus 7 0))) ∧
        (left ≠ 0 → (u.die d).pins.length < 4096 →
          ∀ v b, u.actHeader c d h (putSlot h i { x with pins := x.pins + 1 }) = (v, .ok b) →
          (b = false → s.pinDo c d = (v, .ok (buildStatus 10 0))) ∧
          (b = true → s.pinDo c d = ((State.hold (v.onDie d (fun y => { y with pins := y.pins ++
              [{ rid := c.rid, hdr := c.hdr.toNat, gen := BitVec.ofNat 32 x.gen }] })) c.rid
                (fun r => { r with pinsHeld := r.pinsHeld + 1 })).acquire c.sid 2,
            .ok (BitVec.ofNat 64 (x.root + 2 ^ 32 * x.gen)))))))

/-- 10 R214, R208, R211: `gunpin`: BAD_BATON and no change where no die of the machine holds the entry, the issuing die searched first;
else one act takes 1 from the generation's pins, with reclamation, and the entry goes. -/
def Says.Unpinning : Prop :=
  ∀ (s u : State) (c : BuildCmd) (d : Nat), c.kind = 4 →
    let p : Pin := { rid := c.rid, hdr := c.hdr.toNat, gen := bits c.depth 32 32 }
    ((s.die d).pins.contains p = true → s.pinDie p.rid p.hdr p.gen d = some d) ∧
    (s.pinDie p.rid p.hdr p.gen d = none → s.pinDo c d = (s, .ok (buildStatus 8 0))) ∧
    (∀ i h k, s.pinDie p.rid p.hdr p.gen d = some i → s.readHeader c d = (u, .ok h) →
      findAt (fun x => x.state != 0 && x.gen == p.gen.toNat) (slots h) = some k →
      let y := putSlot h k { slotAt h k with pins := (slotAt h k).pins - 1 }
      ∀ v, u.actHeader c d h (if (slotAt h k).pins ≤ 1 then reclaim y else y) = (v, .ok true) →
      s.pinDo c d = (State.hold (v.onDie i (fun x => { x with pins := x.pins.erase p })) c.rid
        (fun r => { r with pinsHeld := r.pinsHeld - 1 }), .ok 0))

/-- 10 R215, R205: `bquery` reads one value: BAD_HEADER, RANGE, EMPTY, or the selected figure in [63:32]. -/
def Says.Queries : Prop :=
  ∀ (s u : State) (c : BuildCmd) (d : Nat) (h : List Byte), c.kind = 5 → hdrAddrOk c.hdr = true → s.readHeader c d = (u, .ok h) →
    (treeHeaderOk h = false → s.pinDo c d = (u, .ok (buildStatus 5 0))) ∧
    (treeHeaderOk h = true →
      (7 < c.depth.toNat → s.pinDo c d = (u, .ok (buildStatus 9 0))) ∧
      (1 ≤ c.depth.toNat → c.depth.toNat ≤ 6 → fieldAt h 20 4 = 0 → s.pinDo c d = (u, .ok (buildStatus 6 0))) ∧
      (c.depth = 0 → s.pinDo c d = (u, .ok (buildStatus 0 (fieldAt h 20 4)))) ∧
      (c.depth = 7 → s.pinDo c d = (u, .ok (buildStatus 0 (largestRun h)))) ∧
      (fieldAt h 20 4 ≠ 0 →
        (c.depth = 1 → s.pinDo c d = (u, .ok (buildStatus 0 (fieldAt h 48 4)))) ∧
        (c.depth = 2 → s.pinDo c d = (u, .ok (buildStatus 0 (fieldAt h 62 1)))) ∧
        (c.depth = 3 → s.pinDo c d = (u, .ok (buildStatus 0 (fieldAt h 52 4)))) ∧
        (c.depth = 4 → s.pinDo c d = (u, .ok (buildStatus 0 (fieldAt h 60 2)))) ∧
        (c.depth = 5 → s.pinDo c d = (u, .ok (buildStatus 0 (fieldAt h 56 4)))) ∧
        (∀ i, c.depth = 6 → currentSlot h = some i → s.pinDo c d = (u, .ok (buildStatus 0 (slotAt h i).pins)))))

/-- 10 R213, R214, R215: `gpin`, `gunpin` and `bquery` act at once and write their status or baton; where the header does not
translate they wait in the builder. -/
def Says.PinsAndQueries : Prop :=
  ∀ (s : State) (g : Guard) (t a b : SReg), s.enginesOut s.cur < 16 → s.clean [a, b] = true →
    let acts : Instr → State → Nat → Word → Prop := fun i u kind operand =>
      let c := newBuild u kind t (u.me.rd a) operand 0 0 0
      let d := dieOf u.cur
      (∀ v x, u.pinDo c d = (v, .ok x) → exec i s = .next ((v.dropWritten c.sid c.no).result t x false)) ∧
      (∀ v e, u.pinDo c d = (v, .error e) → exec i s =
        .next ((((v.engineFault c.rid d 2 (if kind = 5 then .read else .write) e).onDie d
          (fun y => { y with builds := y.builds ++ [{ c with parked := true }] })).pendToken t).retire))
    (s.acts .none g [t, a, 0] = true → s.me.dual = none → acts (.gpin g t a) (s.irrevAct s.cur) 3 0) ∧
    (s.acts .none g [t, a, b] = true →
      (s.me.dual = none → acts (.gunpin g t a b) (s.irrevAct s.cur) 4 ((s.irrevAct s.cur).me.rd b)) ∧
      acts (.bquery g t a b) s 5 (s.me.rd b)) ∧
    (∀ (c : BuildCmd) (d : Nat), c.kind ≠ 4 → hdrAddrOk c.hdr = false → s.pinDo c d = (s, .ok (buildStatus 5 0)))

/-- build, refit, rebal, gpin, gunpin and bquery enter or act with their statuses (what is left of a pin budget: log 55). -/
def Obligations.TreeCommands : Prop :=
  Says.BuilderCommands ∧ Says.PinsAndQueries ∧ Says.Pinning ∧ Says.Unpinning ∧ Says.Queries

/-- 10 R206, R208, R199, R198, R212: a publication puts the new generation into the slot after the CURRENT one, which it retires;
HEAD and GEN follow, the quality figures of the new generation, DROPPED of a build and REFITS, and the lock is released. -/
def Says.Publication : Prop :=
  ∀ (c : BuildCmd) (h : List Byte), h.length = 256 →
    c.start < 2 ^ 32 → c.nodes < 2 ^ 32 → c.start + c.nodes + (c.prims.length + 15) / 16 < 2 ^ 32 →
    let p := published c h
    slotAt p (publishSlot h) = { gen := nextGen h, root := c.start, nodes := c.nodes, pins := 0, state := 1 } ∧
    (∀ i, currentSlot h = some i → slotAt p i = { slotAt h i with state := 2 }) ∧
    fieldAt p 20 4 = nextGen h ∧ fieldAt p 12 4 = c.start + c.nodes + (c.prims.length + 15) / 16 ∧ fieldAt p 44 4 = 0 ∧
    fieldAt p 48 4 = c.sah % 2 ^ 32 ∧ fieldAt p 52 4 = c.overlap % 2 ^ 32 ∧ fieldAt p 62 1 = c.maxDepth % 256 ∧
    fieldAt p 56 4 = (if c.kind = 0 then c.dropped % 2 ^ 32 else fieldAt h 56 4) ∧
    fieldAt p 60 2 = (if c.kind = 0 then 0 else if c.kind = 1 then min 65535 (fieldAt h 60 2 + 1)
      else if c.depth = 0 then 0 else fieldAt h 60 2) ∧
    (fieldAt h 20 4 = 0xFFFFFFFF → nextGen h = 1) ∧
    (∀ i < 12, p[i]? = h[i]?)

/-- 10 R209, R211, R212: the lock: commands of one strand on one tree take it in issue order; the header and the operands are checked
with the lock held; a page fault parks the command, a failure gives the lock back. -/
def Says.Locking : Prop :=
  ∀ (s : State) (die idx : Nat),
    ((s.die die).builds[idx]? = none → exec (.builderLock die idx) s = .next s ∧ exec (.builderStep die idx) s = .next s ∧
      exec (.publish die idx) s = .next s) ∧
    (∀ c, (s.die die).builds[idx]? = some c → buildRuns s c = true → c.phase = 0 → c.kind ≤ 2 →
      (s.buildBefore c = true → exec (.builderLock die idx) s = .next s) ∧
      (s.buildBefore c = false →
        (hdrAddrOk c.hdr = false → exec (.builderLock die idx) s = .next (s.buildEnds die idx c (buildStatus 5 0))) ∧
        (hdrAddrOk c.hdr = true →
          (∀ u e, s.readHeader c die = (u, .error e) → exec (.builderLock die idx) s = .next (u.buildParks die idx c .read e)) ∧
          (∀ u h, s.readHeader c die = (u, .ok h) →
            (fieldAt h 44 4 ≠ 0 → exec (.builderLock die idx) s = .next u) ∧
            (fieldAt h 44 4 = 0 → ∀ v b, u.actHeader c die h (putField h 44 4 (1 + die)) = (v, .ok b) →
              let c' := { c with phase := 1, header := putField h 44 4 (1 + die) }
              (b = false → exec (.builderLock die idx) s = .next (v.buildEnds die idx c (buildStatus 10 0xFFFFFFFF))) ∧
              (b = true → exec (.builderLock die idx) s = .next (match buildCheck c' h with
                | some x => v.buildFails die idx c' x
                | none => v.setBuild die idx
                  (if c.kind = 0 then { c' with phase := 2, order := List.range (fieldAt h 32 4) } else c'))))))))

/-- 10 R212: a `refit` or `rebal` reads the topology and the order list of the CURRENT generation, in one step (the model's choice, log
46); each primitive of the order is then read in its turn, unit by unit (R201, 03 R53), and kept, dropped and counted, or found
degenerate: the first in the order list ends a `refit` or `rebal` (the model's reading, log 45). A unit that the builder has read
before the others of its primitive gives that primitive the bytes that it held then, and is gone for the next. -/
def Says.Scanning : Prop :=
  ∀ (s : State) (die idx : Nat) (c : BuildCmd), (s.die die).builds[idx]? = some c → buildRuns s c = true → c.kind ≤ 2 →
    let read : State → Nat → Nat → State × Except (XErr × Nat) (List (Byte × Bool)) := fun s va n =>
      s.readVirt (.builder die) (s.pidOfRegion c.rid) (some c.rid) c.super va n
    let h := c.header
    (c.phase = 1 →
      let sl := slotAt h ((currentSlot h).getD 0)
      let at_ := fieldAt h 0 8 + 64 * sl.root
      (∀ u e, read s at_ (64 * sl.nodes) = (u, .error e) → exec (.builderStep die idx) s = .next (u.buildParks die idx c .read e)) ∧
      (∀ u l, read s at_ (64 * sl.nodes) = (u, .ok l) →
        let b := l.map Prod.fst
        ∀ v o, u.readVirt (.builder die) (s.pidOfRegion c.rid) (some c.rid) c.super (fieldAt h 0 8 + 64 * (sl.root + sl.nodes))
            (4 * fieldAt b 52 4) = (v, .ok o) →
        exec (.builderStep die idx) s = .next (v.setBuild die idx { c with
          phase := 2
          topo := (List.range sl.nodes).map (fun i => (fieldAt b (64 * i + 40) 4, fieldAt b (64 * i + 44) 4, fieldAt b (64 * i + 52) 4))
          order := (List.range (fieldAt b 52 4)).map (fun i => fieldAt (o.map Prod.fst) (4 * i) 4) }))) ∧
    (c.phase = 2 → ∀ i rest, c.order = i :: rest →
      let kind := fieldAt h 36 1
      let at_ := fieldAt h 24 8 + primSize kind * i
      (∀ u e, read s at_ (primSize kind) = (u, .error e) → exec (.builderStep die idx) s = .next (u.buildParks die idx c .read e)) ∧
      (∀ u l, read s at_ (primSize kind) = (u, .ok l) →
        let p := primOf kind i ((readOver c.ahead at_ l).map Prod.fst)
        (p.degenerate kind (fieldAt h 37 1) = false →
          exec (.builderStep die idx) s =
            .next (u.setBuild die idx { c with order := rest, ahead := [], prims := c.prims ++ [p] })) ∧
        (p.degenerate kind (fieldAt h 37 1) = true →
          (c.kind ≠ 0 ∨ (fieldAt h 40 1).testBit 0 = true →
            exec (.builderStep die idx) s = .next (u.buildFails die idx c (buildStatus 3 i))) ∧
          (c.kind = 0 → (fieldAt h 40 1).testBit 0 = false →
            exec (.builderStep die idx) s =
              .next (u.setBuild die idx { c with order := rest, ahead := [], dropped := c.dropped + 1 })))) ∧
      (∀ va, va % 8 = 0 → at_ ≤ va → va + 8 ≤ at_ + primSize kind →
        (∀ u e, read s va 8 = (u, .error e) → s.buildAhead die idx va = s) ∧
        (∀ u l, read s va 8 = (u, .ok l) → ∃ r : UnitRead, r.unit = va / 8 ∧ r.bytes = l ∧
          s.buildAhead die idx va = u.setBuild die idx { c with ahead := r :: c.ahead })) ∧
      (∀ va, va % 8 ≠ 0 ∨ va < at_ ∨ at_ + primSize kind < va + 8 → s.buildAhead die idx va = s)) ∧
    (c.phase ≠ 2 → ∀ va, s.buildAhead die idx va = s) ∧
    ∀ (ahead : List UnitRead) (va i : Nat) (l : List (Byte × Bool)), (readOver ahead va l).length = l.length ∧
      ((∀ r ∈ ahead, r.unit ≠ (va + i) / 8) → (readOver ahead va l)[i]? = l[i]?) ∧
      (∀ r, r.unit = (va + i) / 8 → r.bytes.length = 8 → i < l.length →
        (readOver (r :: ahead) va l)[i]? = r.bytes[(va + i) % 8]?)

/-- 10 R201, R205, R211, R212: which primitives are degenerate, and what the plan of a command is: EMPTY without a kept primitive, OOM
where no run of 2n - 1 + ⌈n/16⌉ blocks is free, else the run with its blocks in order. -/
def Says.Plans : Prop :=
  ∀ (c : BuildCmd) (p : Prim) (kind summary : Nat),
    (p.degenerate kind summary = true ↔
      (∃ x ∈ p.coords, (f32Val x).isNan = true ∨ (f32Val x).isInf = true) ∨
      (kind = 1 ∧ ∃ k < 3, p.q (3 + k) < p.q k) ∨ (kind = 2 ∧ p.flat = true) ∨
      (summary ≠ 0 ∧ ((f32Val p.w).isNan = true ∨ (f32Val p.w).isInf = true ∨ f32Rat p.w < 0))) ∧
    let r := 2 * c.prims.length - 1 + (c.prims.length + 15) / 16
    (c.prims = [] → planBuild c = .error (buildStatus 6 0)) ∧
    (c.prims ≠ [] → startBlock c.header r = none → planBuild c = .error (buildStatus 2 r)) ∧
    (c.prims ≠ [] → ∀ start, startBlock c.header r = some start → ∃ c', planBuild c = .ok c' ∧ c'.phase = 3 ∧ c'.start = start ∧
      c'.prims = c.prims ∧ c'.header = c.header ∧ c'.dropped = c.dropped ∧
      (∀ k x, c'.blocks[k]? = some x → x.1 = start + k) ∧ (∀ m, c'.fail = some m → ∃ n, m = buildStatus 4 n))

/-- 10 R200, R202: the fields of a node over its primitives, none of them degenerate: its box, the least and the greatest of theirs
under the order of `fmin` and `fmax`; its centre and summary, each the exact value rounded once; its radius, the root of the greatest
squared distance to a corner, rounded up; its children, count, parent, depth and tag. -/
def Says.NodeContents : Prop :=
  ∀ (kind summary gen : Nat) (n : NodeRec), kind ≤ 2 → n.prims ≠ [] →
    (∀ p ∈ n.prims, p.degenerate kind summary = false ∧ ∀ x ∈ p.coords, x < 2 ^ 32) →
    let b := nodeBytes kind summary gen n
    let lo := fun k => fieldAt b (4 * k) 4
    let hi := fun k => fieldAt b (12 + 4 * k) 4
    let cen := fun k => fieldAt b (24 + 4 * k) 4
    let radius := fieldAt b 36 4
    let total := (n.prims.map (fun p => f32Rat p.w)).sum
    let dist := fun (x : Nat → ℚ) => ((List.range 3).map (fun k => (x k - f32Rat (cen k)) ^ 2)).sum
    let corner := fun (x : Nat → ℚ) => ∀ k < 3, x k = f32Rat (lo k) ∨ x k = f32Rat (hi k)
    b.length = 64 ∧
    (∀ k < 3, (∃ p ∈ n.prims, lo k = p.lo kind k) ∧
      ∀ p ∈ n.prims, (f32Val (p.lo kind k)).lessTotal (f32Val (lo k)) = false) ∧
    (∀ k < 3, (∃ p ∈ n.prims, hi k = p.hi kind k) ∧
      ∀ p ∈ n.prims, (f32Val (hi k)).lessTotal (f32Val (p.hi kind k)) = false) ∧
    (∀ k < 3, ∀ q, q = (if summary = 0 ∨ total = 0 then (f32Rat (lo k) + f32Rat (hi k)) / 2
        else (n.prims.map (fun p => f32Rat p.w * p.cq kind k)).sum / total) →
      (q ≠ 0 → cen k = FFmt.f32.round .rne false q) ∧ (q = 0 → cen k % 2 ^ 31 = 0)) ∧
    fieldAt b 48 4 = (if summary = 0 ∨ total = 0 then 0 else FFmt.f32.round .rne false total) ∧
    (∃ x, corner x ∧ (∀ y, corner y → dist y ≤ dist x) ∧
      ((radius < 0x7F800000 ∧ dist x ≤ f32Rat radius ^ 2 ∧ (radius = 0 ∨ f32Rat (radius - 1) ^ 2 < dist x)) ∨
        (radius = 0x7F800000 ∧ f32Rat 0x7F7FFFFF ^ 2 < dist x))) ∧
    fieldAt b 40 4 = n.c0 % 2 ^ 32 ∧ fieldAt b 44 4 = n.c1 % 2 ^ 32 ∧ fieldAt b 52 4 = n.prims.length % 2 ^ 32 ∧
    fieldAt b 56 4 = n.parent % 2 ^ 32 ∧ fieldAt b 60 3 = gen % 2 ^ 24 ∧ fieldAt b 63 1 = n.depth % 256

/-- 10 R203, R204: the two splits. MEDIAN: the axis of the greatest extent of the centroids, ties to the lower; the set in the order
of the centroid on it, then of the index; the first ⌈m/2⌉. SAH16: of all planes on all axes that leave no part empty the one of the
least cost, ties to the lower axis and then to the lower plane; MEDIAN where there is none. -/
def Says.Splits : Prop :=
  ∀ (kind : Nat) (l : List Prim), l ≠ [] →
    let lo := fun k => (cenBounds kind k l).1
    let hi := fun k => (cenBounds kind k l).2
    let m := splitMedian kind l
    let bin := fun (k : Nat) (p : Prim) => min 15 ((16 * (p.cq kind k - lo k) / (hi k - lo k)).floor.toNat)
    let part := fun (x : Nat × Nat) => (l.filter (fun p => decide (bin x.1 p < x.2)), l.filter (fun p => !decide (bin x.1 p < x.2)))
    let plane := fun (x : Nat × Nat) => x.1 < 3 ∧ 1 ≤ x.2 ∧ x.2 ≤ 15 ∧ lo x.1 < hi x.1 ∧ (part x).1 ≠ [] ∧ (part x).2 ≠ []
    let cost := fun (x : Nat × Nat) =>
      (boxOf kind (part x).1).area * (part x).1.length + (boxOf kind (part x).2).area * (part x).2.length
    (∀ k, (∃ p ∈ l, p.cq kind k = lo k) ∧ (∃ p ∈ l, p.cq kind k = hi k) ∧ ∀ p ∈ l, lo k ≤ p.cq kind k ∧ p.cq kind k ≤ hi k) ∧
    (∀ k < 3, ((∃ p ∈ l, f32Rat (p.lo kind k) = (boxOf kind l).lo k) ∧ ∀ p ∈ l, (boxOf kind l).lo k ≤ f32Rat (p.lo kind k)) ∧
      ((∃ p ∈ l, f32Rat (p.hi kind k) = (boxOf kind l).hi k) ∧ ∀ p ∈ l, f32Rat (p.hi kind k) ≤ (boxOf kind l).hi k)) ∧
    (m.1 ++ m.2).Perm l ∧ m.1.length = (l.length + 1) / 2 ∧
    (∃ ax < 3, (∀ k < 3, hi k - lo k ≤ hi ax - lo ax ∧ (k < ax → hi k - lo k < hi ax - lo ax)) ∧
      (m.1 ++ m.2).Pairwise (fun p q => p.cq kind ax < q.cq kind ax ∨ (p.cq kind ax = q.cq kind ax ∧ p.idx ≤ q.idx))) ∧
    ((∀ x, ¬ plane x) → splitSah kind l = m) ∧
    ((∃ x, plane x) → ∃ x, plane x ∧ splitSah kind l = part x ∧ ∀ y, plane y →
      cost x < cost y ∨ (cost x = cost y ∧ (x.1 < y.1 ∨ (x.1 = y.1 ∧ x.2 ≤ y.2))))

/-- 10 R200, R203, R212: the tree of a command: grown for a build; of a `refit` the topology it has read; of a `rebal` that topology with
the nodes at the depth it names grown anew from their primitives in ascending index. Nodes lie in preorder, the order list takes the
leaves' primitives as they come. -/
def Says.Trees : Prop :=
  ∀ (kind algo leafsz n depth : Nat) (l : List Prim) (a b : BTree) (start i pos parent target root : Nat)
    (topo : List (Nat × Nat × Nat)) (c : BuildCmd),
    let grow := growTree kind algo leafsz
    (l.length ≤ leafsz → grow (64 - depth) depth l = .leaf l) ∧
    (leafsz < l.length → grow (64 - 63) 63 l = .fail l.length) ∧
    (leafsz < l.length → depth < 63 →
      let x := if algo = 1 ∧ depth < 56 then splitSah kind l else splitMedian kind l
      grow (64 - depth) depth l = .node (grow (63 - depth) (depth + 1) x.1) (grow (63 - depth) (depth + 1) x.2)) ∧
    (layTree (.leaf l) start i pos depth parent =
      ([{ prims := l, c0 := 2 ^ 31 + pos, c1 := l.length, parent := parent, depth := depth }], l, none)) ∧
    (let x := layTree a start (i + 1) pos (depth + 1) (start + i)
     let y := layTree b start (i + 1 + x.1.length) (pos + x.2.1.length) (depth + 1) (start + i)
     let me : NodeRec := { prims := a.prims ++ b.prims, c0 := start + i + 1, c1 := start + (i + 1 + x.1.length), parent := parent
                           depth := depth }
     layTree (.node a b) start i pos depth parent = (match x.2.2 with
       | some m => (me :: x.1, x.2.1, some m)
       | none => (me :: x.1 ++ y.1, x.2.1 ++ y.2.1, y.2.2))) ∧
    (let h := c.header
     let kind := fieldAt h 36 1
     let algo := fieldAt h 38 1
     let leafsz := fieldAt h 39 1
     let root := ((currentSlot h).map (fun i => (slotAt h i).root)).getD 0
     let old := topoTree c.topo c.prims root 64 0
     (c.kind = 0 → buildTree c = growTree kind algo leafsz 64 0 c.prims) ∧ (c.kind = 1 → buildTree c = old) ∧
     (c.kind = 2 → buildTree c = rebuildAt kind algo leafsz c.depth.toNat old 0)) ∧
    (∀ c0 c1 k, topo[i]? = some (c0, c1, k) →
      topoTree topo l root (n + 1) i = if 2 ^ 31 ≤ c0 then .leaf ((l.drop (c0 - 2 ^ 31)).take c1)
        else .node (topoTree topo l root n (i + 1)) (topoTree topo l root n (c1 - root))) ∧
    (depth ≠ target → rebuildAt kind algo leafsz target (.node a b) depth =
      .node (rebuildAt kind algo leafsz target a (depth + 1)) (rebuildAt kind algo leafsz target b (depth + 1))) ∧
    (depth ≠ target → rebuildAt kind algo leafsz target (.leaf l) depth = .leaf l) ∧
    (depth = target → ∃ o, o.Perm a.prims ∧ o.Pairwise (fun p q => p.idx ≤ q.idx) ∧
      rebuildAt kind algo leafsz target a depth = grow (64 - depth) depth o)

/-- 10 R200, R204, R205, R212, R215: what a plan writes: the nodes of the tree and after them the order list, zero in the rest of its
last block; the count of nodes, MAXDEPTH, SAHCOST and OVERLAP. -/
def Says.Figures : Prop :=
  ∀ (c c' : BuildCmd) (l : List Prim) (a b : BTree) (order : List Nat),
    let h := c.header
    let kind := fieldAt h 36 1
    let area := fun (x : QBox) => (x.hi 0 - x.lo 0) * (x.hi 1 - x.lo 1) + (x.hi 1 - x.lo 1) * (x.hi 2 - x.lo 2) +
      (x.hi 2 - x.lo 2) * (x.hi 0 - x.lo 0)
    let A := fun (t : BTree) => area (boxOf kind t.prims)
    let gap := fun (x y : QBox) (k : Nat) => decide (min (x.hi k) (y.hi k) < max (x.lo k) (y.lo k))
    let meet := fun (x y : QBox) => if gap x y 0 || gap x y 1 || gap x y 2 then 0
      else area ⟨fun k => max (x.lo k) (y.lo k), fun k => min (x.hi k) (y.hi k)⟩
    (treeCost kind (.leaf l) = (A (.leaf l) * l.length, 0)) ∧
    (treeCost kind (.node a b) = (A (.node a b) + (treeCost kind a).1 + (treeCost kind b).1,
      (treeCost kind a).2 + (treeCost kind b).2 + meet (boxOf kind a.prims) (boxOf kind b.prims))) ∧
    (planBuild c = .ok c' →
      let t := buildTree c
      let x := layTree t c'.start 0 0 0 0xFFFFFFFF
      c'.nodes = x.1.length ∧ c'.maxDepth = (x.1.map NodeRec.depth).foldl max 0 + 1 ∧ c'.fail = x.2.2.map (buildStatus 4) ∧
      c'.sah = (if A t = 0 then 0 else FFmt.f32.round .rne false ((treeCost kind t).1 / A t)) ∧
      c'.overlap = (if A t = 0 then 0 else FFmt.f32.round .rne false ((treeCost kind t).2 / A t)) ∧
      (x.2.2 = none → c'.blocks.map Prod.snd =
        x.1.map (nodeBytes kind (fieldAt h 37 1) (nextGen h)) ++ orderBlocks (x.2.1.map Prim.idx))) ∧
    (orderBlocks order).length = (order.length + 15) / 16 ∧
    (∀ i b, (orderBlocks order)[i]? = some b → b.length = 64 ∧
      ∀ j < 16, fieldAt b (4 * j) 4 = (order[16 * i + j]?).getD 0 % 2 ^ 32)

/-- 10 R209, R211, R212, 03 R62: the blocks of the reservation are written one a step; then a depth failure ends the command, or it goes
on to its publication. What a failure does: the lock is released; where the header does not translate the command waits with it. -/
def Says.Writing : Prop :=
  ∀ (s : State) (die idx : Nat) (c : BuildCmd),
    (∀ x u ks, s.unlock die c = (u, .ok ks) → s.buildFails die idx c x = u.buildEnds die idx c x) ∧
    (∀ x u e, s.unlock die c = (u, .error e) →
      s.buildFails die idx c x = u.buildParks die idx { c with phase := 5, fail := some x } .write e) ∧
    ((s.die die).builds[idx]? = some c → buildRuns s c = true → c.kind ≤ 2 →
      (c.phase = 2 → c.order = [] → exec (.builderStep die idx) s = .next (match planBuild c with
        | .error x => s.buildFails die idx c x
        | .ok c => s.setBuild die idx c)) ∧
      (c.phase = 3 → c.blocks = [] → exec (.builderStep die idx) s = .next (match c.fail with
        | some x => s.buildFails die idx c x
        | none => s.setBuild die idx { c with phase := 4 })) ∧
      (c.phase = 3 → ∀ i bs rest, c.blocks = (i, bs) :: rest →
        let l := (numberedFrom (fieldAt c.header 0 8 + 64 * i) bs).map (fun x => (x.1, x.2, false))
        (∀ va, woRefused s c.rid 2 (l.map (·.1)) = some va →
          exec (.builderStep die idx) s = .next (s.buildFails die idx c (buildStatus 10 i))) ∧
        (woRefused s c.rid 2 (l.map (·.1)) = none →
          (∀ u e, s.buildStore c die l = (u, .error e) → exec (.builderStep die idx) s = .next (u.buildParks die idx c .write e)) ∧
          (∀ u, s.buildStore c die l = (u, .ok ()) →
            exec (.builderStep die idx) s = .next (u.setBuild die idx { c with blocks := rest })))) ∧
      (c.phase = 5 → exec (.builderStep die idx) s = .next (s.buildFails die idx c (c.fail.getD 0))))

/-- 10 R206, R208, R209, R211, 03 R61: the publication is one act at the header's home that ends the command with the new generation,
the lines it wrote released at pkg scope; a waiting pin or query acts again. -/
def Says.Publishing : Prop :=
  ∀ (s : State) (die idx : Nat) (c : BuildCmd), (s.die die).builds[idx]? = some c → buildRuns s c = true →
    (c.phase = 4 →
      (∀ u e, s.readHeader c die = (u, .error e) → exec (.publish die idx) s = .next (u.buildParks die idx c .read e)) ∧
      (∀ u h, s.readHeader c die = (u, .ok h) → ∀ v b, u.actHeader c die h (reclaim (published c h)) = (v, .ok b) →
        (b = true → exec (.publish die idx) s =
          .next ((v.releasePublished c die).buildEnds die idx c (buildStatus 0 (nextGen h)))) ∧
        (b = false → exec (.publish die idx) s = .next (v.buildFails die idx c (buildStatus 10 0xFFFFFFFF))))) ∧
    (3 ≤ c.kind →
      (∀ u x, s.pinDo c die = (u, .ok x) → exec (.builderStep die idx) s = .next (u.buildEnds die idx c x)) ∧
      (∀ u e, s.pinDo c die = (u, .error e) → exec (.builderStep die idx) s =
        .next (u.buildParks die idx c (if c.kind = 5 then .read else .write) e)))

/-- Every step of a builder completes, in every state. -/
def Says.BuilderCompletes : Prop :=
  ∀ (s : State) (die idx : Nat), (∃ t, exec (.builderLock die idx) s = .next t) ∧
    (∃ t, exec (.builderStep die idx) s = .next t) ∧ (∃ t, exec (.publish die idx) s = .next t)

/-- The lock, the scan, the plan, the splits, the nodes and the order list, the blocks and the publication of a generation with its statistics; every step completes. That the first degenerate primitive is the first of the order list is log 45, that a topology is read in one step log 46. -/
def Obligations.BuilderSteps : Prop :=
  Says.Publication ∧ Says.Locking ∧ Says.Scanning ∧ Says.NodeContents ∧ Says.Splits ∧ Says.Trees ∧ Says.Figures ∧ Says.Plans ∧ Says.Writing ∧ Says.Publishing ∧ Says.BuilderCompletes

/-! ### Relay -/

/-- 11 R220, R234, R235, R236, 05 R100: `pairgo` and `raygo` wait in the tile's relay unit; `nld` reads a node past L1 and checks
its generation; `verdict` answers the ticket of its own handler once. -/
def Obligations.RelayInstructions : Prop :=
  ∀ (s : State) (g : Guard) (acq : BitVec 1) (sc : BitVec 2) (t a b : SReg) (rel : BitVec 1) (d : VReg),
    let u := s.irrevAct s.cur
    let command : Bool → RelayCmd := fun ray =>
      { no := u.nextId, ray := ray, super := u.me.super, sid := u.cur, taskNo := u.me.taskNo, rid := u.me.rid, token := t
        desc := u.me.rd a, acq := acq == 1, rel := rel == 1, scope := sc }
    let waits := fun ray => ((({ u with nextId := u.nextId + 1 } : State).onTile (tileOf u.cur) (fun y =>
      { y with relay := { y.relay with cmds := y.relay.cmds ++ [command ray] } })).pendToken t).retire
    (s.acts .none g [t, a] = true → s.clean [a] = true → s.enginesOut s.cur < 16 → s.me.dual = none → acqReady s acq = true →
      (s.tile (tileOf s.cur)).relay.cmds.length < 8 → s.writesOut s.cur = false → s.homeBusy s.cur = false →
      exec (.pairgo g acq sc t a rel) s = .next (waits false) ∧ exec (.raygo g acq sc t a rel) s = .next (waits true)) ∧
    (s.actsV .none g [a, b] [d] [] = true → s.clean [a, b] = true → s.hasRoom = true →
      let n := (s.me.rd a).toNat + 64 * fld (s.me.rd b) 0 32
      let x := BitVec.ofNat 64 n
      let gen := fld (s.me.rd b) 32 32
      (n % 64 ≠ 0 ∨ 2 ^ 56 ≤ n → Traps (.nld g d a b) s 6 x) ∧
      (n % 64 = 0 → n < 2 ^ 56 → ∀ v bs key, s.reading x (List.range 64) .vol = .ok (v, bs, key) →
        let r := gatherBytes ((List.range 64).zip bs)
        exec (.nld g d a b) s = .next (if gen ≠ 0 ∧ fld r.1 480 24 ≠ gen % 2 ^ 24 then v.takeTrap v.cur 0x28 x
          else (v.addLoad [.v d r.1 r.2.1 r.2.2]).retire))) ∧
    (s.acts .none g [a, b] = true → s.clean [a, b] = true →
      let x := s.me.rd a
      let n := (s.me.rd b).toNat
      let given := s.onMe (fun t => { t with verdictGiven := true })
      (s.me.task.bind Task.ticket ≠ some x.toNat ∨ s.me.verdictGiven = true ∨ 2 < n → Traps (.verdict g a b) s 0x29 x) ∧
      (s.me.task.bind Task.ticket = some x.toNat → s.me.verdictGiven = false → n ≤ 2 →
        (s.me.restartable = true → exec (.verdict g a b) s =
          .next (given.onMe (fun t => { t with deferred := t.deferred ++ [.verdict x.toNat n] })).retire) ∧
        (s.me.restartable = false → exec (.verdict g a b) s = .next ((given.holdHandlers s.cur x.toNat).answer x.toNat n).retire)))

/-- 11 R217, R224, R226, R234: a command that fails its checks leaves with code 1 for its descriptor or 2 for a baton; one that meets a
page fault waits in the unit; a command that passes adds a pin to the slot of each baton, one in all for a self traversal or a batch of
rays, the second on the header as the first left it, then 1 to JOIN, and starts its traversal there. That these writes are refused by no
write-owner entry is log 75's choice. -/
def Says.RelayTakes : Prop :=
  ∀ (s : State) (tile : Nat) (c : RelayCmd) (rest : List RelayCmd),
    let q := (s.tile tile).relay
    (q.trav.isSome = true ∨ q.cmds = [] → exec (.relayCommandTake tile) s = .next s) ∧
    (q.trav = none → q.cmds = c :: rest → q.parked = false → relayRuns s c.rid = true →
      (c.desc.toNat % 64 ≠ 0 ∨ 2 ^ 56 < c.desc.toNat + 128 →
        exec (.relayCommandTake tile) s = .next (s.goFails tile c (statusOf 1 0))) ∧
      (c.desc.toNat % 64 = 0 → c.desc.toNat + 128 ≤ 2 ^ 56 → ∀ u e,
        s.readVirt (.relay tile) (s.pidOfRegion c.rid) (some c.rid) c.super c.desc.toNat 128 = (u, .error e) →
        exec (.relayCommandTake tile) s = .next (u.relayParks tile c.rid 3 .read e)) ∧
      (c.desc.toNat % 64 = 0 → c.desc.toNat + 128 ≤ 2 ^ 56 → ∀ u l,
        s.readVirt (.relay tile) (s.pidOfRegion c.rid) (some c.rid) c.super c.desc.toNat 128 = (u, .ok l) →
        (descOk c.ray (l.map Prod.fst) = false →
          exec (.relayCommandTake tile) s = .next (u.goFails tile c (statusOf 1 0))) ∧
        (descOk c.ray (l.map Prod.fst) = true →
          let d := l.map Prod.fst
          let ha := fieldAt d 0 8
          let hb := if c.ray then ha else fieldAt d 16 8
          let ba := fieldAt d 8 8
          let bb := if c.ray then ba else fieldAt d 24 8
          ∀ v h w h', u.relayHeader tile c ha = (v, .ok (some h)) → v.relayHeader tile c hb = (w, .ok (some h')) →
            (c.ray = true → fieldAt h 36 1 = 2) →
            (w.batonSlot c.rid (dieOfTile tile) ha ba h = none →
              exec (.relayCommandTake tile) s = .next (w.goFails tile c (statusOf 2 0))) ∧
            (∀ i, w.batonSlot c.rid (dieOfTile tile) ha ba h = some i →
              (w.batonSlot c.rid (dieOfTile tile) hb bb h' = none →
                exec (.relayCommandTake tile) s = .next (w.goFails tile c (statusOf 2 1))) ∧
              (∀ j, w.batonSlot c.rid (dieOfTile tile) hb bb h' = some j →
                let join := fieldAt d 96 8
                let pages := w.xlats (.relay tile) (s.pidOfRegion c.rid) (some c.rid) c.super .atomic
                  ([ha, hb] ++ (if join = 0 then [] else [join])) []
                let one := c.ray || selfTrav d
                let slot := slotAt h i
                let tr : Trav :=
                  { no := c.no, rid := c.rid, super := c.super, sid := c.sid, taskNo := c.taskNo, token := c.token, ray := c.ray
                    rel := c.rel, scope := c.scope, desc := d, tile := tile
                    pins := if one then [(ha, ba / 2 ^ 32)] else [(ha, ba / 2 ^ 32), (hb, bb / 2 ^ 32)]
                    poolA := BitVec.ofNat 64 (fieldAt h 0 8), poolB := BitVec.ofNat 64 (fieldAt h' 0 8)
                    primsA := BitVec.ofNat 64 (fieldAt h 24 8)
                    orderA := BitVec.ofNat 64 (fieldAt h 0 8 + 64 * (slot.root + slot.nodes))
                    made := 0, code := 0, detail := 0, noVerdict := 0, held := [] }
                let starts := fun (pinned : State) =>
                  let y := if join = 0 then pinned else pinned.joinStep (c.stepper tile) c.rid join tile true
                  exec (.relayCommandTake tile) s = .next (({ y with nextId := y.nextId + 1, travs := putKey y.travs y.nextId tr } : State).onTile
                    tile (fun t => { t with relay := { t.relay with cmds := t.relay.cmds.drop 1, trav := some y.nextId, next := 0
                                                                    frontier := if c.ray then [] else [(ba % 2 ^ 32, bb % 2 ^ 32)]
                                                                    limit := if c.ray then fieldAt d 24 8 else 0 } }))
                (∀ x e, pages = (x, .error e) → exec (.relayCommandTake tile) s = .next (x.relayParks tile c.rid 3 .atomic e)) ∧
                (∀ x m, pages = (x, .ok m) →
                  (one = true → starts (x.travPin tile c ha i h).1) ∧
                  (one = false → ∀ y h2, (x.travPin tile c ha i h).1.relayHeader tile c hb = (y, .ok (some h2)) →
                    starts (y.travPin tile c hb j h2).1))))))) ∧
    ∀ (hdr i : Nat) (h : List Byte), h.length = 256 → i < 8 → (slotAt h i).pins + 1 < 2 ^ 24 →
      let new := putSlot h i { slotAt h i with pins := (slotAt h i).pins + 1 }
      (s.travPin tile c hdr i h).1 = (s.engineStore (.relay tile) { c.issuer with rel := none } (((List.range 256).filter (fun k =>
        h[k]? != new[k]?)).map (fun k => (hdr + k, (new[k]?).getD 0, false)))).1 ∧
      new.length = 256 ∧ slotAt new i = { slotAt h i with pins := (slotAt h i).pins + 1 } ∧
      ∀ k, k < 128 + 16 * i ∨ 128 + 16 * i + 16 ≤ k → new[k]? = h[k]?

/-- 11 R218, R219: the outcome of a test and the refinement of a pair: disjoint boxes drop; the distance test accepts or refines;
a pair of a node with itself, in a self traversal, gives four pairs; of every other pair a leaf is not split, of two inner nodes the one of the larger radius is (with a NaN radius a free
choice, log 29). -/
def Says.PairRules : Prop :=
  ∀ (d a b : List Byte) (p : Nat × Nat) (free : Nat),
    let c : List Byte → Nat → Nat := fun n i => fieldAt n (40 + 4 * i) 4
    (fieldAt d 32 1 = 3 → pairOutcome d a b = 3) ∧
    (fieldAt d 32 1 = 0 →
      ((∃ i ∈ [24, 28, 32, 36], (rayF a i).isNan = true ∨ (rayF a i).isInf = true ∨ (rayF b i).isNan = true ∨ (rayF b i).isInf = true) →
        pairOutcome d a b = 2) ∧
      ((∀ i ∈ [24, 28, 32, 36], (rayF a i).isNan = false ∧ (rayF a i).isInf = false ∧ (rayF b i).isNan = false ∧ (rayF b i).isInf = false) →
        let v : List Byte → Nat → ℚ := fun n i => (rayF n i).rat
        let apart := (v a 24 - v b 24) ^ 2 + (v a 28 - v b 28) ^ 2 + (v a 32 - v b 32) ^ 2
        pairOutcome d a b = if (v a 36 + v b 36) ^ 2 < (f32Val (fieldAt d 36 4)).rat ^ 2 * apart then 1 else 2)) ∧
    (fieldAt d 32 1 = 1 → pairOutcome d a b =
      if (List.range 3).any (fun k =>
        (rayF b (12 + 4 * k)).less (rayF a (4 * k)) || (rayF a (12 + 4 * k)).less (rayF b (4 * k))) then 0 else 2) ∧
    (nodeLeaf a = true → nodeLeaf b = true → ∀ self, refinePair self free p a b = none) ∧
    (nodeLeaf a = false → p.1 = p.2 →
      refinePair true free p a b = some [(c a 0, c a 0), (c a 1, c a 1), (c a 0, c a 1), (c a 1, c a 0)]) ∧
    ∀ self, self = false ∨ p.1 ≠ p.2 →
      (nodeLeaf a = true → nodeLeaf b = false → refinePair self free p a b = some [(p.1, c b 0), (p.1, c b 1)]) ∧
      (nodeLeaf a = false → nodeLeaf b = true → refinePair self free p a b = some [(c a 0, p.2), (c a 1, p.2)]) ∧
      (nodeLeaf a = false → nodeLeaf b = false → (rayF a 36).isNan = false → (rayF b 36).isNan = false →
        refinePair self free p a b = some (if (rayF a 36).less (rayF b 36) then [(p.1, c b 0), (p.1, c b 1)]
          else [(c a 0, p.2), (c a 1, p.2)])) ∧
      (nodeLeaf a = false → nodeLeaf b = false → (rayF a 36).isNan = true ∨ (rayF b 36).isNan = true →
        refinePair self free p a b = some [(c a 0, p.2), (c a 1, p.2)] ∨ refinePair self free p a b = some [(p.1, c b 0), (p.1, c b 1)])

/-- 11 R218, R219, R220, R222: what an outcome does to the pair: DROP ends it, ACCEPT owes the far handler, REFINE owes the near handler
or pushes the pairs, the first popped in front; a null pointer owes no task. -/
def Says.PairOutcomes : Prop :=
  ∀ (s : State) (tile : Nat) (tr : Trav) (p : Nat × Nat) (a b : List Byte) (k : Task),
    let u := s.onRelay tile (fun q => { q with cur := none, ask := none, verdict := none })
    let split := refinePair (selfTrav tr.desc) (Config.freeNat u.freeCtr) p a b
    s.pairEnds tile tr p a b 0 = u.stepEnds tile ∧
    s.pairEnds tile tr p a b 1 = (u.owe tile tr (pairTask tr tile (fieldAt tr.desc 40 8) p none)).stepEnds tile ∧
    (split = none → s.pairEnds tile tr p a b 2 = (u.owe tile tr (pairTask tr tile (fieldAt tr.desc 48 8) p none)).stepEnds tile) ∧
    (∀ l, split = some l → s.pairEnds tile tr p a b 2 =
      (({ u with freeCtr := u.freeCtr + 1 } : State).onRelay tile (fun q => { q with frontier := l ++ q.frontier })).stepEnds tile) ∧
    (k.pc = 0 → s.owe tile tr k = s) ∧
    (k.pc ≠ 0 → s.owe tile tr k = s.onRelay tile (fun q =>
      { q with owed := q.owed ++ [s.ready k (((s.region tr.rid).map (·.prio)).getD 0)] }))

/-- 11 R223: the start state of a handler task of a pair: its registers, kind, lane, pin and ticket. -/
def Says.HandlerRegisters : Prop :=
  ∀ (tr : Trav) (tile pc : Nat) (p : Nat × Nat) (ticket : Option Nat),
    let k := pairTask tr tile pc p ticket
    let w := fun n : Nat => BitVec.ofNat 64 n
    let f := fun i => fieldAt tr.desc i 8
    k.regs = [w (f 88), w (p.1 + 2 ^ 32 * p.2), w (f 96), w (f 8), w (f 24), tr.poolA, tr.poolB, w (ticket.getD 0), 0] ∧
    k.pc = w pc ∧ k.kind = 2 ∧ k.lane = 0 ∧ k.marks = 0 ∧ k.pin = some tile ∧ k.nomig = true ∧ k.ticket = ticket

/-- 11 R222, R224, R225: the oldest owed task enters the relay queue where it holds fewer than 16, and counts as made for a pair
traversal; with a full queue, or with none owed, nothing happens; nor while a handler whose verdict took effect at issue has not
committed. -/
def Says.HandlersPlaced : Prop :=
  ∀ (s : State) (tile id : Nat) (tr : Trav) (w : Ready) (rest : List Ready),
    let q := (s.tile tile).relay
    (q.owed = [] → s.placeOwed tile = s) ∧
    (∀ sid no, s.holds (sid, no) = true ↔ 2 ^ 32 ≤ sid ∨ ((s.strand sid).taskNo = no ∧ (s.strand sid).task ≠ none)) ∧
    (∀ sid ticket,
      let asks := fun (x : Nat × Tile) => (x.2.relay.ask.map Prod.fst) == some ticket || x.2.relay.rays.any (fun r => r.ask == some ticket)
      (s.tiles.any asks = false → s.holdHandlers sid ticket = s) ∧
      (∀ x i, s.tiles.find? asks = some x → x.2.relay.trav = some i →
        s.holdHandlers sid ticket = s.onTrav i (fun y => { y with held := (sid, (s.strand sid).taskNo) :: y.held }))) ∧
    (q.owed = w :: rest → q.trav = some id → s.trav id = some tr →
      let waits := 16 ≤ q.queue.length ∨ ∃ x ∈ tr.held, s.holds x = true
      (waits → s.placeOwed tile = s) ∧
      (¬ waits → fieldAt tr.desc 96 8 = 0 → s.placeOwed tile =
        (s.onTrav id (fun x => if x.ray then x else { x with made := x.made + 1 })).onRelay tile (fun q =>
          { q with owed := rest, queue := q.queue ++ [(tr.rid, { w with t0 := s.meshTime })] })) ∧
      (¬ waits → fieldAt tr.desc 96 8 ≠ 0 → ∀ u m,
        s.xlats (.relay tile) (s.pidOfRegion tr.rid) (some tr.rid) tr.super .atomic [fieldAt tr.desc 96 8] [] = (u, .ok m) →
        ∃ v, v = (u.joinStep (tr.stepper tile) tr.rid (fieldAt tr.desc 96 8) tile true).onTrav id
            (fun x => if x.ray then x else { x with made := x.made + 1 }) ∧
          s.placeOwed tile = v.onRelay tile (fun q =>
            { q with owed := rest, queue := q.queue ++ [(tr.rid, { w with t0 := v.meshTime })] })))

/-- 11 R220, R221, R222, R224, R228, 20 R302: the unit's steps: an idle or empty unit does nothing; a pair step pops the newest pair and reads both
nodes, or parks; under CUSTOM it asks, and pops nothing until the verdict has come; a verdict that has come takes effect on the pair
or the ray that asked; owed tasks enter the relay queue; at the end the pins go, then JOIN is counted down, then the status is
written, and a page that does not translate, of a header, of JOIN, or of the continuation that the countdown starts, parks the
unit with the pins that are left. -/
def Says.RelayUnits : Prop :=
  ∀ (s : State) (tile idx : Nat),
    let q := (s.tile tile).relay
    (q.trav = none → exec (.pairTest tile) s = .next s ∧ exec (.rayStep tile idx) s = .next s ∧
      exec (.relayQueuePlace tile) s = .next s ∧ exec (.traversalEnd tile) s = .next s) ∧
    (q.trav.isSome = true ∨ q.cmds ≠ [] ∨ s.enabledTile tile = false → exec (.relaySteal tile) s = .next s) ∧
    (∀ tr, q.trav.bind s.trav = some tr → q.parked = false → relayRuns s tr.rid = true →
      exec (.relayQueuePlace tile) s = .next (s.stepEnds tile) ∧
      (q.ask.isSome = true → q.verdict = none → exec (.pairTest tile) s = .next s) ∧
      (∀ p v, tr.ray = false → q.cur = some p → q.owed = [] → q.verdict = some v →
        let node := fun (u : State) x => u.readVirt (.relay tile) (u.pidOfRegion tr.rid) (some tr.rid) tr.super x 64
        ∀ u la w lb, node s (tr.poolA.toNat + 64 * p.1) = (u, .ok la) → node u (tr.poolB.toNat + 64 * p.2) = (w, .ok lb) →
          exec (.pairTest tile) s = .next (w.pairEnds tile tr p (la.map Prod.fst) (lb.map Prod.fst) v)) ∧
      (∀ p rest, tr.ray = false → q.cur = none → q.frontier = p :: rest → q.owed = [] → q.ask = none → q.verdict = none →
        let u := s.onRelay tile (fun q => { q with cur := some p, frontier := q.frontier.drop 1 })
        let node := fun (u : State) x => u.readVirt (.relay tile) (u.pidOfRegion tr.rid) (some tr.rid) tr.super x 64
        (∀ v e, node u (tr.poolA.toNat + 64 * p.1) = (v, .error e) →
          exec (.pairTest tile) s = .next (v.relayParks tile tr.rid 3 .read e)) ∧
        (∀ v la w lb, node u (tr.poolA.toNat + 64 * p.1) = (v, .ok la) → node v (tr.poolB.toNat + 64 * p.2) = (w, .ok lb) →
          let out := if selfTrav tr.desc && p.1 == p.2 then 2 else pairOutcome tr.desc (la.map Prod.fst) (lb.map Prod.fst)
          (out = 3 → exec (.pairTest tile) s = .next (((({ w with nextId := w.nextId + 1 } : State).onRelay tile (fun q =>
            { q with ask := some (w.nextId, p.1, p.2) })).owe tile tr
              (pairTask tr tile (fieldAt tr.desc 56 8) p (some w.nextId))).stepEnds tile)) ∧
          (out ≠ 3 → exec (.pairTest tile) s = .next (w.pairEnds tile tr p (la.map Prod.fst) (lb.map Prod.fst) out)))) ∧
      (∀ x h k v, tr.ray = true → q.owed = [] → q.rays[idx]? = some x → x.asked = some h → x.ask = some k → x.answer = some v →
        let y : Ray := { x with ask := none, asked := none, answer := none }
        let y := if v = 0 then y else { y with best := some h, tcur := h.t, ended := y.ended || rayFirst x.record }
        exec (.rayStep tile idx) s = .next (s.setRay tile idx
          { y with ended := y.ended || v == 2, tris := if y.ended || v = 2 then [] else y.tris })) ∧
      (∀ id, q.trav = some id → tr.tile = tile → q.done = true → othersDone s tile id = true →
        let join := fieldAt tr.desc 96 8
        let ends := fun (u : State) => ((({ u with travs := dropKey u.travs id } : State).onRelay tile (fun q =>
              { q with trav := none, next := 0, limit := 0 })).commandEnds
            tr.sid tr.taskNo tr.no tr.token (if tr.code ≠ 0 then statusOf tr.code tr.detail
              else if tr.noVerdict ≠ 0 then statusOf 5 tr.noVerdict else statusOf 0 tr.made))
        (∀ u l k e, s.unpins tr tr.pins = (u, l, some (k, e)) → exec (.traversalEnd tile) s =
          .next ((u.onTrav id (fun x => { x with pins := l })).relayParks tile tr.rid 3 k e)) ∧
        (∀ u l, s.unpins tr tr.pins = (u, l, none) →
          (join = 0 → exec (.traversalEnd tile) s = .next (ends u)) ∧
          let stays := fun (v : State) k e => exec (.traversalEnd tile) s =
            .next ((v.onTrav id (fun x => { x with pins := l })).relayParks tile tr.rid 3 k e)
          (join ≠ 0 → ∀ v e, u.xlats (.relay tile) (u.pidOfRegion tr.rid) (some tr.rid) tr.super .atomic [join] [] = (v, .error e) →
            stays v .atomic e) ∧
          (join ≠ 0 → ∀ v m, u.xlats (.relay tile) (u.pidOfRegion tr.rid) (some tr.rid) tr.super .atomic [join] [] = (v, .ok m) →
            let last := v.xlats (.relay tile) (v.pidOfRegion tr.rid) (some tr.rid) tr.super .read [join + 47] []
            (v.reachesZero m (join, -1) = false →
              exec (.traversalEnd tile) s = .next (ends (v.joinStep (tr.stepper tile) tr.rid join tile false))) ∧
            (v.reachesZero m (join, -1) = true → (∀ w e, last = (w, .error e) → stays w .read e) ∧
              ∀ w n, last = (w, .ok n) →
                exec (.traversalEnd tile) s = .next (ends (w.joinStep (tr.stepper tile) tr.rid join tile false)))))))

/-- The work that a thief on a tile finds in the tiles of a region: the first in spiral order that has some (11 R221). -/
def stealIn (s : State) (tile : Nat) (x : Nat × Region) : Option (Nat × Nat × (Nat × Nat) × Bool) :=
  if x.2.state ≠ .running then none else
  (x.2.tileNum tile).bind (fun n => (spiralOrder s x.2 n).findSome? (fun m =>
    (x.2.tiles[m]?).bind (fun t => ((s.tile t).relay.loot s x.1).map (fun l => (t, l)))))

/-- 11 R221: an idle unit takes, from the first tile of its region's spiral order that has one, the oldest frontier entry or the
highest-numbered ray not started; the thief then works for the traversal, and a victim left with nothing leaves it. -/
def Says.RelaySteals : Prop :=
  ∀ (s : State) (tile : Nat),
    let q := (s.tile tile).relay
    let found := s.regions.findSome? (stealIn s tile)
    (q.trav = none → q.cmds = [] → s.enabledTile tile = true →
      (found = none → exec (.relaySteal tile) s = .next s) ∧
      (∀ victim id p, found = some (victim, id, p, false) → exec (.relaySteal tile) s =
        .next (((s.onRelay victim (fun v => { v with frontier := v.frontier.dropLast })).onRelay tile
          (fun q => { q with trav := some id, frontier := [p] })).leaveTrav victim)) ∧
      (∀ victim id p, found = some (victim, id, p, true) → exec (.relaySteal tile) s =
        .next (((s.onRelay victim (fun v => { v with limit := v.limit - 1 })).onRelay tile
          (fun q => { q with trav := some id, next := p.1, limit := p.1 + 1 })).leaveTrav victim))) ∧
    (∀ (v : Relay) (id rid : Nat) (tr : Trav),
      (v.trav = none → v.loot s rid = none) ∧
      (v.trav = some id → s.trav id = some tr →
        (tr.rid ≠ rid → v.loot s rid = none) ∧
        (tr.rid = rid → tr.ray = false → v.frontier = [] → v.loot s rid = none) ∧
        (∀ l p, tr.rid = rid → tr.ray = false → v.frontier = l ++ [p] → v.loot s rid = some (id, p, false)) ∧
        (tr.rid = rid → tr.ray = true → v.limit ≤ v.next → v.loot s rid = none) ∧
        (tr.rid = rid → tr.ray = true → v.next < v.limit → v.loot s rid = some (id, (v.limit - 1, 0), true)))) ∧
    ring 1 = [(-1, 0), (-1, 1), (0, 1), (1, 1), (1, 0), (1, -1), (0, -1), (-1, -1)] ∧
    ring 2 = [(-2, 0), (-2, 1), (-2, 2), (-1, 2), (0, 2), (1, 2), (2, 2), (2, 1), (2, 0), (2, -1), (2, -2), (1, -2), (0, -2),
      (-1, -2), (-2, -2), (-2, -1)] ∧
    (∀ (r : Region) (n y x : Nat),
      (scattered s s.regions.length r = false → r.posns[n]? = some (y, x) →
        spiralOrder s r n = ((List.range 64).flatMap (fun d => ring (d + 1))).filterMap (fun o =>
          findAt (fun p => decide ((p.1 : Int) = (y : Int) + o.1 ∧ (p.2 : Int) = (x : Int) + o.2)) r.posns)) ∧
      (r.inherits = false → r.want.isSome = true →
        (r.tiles.length = 4 → spiralOrder s r 1 = [2, 0, 3]) ∧ (r.tiles.length = 5 → spiralOrder s r 0 = [1, 4, 2, 3])))

/-- 11 R227, R228, R232: of the rays under way one makes a step: it waits for its verdict, tests the next triangle of its leaf, or goes on
with its stack. Past the last one, the batch's next ray starts, up to 32. -/
def Says.RayTurns : Prop :=
  ∀ (s : State) (tile idx : Nat) (tr : Trav),
    let q := (s.tile tile).relay
    q.trav.bind s.trav = some tr → tr.ray = true → q.parked = false → q.owed = [] → relayRuns s tr.rid = true →
      (q.rays[idx]? = none →
        (idx = q.rays.length → idx < 32 → q.next < q.limit → exec (.rayStep tile idx) s = .next (s.rayStarts tile tr q)) ∧
        (idx ≠ q.rays.length ∨ 32 ≤ idx ∨ q.limit ≤ q.next → exec (.rayStep tile idx) s = .next s)) ∧
      (∀ x, q.rays[idx]? = some x →
        (x.ask.isSome = true → x.answer = none → exec (.rayStep tile idx) s = .next s) ∧
        (x.ask = none → ∀ i rest, x.tris = i :: rest → exec (.rayStep tile idx) s = .next (s.rayTriangle tile idx tr x i rest)) ∧
        (x.ask = none → x.tris = [] → exec (.rayStep tile idx) s = .next (s.rayLoop tile idx tr x)))

/-- 11 R227, R228, R224, 03 R62: the start of a ray: a SKIP ray is passed over; a bad one gets ERR in its FLAGS alone and is reported by
its index (that SKIP comes first, and what a bad ray writes, is log 35's reading); any other starts at the root with TMAX as its
limit. -/
def Says.RayStarts : Prop :=
  ∀ (s u : State) (tile : Nat) (tr : Trav) (q : Relay) (r : List Byte),
    let past : State → State := fun v => v.onRelay tile (fun q => { q with next := q.next + 1 })
    (∀ e, s.relayRead tile tr (rayAddr tr q.next) 64 = (u, .error e) → s.rayStarts tile tr q = u.relayParks tile tr.rid 3 .read e) ∧
    (s.relayRead tile tr (rayAddr tr q.next) 64 = (u, .ok r) →
      (raySkip r = true → s.rayStarts tile tr q = (past u).stepEnds tile) ∧
      (raySkip r = false → rayBad r = true → ∀ v,
        u.writeRay tile tr q.next 52 (natBytes (fieldAt r 52 4 ||| 0x200) 4) = (v, .ok ()) →
        s.rayStarts tile tr q = (past (v.noteTrav tile 3 q.next)).stepEnds tile) ∧
      (raySkip r = false → rayBad r = false → s.rayStarts tile tr q = (past u).onRelay tile (fun y => { y with rays := y.rays ++
        [{ idx := q.next, record := r, stack := [(fieldAt tr.desc 8 8 % 2 ^ 32, fieldAt r 12 4)], spilled := 0, best := none
           tcur := fieldAt r 28 4, pending := [], tris := [], ask := none, asked := none, answer := none, ended := false
           err := false }] }))) ∧
    (∀ i o bs, let l := (numberedFrom (rayAddr tr i + o) bs).map (fun y => (y.1, y.2, false))
      (∀ va, woRefused s tr.rid 3 (l.map (·.1)) = some va → s.writeRay tile tr i o bs = (s.noteTrav tile 4 i, .ok ())) ∧
      (woRefused s tr.rid 3 (l.map (·.1)) = none → s.writeRay tile tr i o bs = s.relayStore tile tr l))

/-- 11 R230, R231, R232: a triangle of a leaf: no hit, or a hit with its micromap state: 0 is no hit; 1 is accepted where its key is less
than best's; 2 and 3 go to the pending candidates, in key order, of which a ninth first runs the least. A candidate that is run is
asked about, or accepted where ANYHIT is 0. -/
def Says.RayTriangles : Prop :=
  ∀ (s u w : State) (tile idx i : Nat) (tr : Trav) (x : Ray) (rest : List Nat) (p : List Byte),
    let goes : Ray → State → State := fun y v => v.setRay tile idx { y with tris := if y.ended then [] else rest }
    (∀ e, s.relayRead tile tr (tr.primsA.toNat + 48 * i) 48 = (u, .error e) →
      s.rayTriangle tile idx tr x i rest = u.relayParks tile tr.rid 3 .read e) ∧
    (s.relayRead tile tr (tr.primsA.toNat + 48 * i) 48 = (u, .ok p) →
      let test := triTest x.record (f32Val x.tcur) (fun k => f32Val (fieldAt p (4 * k) 4))
      (test = none → s.rayTriangle tile idx tr x i rest = goes x u) ∧
      (∀ t a b, test = some (t, a, b) →
        let h : Hit := { t := t, u := a, v := b, inst := fieldAt p 40 4, prim := i }
        (∀ e, u.hitState tile tr (fieldAt p 44 4) a b = (w, .error e) →
          s.rayTriangle tile idx tr x i rest = w.relayParks tile tr.rid 3 .read e) ∧
        (∀ st bad, u.hitState tile tr (fieldAt p 44 4) a b = (w, .ok (st, bad)) →
          let y : Ray := { x with err := x.err || bad }
          let v := if bad then w.noteTrav tile 3 x.idx else w
          (st = 0 ∨ h.beats x.best = false → s.rayTriangle tile idx tr x i rest = goes y v) ∧
          (st = 1 → h.beats x.best = true → s.rayTriangle tile idx tr x i rest = goes (y.accept h) v) ∧
          (2 ≤ st → h.beats x.best = true →
            (y.prune.pending.length < 8 → s.rayTriangle tile idx tr x i rest =
              goes { y.prune with pending := insertHit h y.prune.pending } v) ∧
            (∀ c l, y.prune.pending = c :: l → 8 ≤ y.prune.pending.length → s.rayTriangle tile idx tr x i rest =
              v.runHit tile idx tr { y.prune with pending := l } c))))) ∧
    (∀ h : Hit, (fieldAt tr.desc 64 8 ≠ 0 → s.runHit tile idx tr x h = s.askHit tile idx tr x h) ∧
      (fieldAt tr.desc 64 8 = 0 → s.runHit tile idx tr x h = s.setRay tile idx
        { x.accept h with tris := if (x.accept h).ended then [] else x.tris }) ∧
      x.accept h = { x with best := some h, tcur := h.t, ended := x.ended || rayFirst x.record } ∧
      (h.beats none = true) ∧ (∀ b, h.beats (some b) = h.before b))

/-- 11 R231: hits come in key order: the smaller t first, at equal t the smaller instance index, then the smaller primitive index. The
pending candidates stay in that order. -/
def Says.HitOrder : Prop :=
  ∀ (x y : Hit) (l : List Hit),
    let sorted := fun (l : List Hit) => l.Pairwise (fun a b => b.before a = false)
    (x.before y = true ↔ (f32Val x.t).less (f32Val y.t) = true ∨ ((f32Val y.t).less (f32Val x.t) = false ∧
      (x.inst < y.inst ∨ (x.inst = y.inst ∧ x.prim < y.prim)))) ∧
    (insertHit x l).Perm (x :: l) ∧
    (sorted l → (∀ z ∈ x :: l, (f32Val z.t).isNan = false) → sorted (insertHit x l))

/-- 11 R228, R231, log 35: the head of the loop: an ended ray is written out, its pending candidates discarded; a candidate nearer than every
stack entry is run first; the newest entry is popped, and visited unless its distance is past the best; without entries the ray is
written out. -/
def Says.RayLoops : Prop :=
  ∀ (s : State) (tile idx : Nat) (tr : Trav) (x : Ray),
    let y := x.prune
    (y.ended = true → s.rayLoop tile idx tr x = s.rayEnds tile idx tr { y with pending := [] }) ∧
    (y.ended = false →
      (∀ c l m, y.pending = c :: l → y.leastNear = some m → (f32Val c.t).less m = true →
        s.rayLoop tile idx tr x = s.runHit tile idx tr { y with pending := l } c) ∧
      (∀ c l, y.pending = c :: l → y.leastNear = none → s.rayLoop tile idx tr x = s.runHit tile idx tr { y with pending := l } c) ∧
      (∀ n tn r, y.stack = (n, tn) :: r → (∀ c l m, y.pending = c :: l → y.leastNear = some m → (f32Val c.t).less m = false) →
        s.rayLoop tile idx tr x = if (f32Val x.tcur).less (f32Val tn) then s.setRay tile idx { y with stack := r }
          else s.rayNode tile idx tr { y with stack := r } n) ∧
      (y.stack = [] → y.spilled = 0 → y.pending = [] → s.rayLoop tile idx tr x = s.rayEnds tile idx tr y) ∧
      (y.stack = [] → y.spilled ≠ 0 → y.pending = [] → ∀ u l,
        s.relayRead tile tr (raySpill x.record + 4 * (y.spilled - 1)) 4 = (u, .ok l) →
        s.rayLoop tile idx tr x = if (f32Val x.tcur).less (rayTmin x.record) then u.setRay tile idx { y with spilled := y.spilled - 1 }
          else u.rayNode tile idx tr { y with spilled := y.spilled - 1 } (fieldAt l 0 4))) ∧
    y = { x with pending := x.pending.filter (fun h => h.beats x.best) }

/-- 11 R229: the interval of an axis, its ends rounded outward from the exact quotients, and the box from the three of them. An axis
on which no value is defined leaves the box unstated (log 29). -/
def Says.BoxTests : Prop :=
  ∀ (r node : List Byte) (tcur o d lo hi : FVal),
    let real := fun x : FVal => x.isNan = false ∧ x.isInf = false
    let ax := fun k => axisSpan (rayF r (4 * k)) (rayF r (16 + 4 * k)) (rayF node (4 * k)) (rayF node (12 + 4 * k))
    (d.isZero = true → lo.isNan = false → hi.isNan = false → o.isNan = false →
      axisSpan o d lo hi = if o.less lo ∨ hi.less o then .miss else .span (.inf true) (.inf false)) ∧
    (d.isZero = false → real d → real o → real lo → real hi → ∃ a b, real a ∧ real b ∧
      a.rat = min ((lo.rat - o.rat) / d.rat) ((hi.rat - o.rat) / d.rat) ∧
      b.rat = max ((lo.rat - o.rat) / d.rat) ((hi.rat - o.rat) / d.rat) ∧
      axisSpan o d lo hi = .span (FFmt.f32.decode (FFmt.f32.ofVal .rdn a)) (FFmt.f32.decode (FFmt.f32.ofVal .rup b))) ∧
    ((∃ k < 3, ax k = .miss) → boxTest r tcur node = .miss) ∧
    ((∀ k < 3, ax k ≠ .miss) → (∃ k < 3, ax k = .unstated) → boxTest r tcur node = .unstated) ∧
    (∀ a0 b0 a1 b1 a2 b2, ax 0 = .span a0 b0 → ax 1 = .span a1 b1 → ax 2 = .span a2 b2 →
      let near := (((rayF r 12).maxV a0).maxV a1).maxV a2
      let far := ((tcur.minV b0).minV b1).minV b2
      boxTest r tcur node = if near.le far then .enter near else .miss) ∧
    (o.maxV d = if o.less d then d else o) ∧ (o.minV d = if d.less o then d else o) ∧
    (o.isNan = false → d.isNan = false → (o.le d = true ↔ d.less o = false))

/-- 11 R230: the triangle test, operation by operation in FP32, U, V and W anew in FP64 where one of them is 0 (that they stay FP64
values from there is log 28's reading); and the example that the rule works out. -/
def Says.TriangleTests : Prop :=
  (∀ (r : List Byte) (tcur : FVal) (c : Nat → FVal) (kx ky : Nat),
    let kz := rayKz r
    let mag := fun k => match rayDir r k with
      | .fin _ p => FVal.fin false p
      | .inf _ => .inf false
      | .nan => .nan
    ((∀ k < 3, (rayDir r k).isNan = false) → kz < 3 ∧ ∀ j < 3, (mag kz).less (mag j) = false ∧ (j < kz → (mag j).less (mag kz) = true)) ∧
    ((kx, ky) = (if (rayDir r kz).less (.fin false 0) then ((kz + 2) % 3, (kz + 1) % 3) else ((kz + 1) % 3, (kz + 2) % 3)) →
      let f := FFmt.f32
      let pz := fun v => subIn f (c (3 * v + kz)) (rayOrg r kz)
      let px := fun v => subIn f (subIn f (c (3 * v + kx)) (rayOrg r kx)) (mulIn f (divIn f (rayDir r kx) (rayDir r kz)) (pz v))
      let py := fun v => subIn f (subIn f (c (3 * v + ky)) (rayOrg r ky)) (mulIn f (divIn f (rayDir r ky) (rayDir r kz)) (pz v))
      let sz := fun v => mulIn f (divIn f (.fin false 1) (rayDir r kz)) (pz v)
      let edge := fun (g : FFmt) i j => subIn g (mulIn g (px j) (py i)) (mulIn g (py j) (px i))
      let g := if (edge f 1 2).isZero || (edge f 2 0).isZero || (edge f 0 1).isZero then FFmt.f64 else f
      let det := addIn f (addIn f (edge g 1 2) (edge g 2 0)) (edge g 0 1)
      let sg := det.sign
      let inside := fun i j =>
        let dx := sg * (subIn f (px j) (px i)).sign
        let dy := sg * (subIn f (py j) (py i)).sign
        0 < sg * (edge g i j).sign ∨ ((edge g i j).isZero = true ∧ (0 < dy ∨ (dy = 0 ∧ dx < 0)))
      let t := divIn f (addIn f (addIn f (mulIn f (edge g 1 2) (sz 0)) (mulIn f (edge g 2 0) (sz 1))) (mulIn f (edge g 0 1) (sz 2))) det
      (sg = 0 ∨ ¬ inside 1 2 ∨ ¬ inside 2 0 ∨ ¬ inside 0 1 → triTest r tcur c = none) ∧
      (sg ≠ 0 → inside 1 2 → inside 2 0 → inside 0 1 →
        triTest r tcur c = if (rayTmin r).le t && t.le tcur then
          some (t.bits32, (divIn f (edge g 2 0) det).bits32, (divIn f (edge g 0 1) det).bits32) else none))) ∧
  (let ray := natBytes 0 8 ++ natBytes 0xBF800000 4 ++ natBytes 0 12 ++ natBytes 0x3F800000 4 ++ natBytes 0x7F800000 4 ++ natBytes 0 32
   let tri := [0xBF800000, 0xBF800000, 0, 0x3F800000, 0xBF800000, 0, 0, 0x3F800000, 0]
   triTest ray (f32Val 0x7F800000) (fun k => f32Val ((tri[k]?).getD 0)) = some (0x3F800000, 0x3E800000, 0x3F000000)) ∧
  ∀ (f : FFmt) (x y : FVal), addIn f x y = f.decode (f.addV .rne x y) ∧ subIn f x y = f.decode (f.addV .rne x y.neg) ∧
    mulIn f x y = f.decode (f.ofVal .rne (x.mul y)) ∧ divIn f x y = f.decode (f.ofVal .rne (x.div y)) ∧
    (x.isNan = false → (x.sign = 1 ↔ (FVal.fin false 0).less x = true) ∧ (x.sign = -1 ↔ x.less (.fin false 0) = true)) ∧
    x.bits32 = FFmt.f32.ofVal .rne x ∧
    ∀ a p b q, q ≠ 0 → (FVal.fin a p).div (.fin b q) = .fin (a != b) (p / q)

/-- 11 R232: the state of a micromap entry for a hit: opaque without one, and for a bad entry, which is reported; else the two bits that
u and v select; and the example of the rule. -/
def Says.Micromaps : Prop :=
  (∀ (s : State) (tile : Nat) (tr : Trav) (m ub vb : Nat),
    let omm := fieldAt tr.desc 104 8
    (omm = 0 ∨ m = 0xFFFFFFFF → s.hitState tile tr m ub vb = (s, .ok (1, false))) ∧
    (omm ≠ 0 → m ≠ 0xFFFFFFFF →
      (∀ u e, s.relayRead tile tr (omm + 16 * m) 16 = (u, .error e) → s.hitState tile tr m ub vb = (u, .error e)) ∧
      ∀ u l, s.relayRead tile tr (omm + 16 * m) 16 = (u, .ok l) →
        let data := fieldAt l 0 8
        let n := micromapState (fieldAt l 8 1) ub vb
        (6 < fieldAt l 8 1 ∨ data % 8 ≠ 0 → s.hitState tile tr m ub vb = (u, .ok (1, true))) ∧
        (fieldAt l 8 1 ≤ 6 → data % 8 = 0 →
          (∀ v e, u.relayRead tile tr (data + n / 4) 1 = (v, .error e) → s.hitState tile tr m ub vb = (v, .error e)) ∧
          ∀ v b, u.relayRead tile tr (data + n / 4) 1 = (v, .ok b) →
            s.hitState tile tr m ub vb = (v, .ok (fieldAt b 0 1 / 2 ^ (2 * (n % 4)) % 4, false))))) ∧
  (∀ l ub vb : Nat, 0 ≤ f32Rat ub → 0 ≤ f32Rat vb →
    let n : Nat := 2 ^ l
    let x := f32Rat ub * n
    let y := f32Rat vb * n
    ∃ a b : Nat, (a : ℤ) = min ⌊x⌋ ((n : ℤ) - 1) ∧ (b : ℤ) = min ⌊y⌋ ((n : ℤ) - 1 - a) ∧
      micromapState l ub vb = b * (2 * n - b) + 2 * a + if 1 < (x - a) + (y - b) ∧ a + b + 1 < n then 1 else 0) ∧
  micromapState 1 0x3E800000 0x3F000000 = 3

/-- 11 R228: a node of a ray: the triangles of a leaf in the order of the order list; of an inner node the children that are entered,
pushed so that the nearer is popped first, and child 0 at equal distance; the oldest entry of a full stack of 16 goes to SPILL. -/
def Says.RayNodes : Prop :=
  ∀ (s u : State) (tile idx n : Nat) (tr : Trav) (x : Ray) (node : List Byte),
    let read := fun (v : State) i => v.relayRead tile tr (tr.poolA.toNat + 64 * i) 64
    let c := fun i => fieldAt node (40 + 4 * i) 4
    (∀ e, read s n = (u, .error e) → s.rayNode tile idx tr x n = u.relayParks tile tr.rid 3 .read e) ∧
    (read s n = (u, .ok node) → nodeLeaf node = true → ∀ v l,
      u.relayRead tile tr (tr.orderA.toNat + 4 * (c 0 - 2 ^ 31)) (4 * c 1) = (v, .ok l) →
      s.rayNode tile idx tr x n = v.setRay tile idx { x with tris := (List.range (c 1)).map (fun i => fieldAt l (4 * i) 4) }) ∧
    (read s n = (u, .ok node) → nodeLeaf node = false → ∀ v n0 w n1, read u (c 0) = (v, .ok n0) → read v (c 1) = (w, .ok n1) →
      let a := childNear x n0 w.freeCtr
      let b := childNear x n1 (w.freeCtr + 2)
      let z : State := { w with freeCtr := w.freeCtr + 4 }
      let pushes := fun l => (∀ q y, z.rayPushes tile tr x l = (q, .ok y) → s.rayNode tile idx tr x n = q.setRay tile idx y) ∧
        (∀ q e, z.rayPushes tile tr x l = (q, .error e) → s.rayNode tile idx tr x n = q.relayParks tile tr.rid 5 .write e)
      (a = none → b = none → pushes []) ∧
      (∀ p, a = some p → b = none → pushes [(c 0, p)]) ∧ (∀ q, a = none → b = some q → pushes [(c 1, q)]) ∧
      (∀ p q, a = some p → b = some q →
        ((f32Val q).less (f32Val p) = true → pushes [(c 0, p), (c 1, q)]) ∧
        ((f32Val q).less (f32Val p) = false → pushes [(c 1, q), (c 0, p)]))) ∧
    (boxTest x.record (f32Val x.tcur) node = .miss → childNear x node n = none) ∧
    (∀ t, boxTest x.record (f32Val x.tcur) node = .enter t → childNear x node n = some t.bits32) ∧
    (s.rayPushes tile tr x [] = (s, .ok x)) ∧
    (∀ e l y, s.rayPush tile tr x e = (u, .ok y) → s.rayPushes tile tr x (e :: l) = u.rayPushes tile tr y l) ∧
    (∀ e, x.stack.length < 16 → s.rayPush tile tr x e = (s, .ok { x with stack := e :: x.stack })) ∧
    (∀ e l m, x.stack = l ++ [m] → 15 ≤ l.length →
      s.relayStore tile tr ((numberedFrom (raySpill x.record + 4 * x.spilled) (natBytes m.1 4)).map (fun y => (y.1, y.2, false))) =
        (u, .ok ()) → s.rayPush tile tr x e = (u, .ok { x with stack := e :: l, spilled := x.spilled + 1 }))

/-- 11 R222, R223, R224, R228: a ray that ends: its bytes 28 to 55 are written, with t, PRIM, INST, U, V and HIT of its hit or the values
for none, and ERR; the ray is gone, a hit counts, and CLOSEST or MISS is owed. An any-hit question owes the ANYHIT task with its
ticket. -/
def Says.RayEnds : Prop :=
  ∀ (s u : State) (tile idx : Nat) (tr : Trav) (x : Ray),
    let w := fun n : Nat => BitVec.ofNat 64 n
    let f := fun i => fieldAt tr.desc i 8
    let at_ := f 16 + 64 * x.idx
    let kept := fieldAt x.record 52 4 &&& 0xFFFFFCFF
    let err := if x.err then 0x200 else 0
    let bytes := fun hit flags => hit ++ (x.record.drop 48).take 4 ++ natBytes (kept ||| flags ||| err) 4
    let task := fun pc (l : List Word) (ticket : Option Nat) =>
      ({ kind := 2, lane := 0, pc := w pc, regs := [w (f 88), w at_, w (f 96), w x.idx] ++ l ++ [w (ticket.getD 0), 0], marks := 0
         pin := some tile, islocal := true, nomig := true, firstPins := false, first := false, lastAct := false, ticket := ticket } : Task)
    let gone := u.onRelay tile (fun q => { q with rays := q.rays.eraseIdx idx })
    let of := fun h : Hit => [w (h.prim + 2 ^ 32 * h.inst), w h.t, w (h.u + 2 ^ 32 * h.v)]
    (∀ h, x.best = some h →
      let now := s.writeRay tile tr x.idx 28 (bytes (natBytes h.t 4 ++ natBytes h.prim 4 ++ natBytes h.inst 4 ++ natBytes h.u 4 ++
        natBytes h.v 4) 0x100)
      (∀ e, now = (u, .error e) → s.rayEnds tile idx tr x = u.relayParks tile tr.rid 3 .write e) ∧
      (∀ id, now = (u, .ok ()) → (u.tile tile).relay.trav = some id → s.rayEnds tile idx tr x =
        ((gone.onTrav id (fun t => { t with made := t.made + 1 })).owe tile tr (task (f 72) (of h) none)).stepEnds tile)) ∧
    (x.best = none →
      let now := s.writeRay tile tr x.idx 28 (bytes ((x.record.drop 28).take 4 ++ natBytes 0xFFFFFFFF 4 ++ natBytes 0xFFFFFFFF 4 ++
        natBytes 0 4 ++ natBytes 0 4) 0)
      (∀ e, now = (u, .error e) → s.rayEnds tile idx tr x = u.relayParks tile tr.rid 3 .write e) ∧
      (now = (u, .ok ()) → s.rayEnds tile idx tr x = (gone.owe tile tr (task (f 80) [0, 0, 0] none)).stepEnds tile)) ∧
    (∀ h : Hit, s.askHit tile idx tr x h =
      ((({ s with nextId := s.nextId + 1 } : State).setRay tile idx { x with ask := some s.nextId, asked := some h, answer := none }).owe tile
        tr (task (f 64) (of h) (some s.nextId))).stepEnds tile)

/-- Every step of a relay unit completes, in every state. -/
def Says.RelayCompletes : Prop :=
  ∀ (s : State) (tile idx : Nat), (∃ t, exec (.relayCommandTake tile) s = .next t) ∧ (∃ t, exec (.pairTest tile) s = .next t) ∧
    (∃ t, exec (.rayStep tile idx) s = .next t) ∧ (∃ t, exec (.relayQueuePlace tile) s = .next t) ∧
    (∃ t, exec (.relaySteal tile) s = .next t) ∧ (∃ t, exec (.traversalEnd tile) s = .next t)

/-- Taking a command, testing and refining pairs, stealing, ray steps with the box and triangle tests and micromaps, handler tasks with
their registers, and ending a traversal; every step completes. Where the rules leave the order or the outcome open the clauses rest on logs
28, 29 and 35. -/
def Obligations.RelaySteps : Prop :=
  Says.RelayTakes ∧ Says.PairRules ∧ Says.PairOutcomes ∧ Says.HandlerRegisters ∧ Says.HandlersPlaced ∧ Says.RelayUnits ∧
  Says.RelaySteals ∧ Says.RayTurns ∧ Says.RayStarts ∧ Says.BoxTests ∧ Says.TriangleTests ∧ Says.Micromaps ∧ Says.RayNodes ∧
  Says.RayTriangles ∧ Says.HitOrder ∧ Says.RayLoops ∧ Says.RayEnds ∧ Says.RelayCompletes

/-! ### Pacer streams -/

/-- K[d] holds a full stream and the next word follows. -/
def resultK (s : State) (d : KReg) (x : Stream) (m : Bool) : State := (s.onMe (fun t => t.wrK d (some x) m)).retire

/-- x is the simple stream of a class that encodes q (12 R239, R240). -/
def encodes (x : Stream) (c : Nat) (lap : BitVec 2) (phase : BitVec 12) (q : Nat) : Prop :=
  x.lap = lap ∧ x.mask = BitVec.twoPow 16 c ∧ x.phase = phase ∧ x.mix = false ∧
  (∀ j, j < lapLen lap → x.bits.getLsbD j = decide (((genSeq c)[(phase.toNat + j) % 4096]?).getD 0 < q)) ∧
  (∀ j, lapLen lap ≤ j → x.bits.getLsbD j = false)

/-- 12 R238, R245, R248: the sequence of each generator class, by its table; each class produces each number of 0 to 4,095 once; the
values and the stream that the rules write out. -/
def Says.Generators : Prop :=
  (∀ c, c < 16 → (genSeq c).length = 4096 ∧ (genSeq c).Nodup ∧ ∀ x ∈ genSeq c, x < 4096) ∧
  (∀ x ∈ [(0, 0x053, 0x001), (1, 0x053, 0x2C7), (2, 0x053, 0x9A3), (3, 0x053, 0xE5D), (4, 0x941, 0x001), (5, 0x941, 0x3B1),
      (6, 0x941, 0x86F), (7, 0x941, 0xD14)],
    (genSeq x.1)[0]? = some 0 ∧ (genSeq x.1)[1]? = some x.2.2 ∧ ∀ i v, 1 ≤ i → i < 4095 → (genSeq x.1)[i]? = some v →
      (genSeq x.1)[i + 1]? = some (if v.testBit 11 then (2 * v % 4096) ^^^ x.2.1 else 2 * v % 4096)) ∧
  (∀ x ∈ [(8, 0x000), (9, 0x801), (10, 0x40A), (11, 0xC93), (12, 0x25C), (13, 0xA6F), (14, 0x6F4), (15, 0xE3B)],
    ∀ i < 4096, ∃ v : Nat, (genSeq x.1)[i]? = some (v ^^^ x.2) ∧ v < 4096 ∧ ∀ k < 12, v.testBit k = i.testBit (11 - k)) ∧
  (genSeq 0).take 3 = [0, 1, 2] ∧ (genSeq 0)[12]? = some 0x800 ∧ (genSeq 0)[13]? = some 0x053 ∧ (genSeq 4)[13]? = some 0x941 ∧
  (let b := genBits 8 0 256 1000
   popFrom b 256 = 63 ∧ popFrom b 64 = 16 ∧ (List.range 5).map b.getLsbD = [true, false, false, false, true])

/-- 12 R244: the control word: CLASS, LAP, BIP and PHASE, none where a reserved bit is set or LAP is 3. -/
def Says.ControlWords : Prop :=
  ∀ w : Word,
    (ctlWord w = none ↔ w.extractLsb' 32 32 ≠ 0 ∨ w.extractLsb' 7 13 ≠ 0 ∨ w.extractLsb' 4 2 = 3) ∧
    ∀ c lap bip phase, ctlWord w = some (c, lap, bip, phase) →
      c = (w.extractLsb' 0 4).toNat ∧ lap = w.extractLsb' 4 2 ∧ bip = w.getLsbD 6 ∧ phase = w.extractLsb' 20 12

/-- 12 R244, R245, R252, R251: `sgen`, `sregen` and the stream-control trap; `scvt`. -/
def Says.StreamMakers : Prop :=
  ∀ (s : State) (g : Guard) (kd ka : KReg) (d a b : SReg), s.clean [b] = true →
    let w := s.me.rd b
    let bad := (bits w 0 32).zeroExtend 64
    (s.actsV .none g [a, b] [] [kd] = true →
      (ctlWord w = none → Traps (.sgen g kd a b) s 0x33 bad) ∧
      (∀ c lap bip phase, ctlWord w = some (c, lap, bip, phase) → ∃ (x : Stream), exec (.sgen g kd a b) s = .next (resultK s kd x (s.me.markS a)) ∧
        encodes x c lap phase (if bip then ((min (max (s.me.rd a).toInt (-4096)) 4096 + 4096) / 2).toNat
          else (min (max (s.me.rd a).toInt 0) 4096).toNat))) ∧
    (s.actsV .none g [b] [] [kd, ka] = true →
      (s.me.rdK ka = none → Traps (.sregen g kd ka b) s 0x30 (BitVec.ofNat 64 ka.toNat)) ∧
      (∀ y, s.me.rdK ka = some y → ctlWord w = none → Traps (.sregen g kd ka b) s 0x33 bad) ∧
      (∀ y c lap bip phase, s.me.rdK ka = some y → ctlWord w = some (c, lap, bip, phase) →
        ∃ (x : Stream), exec (.sregen g kd ka b) s = .next (resultK s kd x (s.me.markK ka)) ∧
          encodes x c lap phase (y.ones y.len * (4096 / y.len)))) ∧
    (s.acts .none g [d, a, b] = true →
      let c := (s.me.rd a).toNat
      let n := fld w 0 13
      exec (.scvt g d a b) s = .next (s.result d (BitVec.ofNat 64 (
        if n = 0 ∨ 4096 < n ∨ n < c then FFmt.f32.nan
        else FFmt.f32.round .rne false (if bitOf w 16 then ((2 * c : ℚ) - n) / n else (c : ℚ) / n))) (s.me.markS a)))

/-- 12 R240, R241, R242, R246: combinations bit by bit, their tags and their traps; the first empty source traps. That the detail of a lap
mismatch is 0 in [5:4] for `sand`, `sxnor` and `sor`, which have no third source, is the model's reading (log 20). -/
def Says.StreamCombinations : Prop :=
  ∀ (s : State) (g : Guard) (d a b n : KReg), s.actsV .none g [] [] [d, a, b, n] = true →
    s.actsV .none g [] [] [d, a, b] = true → s.actsV .none g [] [] [d, a] = true →
    let empty := fun (r : KReg) (i : Instr) => Traps i s 0x30 (BitVec.ofNat 64 r.toNat)
    let tag := fun (x : Stream) (m : BitVec 16) (f : BitVec 4096) =>
      ({ lap := x.lap, bits := f &&& lapMask x.lap, mask := m, phase := x.phase, mix := true } : Stream)
    let m2 := s.me.markK a || s.me.markK b
    (s.me.rdK a = none → empty a (.sand g d a b) ∧ empty a (.sxnor g d a b) ∧ empty a (.sor g d a b) ∧ empty a (.snot g d a) ∧
      empty a (.smux g d a b n)) ∧
    (∀ x, s.me.rdK a = some x →
      exec (.snot g d a) s = .next (resultK s d { x with bits := ~~~ x.bits &&& lapMask x.lap } (s.me.markK a)) ∧
      (s.me.rdK b = none → empty b (.sand g d a b) ∧ empty b (.sxnor g d a b) ∧ empty b (.sor g d a b) ∧
        empty b (.smux g d a b n)) ∧
      (∀ y, s.me.rdK b = some y →
        let lapBad := BitVec.ofNat 64 (x.lap.toNat + 4 * y.lap.toNat)
        let both := (x.mask &&& y.mask).zeroExtend 64
        let allowed := x.mask &&& y.mask = 0 ∨ (popCount x.mask = 1 ∧ x.mix = false ∧ y.mix = false ∧ x.mask = y.mask ∧
          x.mask.toNat < 256 ∧ x.phase ≠ y.phase)
        (x.lap ≠ y.lap → Traps (.sand g d a b) s 0x31 lapBad ∧ Traps (.sxnor g d a b) s 0x31 lapBad ∧
          Traps (.sor g d a b) s 0x31 lapBad) ∧
        (x.lap = y.lap →
          exec (.sor g d a b) s = .next (resultK s d (tag x (x.mask ||| y.mask) (x.bits ||| y.bits)) m2) ∧
          (¬ allowed → Traps (.sand g d a b) s 0x32 both ∧ Traps (.sxnor g d a b) s 0x32 both) ∧
          (allowed →
            exec (.sand g d a b) s = .next (resultK s d (tag x (x.mask ||| y.mask) (x.bits &&& y.bits)) m2) ∧
            exec (.sxnor g d a b) s = .next (resultK s d (tag x (x.mask ||| y.mask) (~~~ (x.bits ^^^ y.bits))) m2))) ∧
        (s.me.rdK n = none → empty n (.smux g d a b n)) ∧
        (∀ z, s.me.rdK n = some z →
          (x.lap ≠ y.lap ∨ x.lap ≠ z.lap → Traps (.smux g d a b n) s 0x31
            (BitVec.ofNat 64 (x.lap.toNat + 4 * y.lap.toNat + 16 * z.lap.toNat))) ∧
          (x.lap = y.lap → x.lap = z.lap → z.mask &&& (x.mask ||| y.mask) ≠ 0 → Traps (.smux g d a b n) s 0x32
            (((z.mask &&& (x.mask ||| y.mask)).zeroExtend 64) ||| 0x10000)) ∧
          (x.lap = y.lap → x.lap = z.lap → z.mask &&& (x.mask ||| y.mask) = 0 → exec (.smux g d a b n) s =
            .next (resultK s d (tag x (x.mask ||| y.mask ||| z.mask) ((y.bits &&& z.bits) ||| (x.bits &&& ~~~ z.bits)))
              (m2 || s.me.markK n))))))

/-- 12 R247, R248: a rotation, and counts. -/
def Says.StreamCounts : Prop :=
  ∀ (s : State) (g : Guard) (kd ka : KReg) (d b : SReg),
    (∀ i : Instr, (i = .sdelay g kd ka b ∧ s.actsV .none g [b] [] [kd, ka] = true ∧ s.clean [b] = true) ∨
        (i = .scnt g d ka ∧ s.actsV .none g [d] [] [ka] = true) ∨
        (i = .scntp g d ka b ∧ s.actsV .none g [d, b] [] [ka] = true ∧ s.clean [b] = true) →
      s.me.rdK ka = none → Traps i s 0x30 (BitVec.ofNat 64 ka.toNat)) ∧
    (∀ x, s.me.rdK ka = some x →
      let count := fun n => ((List.range n).filter (fun j => x.bits.getLsbD j)).length
      (s.actsV .none g [b] [] [kd, ka] = true → s.clean [b] = true → x.bits &&& lapMask x.lap = x.bits →
        let n := (s.me.rd b).toNat % lapLen x.lap
        ∃ (y : Stream), exec (.sdelay g kd ka b) s = .next (resultK s kd y (s.me.markK ka)) ∧ y.lap = x.lap ∧ y.mask = x.mask ∧
          y.mix = x.mix ∧ y.phase.toNat = (x.phase.toNat + n) % 4096 ∧
          ∀ j, j < lapLen x.lap → y.bits.getLsbD j = x.bits.getLsbD ((j + n) % lapLen x.lap)) ∧
      (s.actsV .none g [d] [] [ka] = true →
        exec (.scnt g d ka) s = .next (s.result d (BitVec.ofNat 64 (count (lapLen x.lap))) (s.me.markK ka))) ∧
      (s.actsV .none g [d, b] [] [ka] = true → s.clean [b] = true →
        exec (.scntp g d ka b) s =
          .next (s.result d (BitVec.ofNat 64 (count (min (s.me.rd b).toNat (lapLen x.lap)))) (s.me.markK ka))))

/-- 12 R249, R250: images: where they may lie, a bad header, an empty and a full one; `sst` writes what `sld` reads. -/
def Says.StreamImages : Prop :=
  ∀ (s : State) (g : Guard) (d : KReg) (a : SReg), s.actsV .none g [a] [] [d] = true → s.clean [a] = true →
    let x := (s.me.rd a).toNat
    let outside := x < spadBase ∨ spadBase + 2 ^ 20 ≤ x
    (outside → Traps (.sld g d a) s 0x34 0 ∧ Traps (.sst g d a) s 0x34 0) ∧
    (¬ outside → x % 64 ≠ 0 → Traps (.sld g d a) s 0x34 1 ∧ Traps (.sst g d a) s 0x34 1) ∧
    (¬ outside → x % 64 = 0 → s.hasRoom = true →
      (∀ u h key, s.reading (s.me.rd a) (List.range 64) .plain = .ok (u, h, key) →
        let tag := leNat ((h.take 8).map Prod.fst)
        let rest := leNat ((h.drop 8).map Prod.fst)
        let good := tag < 2 ^ 32 ∧ rest = 0 ∧ tag / 2 ^ 29 % 4 ≠ 3 ∧ (if tag / 2 ^ 31 % 2 = 1 then tag % 2 ^ 16 ≠ 0 else tag % 2 ^ 31 = 0)
        (¬ good → exec (.sld g d a) s = .next (u.takeTrap u.cur 0x35 (BitVec.ofNat 64 (tag % 2 ^ 32)))) ∧
        (tag = 0 → rest = 0 → exec (.sld g d a) s = .next ((u.addLoad [.k d none (anyMark h)]).retire)) ∧
        (good → tag ≠ 0 → ∀ v b key2,
          u.reading (u.me.rd a) (List.range (64 + lapLen (BitVec.ofNat 2 (tag / 2 ^ 29)) / 8)) .plain = .ok (v, b, key2) →
          exec (.sld g d a) s = .next ((v.addLoad [.k d (some (streamOf tag ((b.drop 64).map Prod.fst))) (anyMark b)]).retire))) ∧
      (∀ u, s.storing (s.me.rd a) ((List.range (streamImage (s.me.rdK d)).length).zip
          ((streamImage (s.me.rdK d)).map (fun b => (b, s.me.markK d)))) none = .ok u →
        exec (.sst g d a) s = .next u.retire)) ∧
    (∀ k : Stream, k.lap ≠ 3 → k.mask ≠ 0 → k.bits &&& lapMask k.lap = k.bits →
      let l := streamImage (some k)
      l.length = 64 + lapLen k.lap / 8 ∧ headerOk (leNat (l.take 8)) (leNat ((l.take 64).drop 8)) = true ∧
      streamOf (leNat (l.take 8)) (l.drop 64) = k)

/-- Generators, sgen, sregen, combinations with their tags and traps, rotation, counts, conversion and images. -/
def Obligations.Streams : Prop :=
  Says.Generators ∧ Says.ControlWords ∧ Says.StreamMakers ∧ Says.StreamCombinations ∧ Says.StreamCounts ∧ Says.StreamImages

/-! ### Prefixes -/

/-- A prefix is taken up: it sets its valid bit and STS.PFX, the next word follows, and a trap of its group reports the
group's first word. -/
def prefixed (s u : State) (valid : Nat) : Prop :=
  u = s.onMe (fun t => { t with pfxr := u.me.pfxr, sts := t.sts ||| 2, groupPc := s.me.trapPc, pc := t.pc + 4 }) ∧
  bitOf u.me.pfxr valid = true ∧ bitOf u.me.sts 1 = true ∧ u.me.trapPc = s.me.trapPc

/-- The other bits of PFXR stay. -/
def pfxrKeeps (s u : State) (valid lo n : Nat) : Prop :=
  ∀ i, i < 64 → i ≠ valid → ¬ (lo ≤ i ∧ i < lo + n) → bitOf u.me.pfxr i = bitOf s.me.pfxr i

/-- 05 R102, R103, R104, R105, R107, R108: the three prefixes; a second one of a kind, and a reserved word, are illegal. -/
def Obligations.Prefixes : Prop :=
  ∀ (s : State) (rm : BitVec 2) (af bf df : BitVec 4) (scm : BitVec 3) (acc : BitVec 1) (hi : BitVec 22) (kind : BitVec 4)
    (w : BitVec 32),
    (bitOf s.me.pfxr 60 = true → Traps (.fmt rm af bf df scm acc) s 1 0) ∧
    (bitOf s.me.pfxr 61 = true → Traps (.immx hi) s 1 0) ∧
    (bitOf s.me.pfxr 62 = true → Traps (.hint kind) s 1 0) ∧
    Traps (.reservedEncoding w) s 1 0 ∧
    (bitOf s.me.pfxr 60 = false → ∃ (u : State), exec (.fmt rm af bf df scm acc) s = .next u ∧ prefixed s u 60 ∧
      pfxrKeeps s u 60 0 22 ∧ bits u.me.pfxr 20 2 = rm ∧ bits u.me.pfxr 16 4 = af ∧ bits u.me.pfxr 12 4 = bf ∧
      bits u.me.pfxr 8 4 = df ∧ bits u.me.pfxr 5 3 = scm ∧ bits u.me.pfxr 4 1 = acc) ∧
    (bitOf s.me.pfxr 61 = false → ∃ (u : State), exec (.immx hi) s = .next u ∧ prefixed s u 61 ∧ pfxrKeeps s u 61 22 22 ∧
      bits u.me.pfxr 22 22 = hi) ∧
    (bitOf s.me.pfxr 62 = false → ∃ (u : State), exec (.hint kind) s = .next u ∧ prefixed s u 62 ∧ pfxrKeeps s u 62 44 4 ∧
      bits u.me.pfxr 44 4 = kind)

/-! ### Exceptions -/

/-- 19 R282: an event counts in its region's block: the counter rises by one, in the region and, as far as the block translates, in memory
(when memory shows it is log 12's choice); no other region and no other part of the machine changes. -/
def Says.Counting : Prop :=
  ∀ (s : State) (rid i : Nat) (r : Region), s.region rid = some r →
    let v := s.count rid i
    v.region rid = some { r with counters := setAt r.counters i (r.counters[i]?.getD 0 + 1) } ∧
    (∀ j, j ≠ rid → v.region j = s.region j) ∧
    { s with regions := v.regions, mem := v.mem, memPoison := v.memPoison, lineKey := v.lineKey, hostDropped := v.hostDropped
             dies := v.dies } = v ∧
    ∀ d, { v.die d with dropped := (s.die d).dropped } = s.die d

/-- 19 R278, R279, R283, R284, 06 R134, R281: taking a precise trap: the saved registers, the mode, the handler; the double fault and
the region without a handler; a dual pair; `trap`, `syscall` and `rfe`. -/
def Says.Exceptions : Prop :=
  ∀ (s : State) (sid cause : Nat) (detail : Word) (imm : BitVec 10) (r : Region), s.region (s.strand sid).rid = some r →
    let t := s.strand sid
    let u := s.takeTrap sid cause detail
    let entered := fun (t : Strand) (c : Nat) (x pc : Word) =>
      { t with epc := (if bitOf t.sts 1 then t.groupPc else t.pc), ecause := BitVec.ofNat 64 c, edetail := x, ests := t.sts
               svsts := 0x801, pfxr := 0, sts := t.sts &&& ~~~ 2, pc := pc, wait := .no, inCheck := false }
    let w := if cause = 0x17 then (s.count t.rid 7).count t.rid 5 else s.count t.rid 7
    (t.super = false → t.dual = none → r.fhandler ≠ 0 →
      u = w.setStrand sid (entered t cause detail r.fhandler) ∧ u.strand sid = entered t cause detail r.fhandler ∧
      s.otherStrands u sid) ∧
    (t.super = true → u = w.killReport t.rid 0x84 (BitVec.ofNat 64 cause) t.trapPc) ∧
    (t.super = false → t.dual.isSome = true → u = w.dualFault sid cause detail) ∧
    (t.super = false → t.dual = none → r.fhandler = 0 → u = w.killReport t.rid cause detail t.trapPc) ∧
    (s.acts .none 0 [] = true →
      Traps (.trap imm) s 3 (imm.zeroExtend 64) ∧
      (s.runtime = 0 → Traps (.syscall imm) s 1 0) ∧
      (s.runtime ≠ 0 → s.me.super = true → Traps (.syscall imm) s 4 (imm.zeroExtend 64)) ∧
      (s.runtime ≠ 0 → s.me.super = false → s.me.dual.isSome = true → Traps (.syscall imm) s 0x13 0) ∧
      (s.runtime ≠ 0 → s.me.super = false → s.me.dual = none →
        let v := s.irrevAct s.cur
        exec (.syscall imm) s = .next (v.onMe (fun t => entered t 4 (imm.zeroExtend 64) v.runtime))) ∧
      (s.me.super = false → Traps .rfe s 2 0) ∧
      (s.me.super = true → s.me.trapped = false → Traps .rfe s 1 0) ∧
      (s.me.super = true → s.me.trapped = true → ∃ (v : State), exec .rfe s = .next v ∧
        v = s.onMe (fun t => { t with sts := v.me.sts, pfxr := 0, pc := t.epc, svsts := 0, svIrrev := false, cycles := 0 }) ∧
        bitOf v.me.sts 0 = (bitOf s.me.ests 0 || s.me.svIrrev) ∧ bitOf v.me.sts 1 = false ∧
        ∀ i, 2 ≤ i → bitOf v.me.sts i = bitOf s.me.sts i))

/-- Counting an event, and taking and leaving an exception. -/
def Obligations.TrapEntry : Prop := Says.Counting ∧ Says.Exceptions

/-! ### System words -/

/-- 20 R304: a `tlbinv` leaves no cached translation of a named page in the partition's cores, copy engines, relay units, builders
and encoders, and every other one. -/
def Says.TlbDrops : Prop :=
  ∀ (s : State) (pid : Nat) (f : Nat → Nat → Bool) (ag : Agent) (x : Tlb),
    x ∈ (s.dropTlbs pid f).tlb ag ↔ x ∈ s.tlb ag ∧ ¬ (x.pid = pid ∧ f x.base x.size = true)

/-- 20 R303, R304: `tlbinv` and `replay` wait for the strand's own stores and atomics; a `replay` for its puts too. -/
def Says.PagesWait : Prop :=
  ∀ (s : State) (a b : SReg) (kind : BitVec 2), s.me.super = true →
    let waits := s.onMe (fun t => { t with wait := .stalled })
    (s.acts .none 0 [a, b] = true → (kind ≠ 0 → s.clean [a, b] = true) → s.homeBusy s.cur = true ∨ 0 < s.storesOut s.cur →
      exec (.tlbinv a b kind) s = .next waits) ∧
    (s.acts .none 0 [a] = true → s.clean [a] = true →
      s.homeBusy s.cur = true ∨ s.putsOut s.cur = true ∨ 0 < s.storesOut s.cur → exec (.replay a) s = .next waits)

/-- 20 R304, R303: `tlbinv` drops the named translations and aborts the restartable tasks whose stores lie on a named page; it completes,
an acquire, once no access through a dropped translation is still to be performed. `replay` lets everything that waits for a page of its
regions go on. -/
def Says.PagesAndReplays : Prop :=
  ∀ (s : State) (a b : SReg) (kind : BitVec 2), s.me.super = true → s.homeBusy s.cur = false → s.storesOut s.cur = 0 →
    let pid := s.pidOfRegion s.me.rid
    let x := s.me.rd a
    let sets := fun (u : State) n => (u.onMe (fun t => { t with regstat := n })).retire
    (s.acts .none 0 [a, b] = true → (kind ≠ 0 → s.clean [a, b] = true) →
      let named := pageNamed kind x.toNat (s.me.rd b).toNat
      let u := (s.dropTlbs pid named).dropStores pid named
      (u.me.taskNo ≠ s.me.taskNo → exec (.tlbinv a b kind) s = .next u) ∧
      (u.me.taskNo = s.me.taskNo → usesPage u pid named = true →
        exec (.tlbinv a b kind) s = .next (u.onMe (fun t => { t with wait := .stalled }))) ∧
      (u.me.taskNo = s.me.taskNo → usesPage u pid named = false → exec (.tlbinv a b kind) s = .next (u.acquire u.cur 3).retire)) ∧
    (s.acts .none 0 [a] = true → s.clean [a] = true → s.putsOut s.cur = false →
      (x = 0 → exec (.replay a) s = .next (if (s.partition pid).map (·.root) = some s.me.rid then
        sets (((s.regions.filter (fun y => y.2.pid == pid)).map Prod.fst).foldl State.replayRegion s) 0 else sets s 1)) ∧
      (x ≠ 0 → exec (.replay a) s = .next (match s.regionOfBlock pid x with
        | none => sets s 1
        | some y => if s.descends y.1 s.me.rid then
            sets (((s.regions.filter (fun z => s.descends z.1 y.1)).map Prod.fst).foldl State.replayRegion s) 0 else sets s 1))) ∧
    ∀ rid sid, (s.replayRegion rid).strand sid =
      if (s.strand sid).rid = rid ∧ (s.strand sid).task.isSome = true ∧ (s.strand sid).wait = .parked
      then { s.strand sid with wait := .no } else s.strand sid

/-- 20 R302, R303, 02 R38, 11 R226: what a `replay` releases of a region beside its strands: each engine command and launch that waits for a
page, the relay units that work for it or wait with its command at the head, the records and fault records that wait for one, its
parked save and what was saved parked. Nothing of another region is released. -/
def Says.Replays : Prop :=
  ∀ (s : State) (rid : Nat),
    let u := s.replayRegion rid
    let free : Ready → Ready := fun w => { w with page := false }
    (∀ i, (u.tile i).copies = (s.tile i).copies.map (fun c => if c.rid = rid then { c with parked := false } else c) ∧
      let q := (s.tile i).relay
      let works := (∃ k tr, q.trav = some k ∧ s.trav k = some tr ∧ tr.rid = rid) ∨ (q.trav = none ∧ ∃ c, q.cmds.head? = some c ∧ c.rid = rid)
      (works → (u.tile i).relay = { q with parked := false }) ∧ (¬ works → (u.tile i).relay = q)) ∧
    (∀ d, (u.die d).builds = (s.die d).builds.map (fun c => if c.rid = rid then { c with parked := false } else c) ∧
      (u.die d).encCmds = (s.die d).encCmds.map (fun c => if c.rid = rid then { c with parked := false } else c)) ∧
    u.launches = s.launches.map (fun c => if c.rid = rid then { c with parked := false } else c) ∧
    (∀ r, s.region rid = some r → ∃ q : Region, u.region rid = some q ∧ q.saveParked = false ∧ q.requeue = r.requeue.map free ∧
      q.faults = r.faults.map free ∧ q.copiesSaved = r.copiesSaved.map (fun x => (x.1, { x.2 with parked := false })) ∧
      q.relaySaved = r.relaySaved.map (fun x => (x.1, { x.2 with parked := false })) ∧
      q.strandsSaved = r.strandsSaved.map (fun x => (x.1, if x.2.wait = .parked then { x.2 with wait := .no } else x.2)) ∧
      q.lanes = r.lanes ∧ q.mail = r.mail ∧ q.state = r.state) ∧
    (∀ k, k ≠ rid → u.region k = s.region k) ∧ u.mem = s.mem ∧ u.homeQ = s.homeQ

/-- 20 R304: which pages a `tlbinv` names; which accesses it waits for; which tasks it aborts: those that are restartable, of the
partition, and hold a buffered store of a named page, a dual pair as one, and no other. -/
def Says.NamedPages : Prop :=
  ∀ (s : State) (pid sid : Nat) (f : Nat → Nat → Bool) (kind : BitVec 2) (a b base size : Nat),
    let page := fun (va size : Nat) => f (va / 2 ^ size * 2 ^ size) size
    let hit := fun (t : Strand) => t.task.isSome = true ∧ t.restartable = true ∧ s.pidOfRegion t.rid = pid ∧
      ∃ u ∈ t.buf, page u.va u.size = true
    let t := s.strand sid
    pageNamed 0 a b base size = true ∧ (pageNamed 1 a b base size = true ↔ base ≤ a ∧ a < base + 2 ^ size) ∧
    (1 < kind.toNat → (pageNamed kind a b base size = true ↔ ∃ x, a ≤ x ∧ x < a + b ∧ base ≤ x ∧ x < base + 2 ^ size)) ∧
    (usesPage s pid f = true ↔
      (∃ x ∈ s.strands, x.2.task.isSome = true ∧ x.2.restartable = false ∧ s.pidOfRegion x.2.rid = pid ∧ ∃ u ∈ x.2.buf, page u.va u.size = true) ∨
      ∃ h ∈ s.homeQ, h.pid = pid ∧ (page h.va h.size = true ∨ ∃ y, h.also = some y ∧ page y.1 y.2 = true)) ∧
    ((s.strands.map Prod.fst).Pairwise (· < ·) →
      (hit t → ((s.dropStores pid f).strand sid).task = none) ∧
      (¬ hit t → t.dual = none → (∀ pd h ph, t.wait ≠ .barrier pd h ph) → (s.dropStores pid f).strand sid = t) ∧
      ((∀ i, ¬ hit (s.strand i)) → s.dropStores pid f = s) ∧
      (hit t → (∀ i, i ≠ sid → ¬ hit (s.strand i)) → s.dropStores pid f = s.abort sid none false))

/-- 22 R331, R332: sprint slots: 4 for each tile of the region, on its die; they are claimed where every die has as many free, and return when
the lease is dropped. -/
def Says.SprintSlots : Prop :=
  ∀ (s : State) (rid span d n : Nat) (l : List (Nat × Nat)) (tiles : List Nat) (r : Region),
    ((d, n) ∈ coresByDie tiles ↔ (∃ t ∈ tiles, dieOfTile t = d) ∧ n = 4 * tiles.countP (fun t => dieOfTile t == d)) ∧
    ((coresByDie tiles).map Prod.fst).Nodup ∧
    (s.slotsFree l = true ↔ ∀ x ∈ l, (s.die x.1).sprintUsed + x.2 ≤ s.config.sprintSlots) ∧
    (s.region rid = some r → (l.map Prod.fst).Nodup →
      let u := s.claimSlots rid span l
      u.region rid = some { r with leaseActive := true, leaseLeft := span, leaseSlots := l } ∧
      ((d, n) ∈ l → u.die d = { s.die d with sprintUsed := (s.die d).sprintUsed + n }) ∧
      (d ∉ l.map Prod.fst → u.die d = s.die d)) ∧
    (s.region rid = some r → (r.leaseSlots.map Prod.fst).Nodup →
      let u := s.dropLease rid
      u.region rid = some { r with leaseActive := false, leaseLeft := 0, leaseSlots := [] } ∧
      ((d, n) ∈ r.leaseSlots → u.die d = { s.die d with sprintUsed := (s.die d).sprintUsed - n }) ∧
      (d ∉ r.leaseSlots.map Prod.fst → u.die d = s.die d))

/-- 22 R331, R332, R333, R335, 02 R38, 19 R282: leases, markers and tolerances. That the LEASE word in memory follows in the same step
(`mirror`) is log 12's choice, that any a field is accepted log 60's. -/
def Says.PowerWords : Prop :=
  ∀ (s : State) (a d : SReg) (kind : BitVec 10) (r : Region), s.me.super = true → s.me.dual = none →
    let u := s.irrevAct s.cur
    let rid := u.me.rid
    let x := u.me.rd a
    let sets := fun (v : State) (n : Nat) => ((v.mirror rid).onMe (fun t => t.wr d (BitVec.ofNat 64 n) false)).retire
    (u.region rid = some r → s.acts .none 0 [a, d] = true → r.dual = true → (kind ≠ 2 → s.clean [a] = true) →
      exec (.lease a d kind) s = .next (u.takeTrap u.cur 0x13 0)) ∧
    (u.region rid = some r → s.acts .none 0 [a, d] = true → r.dual = false →
      (s.clean [a] = true → kind = 0 →
        let span := min x.toNat u.config.sprintMax
        let slots := coresByDie r.tiles
        (r.leaseActive = true → exec (.lease a d kind) s =
          .next (sets (u.onRegion rid (fun r => { r with leaseLeft := span })) span)) ∧
        (r.leaseActive = false → 0 < span → u.slotsFree slots = true →
          exec (.lease a d kind) s = .next (sets ((u.claimSlots rid span slots).applyPoint rid) span)) ∧
        (r.leaseActive = false → span = 0 ∨ u.slotsFree slots = false → exec (.lease a d kind) s = .next (sets u 0))) ∧
      (s.clean [a] = true → kind = 1 → exec (.lease a d kind) s = .next (sets (u.dropLease rid) 0)) ∧
      (kind = 2 → exec (.lease a d kind) s = .next (sets u r.leaseLeft))) ∧
    (s.acts .none 0 [a] = true → s.clean [a] = true →
      (fld (s.me.rd a) 8 56 ≠ 0 → Traps (.opmark a kind) s 1 0) ∧
      (fld (s.me.rd a) 8 56 = 0 → s.homeBusy s.cur = true ∨ s.me.spadOut ≠ [] →
        exec (.opmark a kind) s = .next (s.onMe (fun t => { t with wait := .stalled }))) ∧
      (fld (s.me.rd a) 8 56 = 0 → s.homeBusy s.cur = false → s.me.spadOut = [] → u.region rid = some r →
        (kind = 0 → exec (.opmark a kind) s =
          .next (((u.phaseEnd rid).beginPhase rid (setBits r.kphase 24 8 (fld (s.me.rd a) 0 8))).retire)) ∧
        (kind = 1 → exec (.opmark a kind) s = .next ({ u with ops := u.ops.filter (fun o =>
          !(o.pid == r.pid && o.kernel == fld r.kphase 0 24 && o.phase == fld (s.me.rd a) 0 8)) } : State).retire)) ∧
      (exec (.idle a) s = .next (u.onRegion rid (fun r =>
        { r with tolerance := if x = BitVec.allOnes 64 then none else some x.toNat })).retire))

/-- What each system word does to translations, buffered stores, waiting accesses, leases and their slots, phases and tolerances, with its
completion; what a replay lets go on, of strands, engines, saves and records. -/
def Obligations.SystemWords : Prop :=
  Says.TlbDrops ∧ Says.PagesWait ∧ Says.PagesAndReplays ∧ Says.Replays ∧ Says.NamedPages ∧ Says.SprintSlots ∧ Says.PowerWords

/-! ### Privileged writes -/

/-- 06 R133, 05 R92, 00 R5, 19 R279, 20 R294, R301, R309: `swr` and the registers it writes; a read-only selector is illegal, and in user mode
too, before the privilege is tested, which is log 13's reading; a reserved bit that is not 0 is illegal; a register outside 0x400 to 0x40F makes the task irrevocable. That a reserved value of PTROOT's RSZ and PRQBASE's M, and a STACKBASE that is not 256
KiB aligned, take the same trap is log 58's choice; that each 1 written to LASTUE clears its bit is log 23's reading. -/
def Says.SupervisorRegisters : Prop :=
  (∀ (s : State) (g : Guard) (a : SReg) (sel : BitVec 11), (Instr.swr g a sel).wf = true → sel ∉ [0x400, 0x405, 0x406, 0x431] →
    Traps (.swr g a sel) s 1 0) ∧
  ∀ (s : State) (g : Guard) (a : SReg), s.me.super = true → s.acts .none g [a] = true → s.clean [a] = true →
    let x := s.me.rd a
    let u := s.irrevAct s.cur
    let pid := u.pidOfRegion u.me.rid
    let m := fld x 0 5
    exec (.swr g a 0x400) s = .next (s.onMe (fun t => { t with epc := x })).retire ∧
    exec (.swr g a 0x405) s = .next (s.onMe (fun t => { t with kscratch := x })).retire ∧
    (fld x 48 16 ≠ 0 ∨ fld x 5 7 ≠ 0 ∨ (m ≠ 0 ∧ m < 4) ∨ 16 < m → Traps (.swr g a 0x431) s 1 0) ∧
    (fld x 0 18 ≠ 0 → Traps (.stackbase g a) s 1 0) ∧
    (fld x 48 16 ≠ 0 ∨ fld x 5 7 ≠ 0 ∨ 26 < m → Traps (.ptroot g a) s 1 0) ∧
    (fld x 48 15 ≠ 0 → Traps (.lastue g a) s 1 0) ∧
    (s.me.dual = none →
      (fld x 0 18 = 0 → exec (.stackbase g a) s = .next (u.onMe (fun t => { t with stackbase := x })).retire) ∧
      (∀ p, u.partition pid = some p →
        (fld x 48 16 = 0 → fld x 5 7 = 0 → m = 0 ∨ (4 ≤ m ∧ m ≤ 16) →
          exec (.swr g a 0x431) s = .next (u.setPartition pid { p with prqbase := x }).retire) ∧
        (fld x 48 16 = 0 → fld x 5 7 = 0 → m ≤ 26 →
          exec (.ptroot g a) s = .next (u.setPartition pid { p with ptroot := x }).retire)) ∧
      (fld x 48 15 = 0 → exec (.lastue g a) s =
        .next (u.onDie (dieOf u.cur) (fun d => { d with lastue := d.lastue &&& ~~~ u.me.rd a })).retire))

/-- A region command is over: its answer stands in REGSTAT, and the next word follows unless its own task is gone. -/
def commanded (u v : State) (n : Nat) : State :=
  let v := v.onMe (fun t => { t with regstat := BitVec.ofNat 64 n })
  if v.me.taskNo = u.me.taskNo then v.retire else v

/-- 19 R279, R282, R283, R284: PREEMPT, RESUME, KILL and RCBSYNC: a block that is not the issuing region's or below answers 1, but that
RCBSYNC may name the default block; a state that does not admit the command answers 2. RCBSYNC takes the mutable fields as the block in
memory gives them, or with one out of range none. What RCBSYNC answers for a block that does not translate is log 67's choice, and that a second
RESUME of a region that is already resuming answers 2 is log 81's. -/
def Says.RegionCommands : Prop :=
  ∀ (s : State) (g : Guard) (a : SReg), s.me.super = true → s.acts .none g [a] = true → s.clean [a] = true → s.me.dual = none →
    let u := s.irrevAct s.cur
    let found := u.regionOfBlock (u.pidOfRegion u.me.rid) (u.me.rd a)
    let three := fun n => exec (.preempt g a) s = .next (commanded u u n) ∧ exec (.resume g a) s = .next (commanded u u n) ∧
      exec (.kill g a) s = .next (commanded u u n)
    let rereads := fun rid r =>
      (r.state ≠ .killed → r.state ≠ .ended → u.region rid = some r →
        (∀ v e, u.readVirt .hw r.pid (some rid) true r.block.toNat 256 = (v, .error e) →
          exec (.rcbsync g a) s = .next (commanded u v 2)) ∧
        (∀ v l, u.readVirt .hw r.pid (some rid) true r.block.toNat 256 = (v, .ok l) →
          exec (.rcbsync g a) s = .next (if (valsOf (l.map Prod.fst)).ok then commanded u (v.setVals rid (valsOf (l.map Prod.fst))) 0
            else commanded u v 2))) ∧
      (r.state = .killed ∨ r.state = .ended → exec (.rcbsync g a) s = .next (commanded u u 2))
    (found = none → three 1 ∧ exec (.rcbsync g a) s = .next (commanded u u 1)) ∧
    (∀ rid r, found = some (rid, r) → u.descends rid u.me.rid = false → three 1 ∧
      (r.parent.isSome = true → exec (.rcbsync g a) s = .next (commanded u u 1)) ∧ (r.parent = none → rereads rid r)) ∧
    (∀ rid r, found = some (rid, r) → u.descends rid u.me.rid = true →
      exec (.preempt g a) s = .next (if r.state = .running then commanded u (u.preemptRegion rid) 0 else commanded u u 2) ∧
      exec (.resume g a) s = .next (if r.state = .preempted ∧ r.resuming = false then
        commanded u (u.onRegion rid (fun r => { r with resuming := true })) 0 else commanded u u 2) ∧
      (r.state ≠ .killed → r.state ≠ .ended → exec (.kill g a) s = .next (commanded u (u.kill rid) 0)) ∧
      (r.state = .killed ∨ r.state = .ended → exec (.kill g a) s = .next (commanded u u 2)) ∧ rereads rid r)

/-- 19 R282: the fields that RCBSYNC takes, where the block holds them, and their ranges. -/
def Says.MutableFields : Prop :=
  (∀ l : List Byte, let v := valsOf l
    v.prio = fieldAt l 9 1 ∧ v.debug = (fieldAt l 10 1).testBit 3 ∧ v.scopetrap = (fieldAt l 10 1).testBit 4 ∧ v.rhome = fieldAt l 12 1 ∧
    v.agek = fieldAt l 13 1 ∧ v.runlim = fieldAt l 14 1 ∧ v.drainlim = fieldAt l 15 1 ∧ v.kphase = BitVec.ofNat 32 (fieldAt l 16 4) ∧
    v.fhandler = BitVec.ofNat 64 (fieldAt l 24 8) ∧ v.bwdog = fieldAt l 56 2 ∧ v.quota = fieldAt l 58 2 ∧
    v.wotab = BitVec.ofNat 64 (fieldAt l 112 8)) ∧
  ∀ v : RcbVals, v.ok = true ↔ v.prio < 8 ∧ 1 ≤ v.rhome ∧ v.rhome < 256 ∧ 8 ≤ v.agek ∧ v.agek ≤ 40 ∧ 16 ≤ v.runlim ∧ v.runlim ≤ 40 ∧
    8 ≤ v.drainlim ∧ v.drainlim ≤ 32 ∧ 16 ≤ v.bwdog ∧ v.bwdog ≤ 40 ∧ v.quota < 65536

/-- 02 R24, R39, 08 R152, 19 R286: what throwing away a run leaves: the strand idle, the places of its records free, what it took from a deque
back at the oldest end, newest first, its barrier freed and the barrier's waiters released false; every other strand as it was. An aborted
task, or a dual pair as one, goes to the requeue area of its region, with its time begun again; a fault record to the fault part. -/
def Says.Aborts : Prop :=
  ∀ (s : State) (sid : Nat) (r : Region), (s.strands.map Prod.fst).Pairwise (· < ·) →
    let t := s.strand sid
    let u := s.discard sid
    u.strand sid = t.idle ∧
    (∀ j, j ≠ sid → (∀ pd h ph, (s.strand j).wait ≠ .barrier pd h ph) → u.strand j = s.strand j) ∧
    (s.region t.rid = some r → t.undo = [] → ∃ q, u.region t.rid = some q ∧ q = { r with lanes := q.lanes } ∧
      ∀ i (l : Lane), r.lanes[i]? = some l → q.lanes[i]? = some { l with reserved := l.reserved - t.records.countP (fun x : Task × Bool => x.1.lane == i) }) ∧
    (∀ tl (l : List DqEntry), t.undo = l.map (Undo.take tl) → (u.tile tl).deque = l.reverse ++ (s.tile tl).deque) ∧
    (∀ (h : Word) d i b, t.undo = [.barrier h] → s.barrierOf t.rid h = some (d, i, b) → ((s.die d).barriers.map Prod.fst).Pairwise (· < ·) →
      u.barrierOf t.rid h = none ∧ ∀ j pd ph, j ≠ sid → (s.strand j).wait = .barrier pd h ph →
        u.strand j = { (s.strand j).wrP pd 0 false with wait := .no, pc := (s.strand j).pc + 4 }) ∧
    (∀ die page, t.dual = none →
      (t.task = none → s.abort sid die page = s) ∧
      (∀ k, t.task = some k → s.abort sid die page = u.requeue t.rid k die page [])) ∧
    (∀ die page lab, t.dual = some lab →
      let v := (s.runsOf lab).foldl (fun v i => v.discard i) s
      (∀ i, i ∈ s.runsOf lab ↔ (s.strand i).dual = some lab) ∧ (v.strand sid).task = none ∧
      ∀ d, lookupKey v.duals lab = some d →
        s.abort sid die page = { v.requeue d.rid d.ready.task die page [] with duals := dropKey v.duals lab }) ∧
    ∀ rid k die page tiles, s.region rid = some r →
      let w : Ready := { task := k, t0 := s.meshTime, level := r.prio, page := page, die := die, tileNot := tiles }
      let q := { r with counters := bumpAt (bumpAt r.counters 1) 2 }
      (s.requeue rid k die page tiles).region rid =
        some (if k.kind = 3 then { q with faults := w :: r.faults } else { q with requeue := r.requeue ++ [w] })

/-- 19 R282, R284, R285, 21 R341: KILL leaves a region KILLED, its strands idle, and none of its records, messages, commands, traversals or deque
entries; with it fall its children and the regions of its fault domain, and no other region changes its state. PREEMPT leaves it PREEMPTING
with its restartable tasks that have not trapped aborted; the others run on. -/
def Says.RegionStates : Prop :=
  ∀ (s : State) (rid : Nat) (r : Region), s.region rid = some r →
    let killed := fun (v : State) i => (v.region i).map (·.state) = some .killed
    (r.live = true ↔ r.state ≠ .killed ∧ r.state ≠ .ended) ∧ (r.live = false → s.killOne rid = s) ∧
    (r.live = true →
      let u := s.killOne rid
      (∃ q, u.region rid = some q ∧ q.state = .killed ∧ q.requeue = [] ∧ q.faults = [] ∧ q.mail = [] ∧ q.strandsSaved = [] ∧
        q.first = none ∧ ∀ l ∈ q.lanes, l.queue = [] ∧ l.reserved = 0 ∧ l.chain = []) ∧
      (∀ i, (s.strand i).task.isSome = true → (s.strand i).rid = rid → (u.strand i).task = none) ∧
      u.msgs = s.msgs.filter (fun m => m.rid != rid) ∧ u.launches = s.launches.filter (fun c => c.rid != rid) ∧
      u.duals = s.duals.filter (fun d => d.2.rid != rid) ∧ u.travs = s.travs.filter (fun x => x.2.rid != rid) ∧
      (∀ i, (u.tile i).copies = (s.tile i).copies.filter (fun c => c.rid != rid) ∧
        (u.tile i).deque = (s.tile i).deque.filter (fun e => e.rid != rid)) ∧
      (∀ d, (u.die d).builds = (s.die d).builds.filter (fun c => c.rid != rid) ∧
        (u.die d).encCmds = (s.die d).encCmds.filter (fun c => c.rid != rid)) ∧
      ∀ i q, i ≠ rid → s.region i = some q → (u.region i).map (·.state) = some q.state) ∧
    (r.live = true → killed (s.kill rid) rid) ∧
    (∀ i j p q, s.region i = some p → s.region j = some q → p.live = true → q.live = true →
      p.parent = some j ∨ (p.fdomain ≠ 0 ∧ p.fdomain = q.fdomain ∧ p.pid = q.pid) → killed (s.kill rid) j → killed (s.kill rid) i) ∧
    (∀ i p, s.region i = some p → killed (s.kill rid) i ∨ ((s.kill rid).region i).map (·.state) = some p.state) ∧
    (r.state = .running → (s.strands.map Prod.fst).Pairwise (· < ·) →
      let u := s.preemptRegion rid
      let hit := fun (t : Strand) => t.task.isSome = true ∧ t.rid = rid ∧ t.restartable = true ∧ t.trapped = false
      (u.region rid).map (·.state) = some .preempting ∧ (∀ i, hit (s.strand i) → (u.strand i).task = none) ∧
      ∀ i, ¬ hit (s.strand i) → (s.strand i).dual = none → (∀ pd h ph, (s.strand i).wait ≠ .barrier pd h ph) → u.strand i = s.strand i)

/-- 19 R280: the values of FATE, written by `swr` and as its own step. That 1 and 2 are ignored where no task has trapped is log 67's choice. -/
def Says.Fates : Prop :=
  ∀ (s : State) (g : Guard) (a : SReg), s.me.super = true → s.me.task.isSome = true →
    let gone := (s.noVerdict s.cur).discard s.cur
    (s.me.trapped = true → exec .fateRequeue s = .next (if s.me.restartable then s.abort s.cur none false else gone)) ∧
    (s.me.trapped = true → exec .fateEnd s = .next gone) ∧
    exec .fateKill s = .next (s.kill s.me.rid) ∧
    (s.me.trapped = false → exec .fateRequeue s = .next s.retire ∧ exec .fateEnd s = .next s.retire) ∧
    (s.acts .none g [a] = true → s.clean [a] = true →
      (s.me.rd a = 1 → exec (.swr g a 0x406) s = exec .fateRequeue s) ∧
      (s.me.rd a = 2 → exec (.swr g a 0x406) s = exec .fateEnd s) ∧
      (s.me.rd a = 3 → exec (.swr g a 0x406) s = exec .fateKill s) ∧
      (s.me.rd a = 0 ∨ 3 < (s.me.rd a).toNat → exec (.swr g a 0x406) s = .next s.retire))

/-- swr of every selector, FATE, what an abort and a kill discard and leave, and PREEMPT, RESUME, KILL and RCBSYNC with their answers and the
states they leave (logs 12, 13, 23, 58, 67 and 81). -/
def Obligations.PrivilegedWrites : Prop :=
  Says.SupervisorRegisters ∧ Says.RegionCommands ∧ Says.MutableFields ∧ Says.Aborts ∧ Says.RegionStates ∧ Says.Fates

/-! ### The checks before an instruction -/

/-- The prefixes that may govern an instruction, from the table of 05 R106. -/
def governs (i : Instr) : Pfx :=
  match i with
  | .addi .. | .andi .. | .ori .. | .xori .. | .cmpi .. | .lui .. | .addpc .. | .stB .. | .stH .. | .stW .. | .stD .. | .j .. | .jal ..
    | .jalr .. => ⟨false, true, []⟩
  | .ldB .. | .ldBz .. | .ldH .. | .ldHz .. | .ldW .. | .ldWz .. | .ldD .. => ⟨false, true, [1, 2, 3]⟩
  | .ldIndexed .. | .vld .. | .vlds .. | .vldx .. | .vldVol .. | .vldFg .. => ⟨false, false, [1, 2, 3]⟩
  | .bCc .. | .biCc .. => ⟨false, true, [4, 5]⟩
  | .fadd .. | .fsub .. | .fmul .. | .fdiv .. | .fsqrt .. | .fma .. | .fmin .. | .fmax .. | .fclass .. | .fcmp .. | .fcvt .. | .vaddFp ..
    | .vsubFp .. | .vmulFp .. | .vdiv .. | .vsqrt .. | .vfma .. | .vminFp .. | .vmaxFp .. | .vfrsqe .. | .vabs .. | .vcmpFp .. | .vcvt ..
    | .mma .. | .mmas .. | .mmal .. | .prune .. | .xrnd .. => ⟨true, false, []⟩
  | _ => ⟨false, false, []⟩

/-- An instruction of supervisor mode (06 R133, 05 R92, 19 R278, R279, 20 R303, R304, 22 R332, R333, R335). -/
def ofSupervisor (i : Instr) : Bool :=
  match i with
  | .srd _ _ sel => sel.getLsbD 10
  | .swr .. | .stackbase .. | .ptroot .. | .lastue .. | .rcbsync .. | .preempt .. | .resume .. | .kill .. | .tlbinv .. | .replay .. | .lease ..
    | .opmark .. | .idle .. | .rfe => true
  | _ => false

/-- An instruction that applies its guard byte by byte (01 R10, 05 R99). -/
def byByte (i : Instr) : Bool :=
  match i with
  | .vld .. | .vst .. | .vlds .. | .vldx .. | .vstx .. | .vldVol .. | .vldFg .. | .vaddInt .. | .vsubInt .. | .vmulInt .. | .vmulh ..
    | .vmulhz .. | .vand .. | .vor .. | .vxor .. | .vshl .. | .vshr .. | .vsra .. | .vminInt .. | .vmaxInt .. | .vminz .. | .vmaxz ..
    | .vcmpInt .. | .vaddFp .. | .vsubFp .. | .vmulFp .. | .vdiv .. | .vsqrt .. | .vfma .. | .vminFp .. | .vmaxFp .. | .vfrsqe .. | .vabs ..
    | .vcmpFp .. | .vcvt .. | .vsel .. | .vbcast .. | .vperm .. | .vslide .. | .vscan .. | .vcompact .. | .vins .. | .vdotI8 .. | .vdotF16 ..
    | .vdotBf16 .. | .vdotE4m3 .. => true
  | _ => false

/-- 05 R92, R99, R103, R106, R108, 01 R10, 06 R109, R133, for every instruction that has a word and is no prefix: a prefix that may not govern
it is illegal; a supervisor word in user mode takes the privilege trap; a marked guard takes the poison-consumption trap; a false guard, or
one without a byte where it is read byte by byte, leaves only the next word. `swr` to a read-only selector is the claim of `PrivilegedWrites`,
a matrix instruction that finds a `copyw` of its strand under way that of `MatrixIssue`. -/
def Says.WordChecks : Prop :=
  ∀ (s : State) (i : Instr), i.wf = true → (encode i).isSome = true → s.copywOut s.cur = false →
    (∀ rm af bf df scm acc, i ≠ .fmt rm af bf df scm acc) → (∀ hi, i ≠ .immx hi) → (∀ kind, i ≠ .hint kind) →
    (∀ g a sel, i = .swr g a sel → sel ∈ [0x400, 0x405, 0x406, 0x431]) →
    let x := s.me.pfxr
    let p := governs i
    let g := i.guard
    (bitOf x 60 = true ∧ p.fmt = false ∨ bitOf x 61 = true ∧ p.immx = false ∨ bitOf x 62 = true ∧ fld x 44 4 ∉ p.hints →
      Traps i s 1 0) ∧
    (x = 0 →
      (s.me.super = false → ofSupervisor i = true → Traps i s 2 0) ∧
      (s.me.super = true ∨ ofSupervisor i = false →
        (s.me.markP (guardReg g) = true → Traps i s 5 (BitVec.ofNat 64 (0x200 + (guardReg g).toNat))) ∧
        (s.me.markP (guardReg g) = false →
          (byByte i = false → s.me.guardOn g = false → exec i s = .next s.retire) ∧
          (byByte i = true → s.me.guardBytes g = 0 → s.me.pendS = 0 → s.me.pendV = 0 → exec i s = .next s.retire))))

/-- An instruction that passes these checks: the pending prefixes may govern it, a `fmt` among them giving a rounding mode only, the mode
admits it, its guard is unmarked and lets it act, and no register is pending. -/
def passes (s : State) (i : Instr) : Prop :=
  (governs i).allows s.me.pfxr = true ∧ (bitOf s.me.pfxr 60 = true → rmOnly s.me.pfxr = true ∧
    ∀ g d a b mode q, i = .xrnd g d a b mode q → mode = 0) ∧ (s.me.super = true ∨ ofSupervisor i = false) ∧ s.me.markP (guardReg i.guard) = false ∧
  (if byByte i then s.me.guardBytes i.guard ≠ 0 else s.me.guardOn i.guard = true) ∧
  s.me.pendS = 0 ∧ s.me.pendV = 0 ∧ s.me.pendK = 0 ∧ s.copywOut s.cur = false

/-- The scalar registers whose mark an instruction may not take, in the order in which the trap looks at them (06 R109, R110): addresses,
indices and compared values, and what the model adds to them (logs 65 and 69). -/
def consumes (i : Instr) : List SReg :=
  match i with
  | .cmp _ _ a b _ | .fcmp _ _ a b _ _ | .bCc _ a b _ | .ldIndexed _ _ a b _ _ | .stIndexed _ _ a b _ _ | .vlds _ _ a b _ | .xmerge _ a b _
    | .bexpect _ a b | .bwait _ _ a b | .rebal _ _ _ _ a b _ | .gunpin _ _ a b | .bquery _ _ a b | .nld _ _ a b | .verdict _ a b => [a, b]
  | .cmpi _ _ _ a _ | .pmovPS _ _ a | .biCc _ a _ _ | .jalr _ _ a _ | .pause a | .ldB _ _ a _ | .ldBz _ _ a _ | .ldH _ _ a _ | .ldHz _ _ a _
    | .ldW _ _ a _ | .ldWz _ _ a _ | .ldD _ _ a _ | .stB _ _ a _ | .stH _ _ a _ | .stW _ _ a _ | .stD _ _ a _ | .amoAdd _ _ a _ _
    | .amoAnd _ _ a _ _ | .amoOr _ _ a _ _ | .amoXor _ _ a _ _ | .amoMin _ _ a _ _ | .amoMax _ _ a _ _ | .amoMinz _ _ a _ _
    | .amoMaxz _ _ a _ _ | .amoSwap _ _ a _ _ | .cas _ _ a _ _ | .xaddF32 _ a _ _ | .xaddF64 _ a _ _ | .xclr _ a | .xrnd _ _ a _ _ _
    | .vld _ _ a _ | .vldVol _ _ a _ | .vldFg _ _ a _ | .vst _ _ a _ | .vldx _ _ a _ _ | .vstx _ _ a _ _ | .join _ a | .launch _ _ a
    | .barrive _ _ a | .bfree _ a | .venc _ _ _ _ a _ | .build _ _ _ _ a _ | .refit _ _ _ _ a _ | .gpin _ _ a | .pairgo _ _ _ _ a _
    | .raygo _ _ _ _ a _ | .sld _ _ a | .sst _ _ a | .mld _ _ a | .mst _ _ a | .replay a | .opmark a _ | .idle a | .preempt _ a
    | .resume _ a | .kill _ a | .rcbsync _ a | .stackbase _ a | .ptroot _ a | .lastue _ a => [a]
  | .swr _ a sel => if sel = 0x400 ∨ sel = 0x405 ∨ sel = 0x406 ∨ sel = 0x431 then [a] else []
  | .vslide _ _ _ b _ | .vext _ _ _ b _ | .vins _ _ _ b _ | .dqsteal _ _ _ b | .balloc _ _ _ _ b | .sgen _ _ _ b | .scntp _ _ _ b
    | .scvt _ _ _ b | .sregen _ _ _ b | .sdelay _ _ _ b => [b]
  | .copy _ _ _ t a b _ | .put _ _ _ t a b _ | .putO _ _ _ t a b _ | .gather _ _ _ t a b _ | .copyw _ _ _ t a b => [t, a, b]
  | .send _ _ _ a _ _ | .ctld _ a => [a, a + 1]
  | .spawn _ _ a | .spawnj _ _ a => [a, a + 2]
  | .tlbinv a b kind => if kind = 0 then [] else [a, b]
  | .lease a _ kind => if kind = 2 then [] else [a]
  | _ => []

/-- The predicate whose mark an instruction may not take (06 R110). -/
def selectors (i : Instr) : List PReg :=
  match i with
  | .sel _ _ _ _ n | .vsel _ _ _ _ n | .vredInt _ _ _ n _ _ | .vredFp _ _ _ n _ _ | .vscan _ _ _ n _ | .vcompact _ _ _ n _ => [n]
  | _ => []

/-- A deque or barrier word that may not run in a dual pair (08 R154). -/
def notInDual (i : Instr) : Bool :=
  match i with
  | .dqpush .. | .dqpop .. | .dqsplit .. | .dqsteal .. | .balloc .. | .bexpect .. | .barrive .. | .bfree .. => true
  | _ => false

/-- 06 R109, R110, 07 R136: a consumer of a marked scalar or predicate register takes the poison-consumption trap with that register in
the detail; of several the first in the order of its list (log 65). -/
def Says.Consumption : Prop :=
  ∀ (s : State) (i : Instr), i.wf = true → (encode i).isSome = true → passes s i → (notInDual i = true → s.me.dual = none) →
    (∀ g pd a, i = .spawn g pd a ∨ i = .spawnj g pd a → malformed (s.me.rd a) = false) →
    (∀ r, (consumes i).find? s.me.markS = some r → Traps i s 5 (BitVec.ofNat 64 r.toNat)) ∧
    (∀ r, (selectors i).find? s.me.markP = some r → Traps i s 5 (BitVec.ofNat 64 (0x200 + r.toNat)))

/-- An access that takes a place of the loads or the stores counter (05 R101). -/
def accesses (i : Instr) : Bool :=
  match i with
  | .ldB .. | .ldBz .. | .ldH .. | .ldHz .. | .ldW .. | .ldWz .. | .ldD .. | .stB .. | .stH .. | .stW .. | .stD .. | .ldIndexed .. | .stIndexed ..
    | .amoAdd .. | .amoAnd .. | .amoOr .. | .amoXor .. | .amoMin .. | .amoMax .. | .amoMinz .. | .amoMaxz .. | .amoSwap .. | .cas ..
    | .xaddF32 .. | .xaddF64 .. | .xmerge .. | .xclr .. | .xrnd .. | .vld .. | .vldVol .. | .vldFg .. | .vst .. | .vlds .. | .vldx ..
    | .vstx .. | .nld .. | .sld .. | .sst .. => true
  | _ => false

/-- An engine command of one of the strand's 16 places (05 R101). -/
def commands (i : Instr) : Bool :=
  match i with
  | .launch .. | .send .. | .copy .. | .put .. | .putO .. | .gather .. | .copyw .. | .venc .. | .mzero .. | .mld .. | .mst .. | .ctld .. | .build ..
    | .refit .. | .rebal .. | .gpin .. | .gunpin .. | .bquery .. | .pairgo .. | .raygo .. => true
  | _ => false

/-- 05 R101: an access that finds the 32 places of its strand taken, or an atomic of the strand under way (the model's choice, log 5),
and an engine command that finds 16 outstanding, waits at its word; traps of its address's form, of a marked index and of a malformed
message come first. -/
def Says.FullCounters : Prop :=
  ∀ (s : State) (i : Instr), i.wf = true → (encode i).isSome = true → passes s i → s.clean (consumes i) = true →
    let waits := s.onMe (fun t => { t with wait := .stalled })
    (∀ g d a b size mod, i = .ldIndexed g d a b size mod ∨ i = .stIndexed g d a b size mod →
      mod.toNat < 4 ∨ (s.me.rd a + s.me.rd b * BitVec.ofNat 64 (sizeBytes size)).toNat % sizeBytes size = 0) →
    (∀ g d a, i = .sld g d a ∨ i = .sst g d a → 0xFFFFFFF000000000 ≤ (s.me.rd a).toNat ∧ (s.me.rd a).toNat ≤ 0xFFFFFFF0000FFFFF ∧
      (s.me.rd a).toNat % 64 = 0) →
    (∀ g d a x w, i = .vldx g d a x w ∨ i = .vstx g d a x w → s.me.markV x = 0) →
    (∀ g sc t a b rel, i = .send g sc t a b rel → codeOk (s.me.rd (a + 1)) = true) →
    (accesses i = true → s.hasRoom = false → exec i s = .next waits) ∧
    (commands i = true → 16 ≤ s.enginesOut s.cur → exec i s = .next waits)

/-- An engine command or a privileged word that is an irrevocable act at its issue (02 R36, R38). -/
def actsAtIssue (i : Instr) : Bool :=
  match i with
  | .launch .. | .send .. | .copy .. | .put .. | .putO .. | .gather .. | .venc .. | .build .. | .refit .. | .rebal .. | .gpin .. | .gunpin ..
    | .pairgo .. | .raygo .. | .preempt .. | .resume .. | .kill .. | .rcbsync .. | .lease .. | .idle .. => true
  | _ => false

/-- 02 R38, 08 R154: in a dual run a deque or barrier word, but `bwait`, takes the trap 0x14, and an irrevocable act the trap 0x13 with
nothing done: an engine command that has found its places, a store to the scratchpad that its window admits, a store that overflows the
buffer. -/
def Says.DualRuns : Prop :=
  (∀ (s : State) (i : Instr), i.wf = true → (encode i).isSome = true → passes s i → s.me.dual.isSome = true →
    (notInDual i = true → Traps i s 0x14 0) ∧
    (actsAtIssue i = true → s.clean (consumes i) = true → s.enginesOut s.cur < 16 →
      s.loadsOut s.cur + s.storesOut s.cur + s.copiesOut s.cur + s.matrixOut s.cur = 0 → s.writesOut s.cur = false →
      s.homeBusy s.cur = false → (s.tile (tileOf s.cur)).copies.length < 64 → (s.tile (tileOf s.cur)).relay.cmds.length < 8 →
      (∀ g sc t a b rel, i = .send g sc t a b rel → codeOk (s.me.rd (a + 1)) = true) → Traps i s 0x13 0)) ∧
  ∀ (s u : State) (a : Word) (n : Nat) (m : Nat → Byte × Bool) (rel : Option (BitVec 2)), s.me.dual.isSome = true → 0 < n → n ≤ 64 →
    let l := (List.range n).map (fun i => (i, m i))
    (∀ o, a.toNat = 0xFFFFFFF000000000 + o → o < 2 ^ 20 → s.matrixOut s.cur = 0 → s.me.super = false →
      s.storing a l rel = .error (.trap s 0x13 0)) ∧
    (a.toNat + n ≤ 2 ^ 56 → ∀ x, s.xlatMine .write ((List.range n).map (fun i => a.toNat + i)) = (u, .ok x) →
      u.me.dual.isSome = true → u.me.super = false → u.me.irrev = false → woRefused u u.me.rid 0 ((List.range n).map (fun i => a.toNat + i)) = none →
      512 < (heldUnits (mergeUnits (if rel.isSome then u.me.buf.length else u.me.closed)
        (u.storeUnits a l x rel s.me.nextIssued) u.me.buf)).length → s.storing a l rel = .error (.trap u 0x13 0))

/-- The checks of a word, and what stops one that has passed them: a marked register that it consumes (logs 65 and 69), a full counter
(log 5), an irrevocable act in a dual run. -/
def Obligations.Checks : Prop := Says.WordChecks ∧ Says.Consumption ∧ Says.FullCounters ∧ Says.DualRuns

/-! ### Dispatch and the steps of regions -/

/-- 02 R17, R18, 19 R278, R279: the state in which an idle strand, whatever it ran before, starts a task: the record's registers, GLOBALS
and marks, every other register 0 or empty, the start values of STS and of the mode, the strand's own stack base and exception registers
kept; a fault record starts at the region's FHANDLER. -/
def Says.StartStates : Prop :=
  ∀ (t : Strand) (rid : Nat) (r : Region) (k : Task) (dual : Option Nat), k.regs.length = 9 →
    let u := t.idle.start rid r k dual
    u.pc = (if k.kind = 3 then r.fhandler else k.pc) ∧ u.rid = rid ∧ u.dual = dual ∧ u.wait = .no ∧ u.buf = [] ∧ u.joins = [] ∧ u.cycles = 0 ∧
    u.spadOut = [] ∧ u.closed = 0 ∧ u.ahead = [] ∧ u.seen = [] ∧ u.inCheck = false ∧ u.smiss = 0 ∧ u.epc = t.epc ∧ u.ecause = t.ecause ∧ u.edetail = t.edetail ∧ u.ests = t.ests ∧ u.kscratch = t.kscratch ∧
    u.regstat = t.regstat ∧ (∀ i, u.markV i = 0) ∧ (∀ i, u.markP i = false) ∧ u.aMark = Vector.replicate 4 0 ∧ u.aErr = Vector.replicate 4 0 ∧ (∀ i, u.markK i = false) ∧ u.rd 30 = r.globals ∧ u.rd 1 = 0 ∧ u.rd 2 = 0 ∧ (∀ i : SReg, 12 ≤ i.toNat → i.toNat ≠ 30 → u.rd i = 0) ∧
    (∀ i : Fin 9, some (u.rd (BitVec.ofNat 5 (3 + i))) = k.regs[i.val]?) ∧ u.rdP 0 = BitVec.allOnes 64 ∧
    (∀ p : PReg, p ≠ 0 → u.rdP p = 0) ∧ (∀ i, u.rdV i = 0) ∧ (∀ i, u.rdA i = 0) ∧ (∀ i, u.rdK i = none) ∧ u.pfxr = 0 ∧ u.loads = [] ∧
    u.sts = BitVec.ofNat 64 (k.lane % 16 * 2 ^ 24 + k.kind.toNat * 2 ^ 8 + r.dual.toNat * 4) ∧
    (u.super = true ↔ k.kind = 3) ∧ u.trapped = false ∧ u.markS 0 = false ∧
    (∀ i : SReg, i ≠ 0 → u.markS i = bitOf k.marks i.toNat) ∧
    u.stackbase = t.stackbase ∧ u.task = some k

/-- 19 R286, 22 R328: the dispenser's choice is ready work of a region that serves the tile, and on a withheld tile a fault record; no
ready work has a higher level than it. At level 7 it is the oldest of the work that has aged to it, if there is any; else the choice
within its region among the region's work at that level. That only work at the chosen level takes part, whatever its kind, is read
from item 4 beside 02 R25, R28, R34 and 11 R222 (log 38). Something is chosen wherever something is ready. -/
def Says.DispatchChoice : Prop :=
  ∀ (s : State) (sid : Nat), (s.regions.map Prod.fst).Pairwise (· < ·) →
    let tl := tileOf sid
    let held := (s.tile tl).hot || (s.tile tl).overi
    let ready := fun (y : Cand) => ∃ x ∈ s.regions, x.2.serves tl = true ∧ y ∈ candidates s sid x.1 x.2 ∧ (held = true → y.src.rank = 0)
    ((∃ u, chooseWork s sid = (u, none)) ↔ ∀ y, ¬ ready y) ∧
    ∀ u c, chooseWork s sid = (u, some c) → { s with dies := u.dies } = u ∧ ready c ∧ (∀ y, ready y → y.level ≤ c.level) ∧
      let aged := fun (y : Cand) => ready y ∧ y.level = 7 ∧ y.w.level < 7
      ((∃ y, aged y) → aged c ∧ ∀ y, aged y → c.w.t0 ≤ y.w.t0) ∧
      ((∀ y, ¬ aged y) → ∃ r, s.region c.rid = some r ∧ choiceIn r ((candidates s sid c.rid r).filter (fun y =>
        (!held || y.src.rank == 0) && y.level == c.level)) = some c)

/-- 19 R286 items 2 and 4, 02 R25: the choice among a region's work at a level: of the first kind that is ready the one that has waited
in front, in the order fault records, requeued records (with them the further runs of dual pairs), continuations, messages, relay
tasks, lane records; of the lanes with records at the level the one of the highest effective priority, then of the greatest fill
fraction, then the first, and its oldest record. Of aged work the oldest. -/
def Says.KindOrder : Prop :=
  (∀ (r : Region) (l : List Cand), (choiceIn r l = none ↔ l = []) ∧ ∀ c, choiceIn r l = some c →
    c ∈ l ∧ (∀ y ∈ l, c.src.rank ≤ y.src.rank) ∧
    (c.src.rank ≠ 5 → l.find? (fun y => y.src.rank == c.src.rank) = some c) ∧ (c.src.rank = 5 → drainRule r l = some c)) ∧
  (∀ (aged : List Cand) (c : Cand), agedChoice aged = some c → c ∈ aged ∧ ∀ y ∈ aged, c.w.t0 ≤ y.w.t0) ∧
  (∀ (r : Region) (l : List Cand) (c : Cand), drainRule r l = some c → ∃ a b, l = a ++ c :: b ∧
    ∀ y i m j n x z, c.src = .lane i m → y.src = .lane j n → r.lanes[i]? = some x → r.lanes[j]? = some z →
      let p := min 7 (r.prio + x.o)
      let q := min 7 (r.prio + z.o)
      (y ∈ b → q < p ∨ (q = p ∧ z.queue.length * 2 ^ x.c ≤ x.queue.length * 2 ^ z.c)) ∧
      (y ∈ a → i ≠ j ∧ (q < p ∨ (q = p ∧ z.queue.length * 2 ^ x.c < x.queue.length * 2 ^ z.c)))) ∧
  ∀ i j : Nat, (Src.fault i).rank = 0 ∧ (Src.requeue i).rank = 1 ∧ (Src.dual i).rank = 1 ∧ (Src.chain i j).rank = 2 ∧
    (Src.mail i).rank = 3 ∧ (Src.relay i).rank = 4 ∧ (Src.lane i j).rank = 5

/-- 19 R286: the level of work that has waited. -/
def Says.AgingLevels : Prop :=
  ∀ (w : Ready) (agek now : Nat), w.t0 ≤ now → w.level ≤ 7 →
    w.level ≤ w.levelAt agek now ∧ w.levelAt agek now ≤ 7 ∧ w.levelAt agek now ≤ w.levelAt agek (now + 1) ∧
    (w.t0 + 7 * 2 ^ agek ≤ now → w.levelAt agek now = 7) ∧ (now < w.t0 + 2 ^ agek → w.levelAt agek now = w.level)

/-- 19 R286 item 3: credit: the region chosen has the most, and of equals the lower block address; the dispatch costs one. When none
of the regions has credit left, each of them gets its number of tiles on the die, and the choice is then made. -/
def Says.Credits : Prop :=
  ∀ (s u : State) (d level i : Nat) (rids : List Nat), chooseRegion s d level rids = (u, some i) →
    let tilesOn := fun j => ((s.region j).map (fun r => r.tiles.countP (fun t => dieOfTile t == d))).getD 0
    let block := fun j => ((s.region j).map (fun r => r.block.toNat)).getD 0
    let had := fun j => if ∀ k ∈ rids, s.credit d k level = 0 then tilesOn j else s.credit d j level
    i ∈ rids ∧ (∀ j k, k ≠ level → u.credit d j k = s.credit d j k) ∧ (∀ j, j ∉ rids → u.credit d j level = s.credit d j level) ∧
    (level < 8 → (∀ j, (lookupKey (s.die d).credits j).all (fun l => l.length == 8) = true) →
      (∀ j ∈ rids, had j < had i ∨ (had j = had i ∧ block i ≤ block j)) ∧ u.credit d i level = had i - 1 ∧
      ∀ j ∈ rids, j ≠ i → u.credit d j level = had j)

/-- 19 R284, R286, 03 R55, R57: DISPATCH: an idle strand of an enabled, awake tile takes a saved strand of its tile first, else what the
dispenser chooses; a task whose start is ordered after other tasks' work finds no line in its core's L1 (that it is emptied whole is log 6's
choice). -/
def Says.Dispatching : Prop :=
  ∀ (s : State) (sid : Nat),
    let tl := tileOf sid
    let idle := (s.strand sid).task = none ∧ s.enabledTile tl = true ∧ (s.tile tl).idle = 0
    (¬ idle → exec (.dispatch sid) s = .next s) ∧
    (∀ rid slot x, idle → s.savedFor tl = some (rid, slot, x) → exec (.dispatch sid) s = .next (s.restoreStrand sid rid slot x)) ∧
    (∀ u, idle → s.savedFor tl = none → chooseWork s sid = (u, none) → exec (.dispatch sid) s = .next s) ∧
    (∀ u c r, idle → s.savedFor tl = none → chooseWork s sid = (u, some c) → u.region c.rid = some r →
      exec (.dispatch sid) s = .next (u.startWork sid c) ∧
      (c.w.task.kind ≠ 1 ∨ r.ordered = true → c.w.task.kind ≠ 3 ∨ r.fhandler ≠ 0 → ((u.startWork sid c).core (coreOf sid)).l1 = []) ∧
      (r.dual = false → (∀ lab, c.src ≠ .dual lab) → c.w.task.kind ≠ 3 ∨ r.fhandler ≠ 0 → (u.startWork sid c).strand sid =
        (u.strand sid).start c.rid r
          (if c.w.task.firstPins then { c.w.task with pin := some tl, islocal := true, firstPins := false } else c.w.task) none))

/-- 01 R15, 19 R286, R290, 02 R40, 22 R331: the end of a pause, the run watchdog, the quota window, a lease that has run out, and a task
that moves to the die of most of its accesses. That no task is moved from under its handler is log 72's choice. A pause ends in its last 64
cycles, counted by log 8's choice; that the block's LEASE word in memory follows the expiry in the same step is log 12's. -/
def Says.TimedSteps : Prop :=
  ∀ (s : State) (sid rid : Nat),
    let t := s.strand sid
    (∀ n, t.wait = .paused n → n ≤ 64 → exec (.pauseEnd sid) s = .next (s.onStrand sid (fun t => { t with wait := .no }))) ∧
    (∀ n, t.wait = .paused n → 64 < n → exec (.pauseEnd sid) s = .next s) ∧
    ((∀ n, t.wait ≠ .paused n) → exec (.pauseEnd sid) s = .next s) ∧
    (∀ r, s.region t.rid = some r →
      let due := t.task.isSome = true ∧ t.super = false ∧ (t.wait = .no ∨ t.wait = .stalled) ∧ 2 ^ r.runlim < t.cycles
      (due → exec (.runWatchdog sid) s = .next (s.takeTrap sid 0x17 (sat64 t.cycles))) ∧
      (¬ due → exec (.runWatchdog sid) s = .next s) ∧
      (∀ k, t.task = some k →
        let moves := t.super = false ∧ t.restartable = true ∧ k.kind = 0 ∧ k.islocal = false ∧ k.nomig = false ∧ r.rhome ≠ 255 ∧
          16 * r.rhome < t.counts.sum
        (¬ moves → exec (.remoteHomeMigration sid) s = .next s) ∧
        (∀ d n, moves → t.counts[d]? = some n → (∀ e m, t.counts[e]? = some m → m < n ∨ (m = n ∧ d ≤ e)) →
          exec (.remoteHomeMigration sid) s = .next (if ∃ x ∈ r.tiles, dieOfTile x = d then (s.count t.rid 3).abort sid (some d) false
            else s.onStrand sid (fun t => { t with counts := [] }))))) ∧
    (s.meshTime < s.quotaEnd → exec .quotaWindow s = .next s) ∧
    (s.quotaEnd ≤ s.meshTime → ∃ (u : State), exec .quotaWindow s = .next u ∧ u.meshTime < u.quotaEnd ∧ u.quotaEnd ≤ u.meshTime + 2 ^ 20 ∧
      2 ^ 20 ∣ u.quotaEnd ∧ (∀ i, (u.region i).map (·.dispatched) = (s.region i).map (fun _ => 0)) ∧ u.mem = s.mem ∧
      u.strands = s.strands) ∧
    (∀ r, s.region rid = some r →
      (r.leaseActive = true → r.leaseLeft = 0 → exec (.leaseExpiry rid) s = .next ((s.dropLease rid).mirror rid)) ∧
      (r.leaseActive = false ∨ r.leaseLeft ≠ 0 → exec (.leaseExpiry rid) s = .next s))

/-- 02 R32, 19 R284, R285, R287, 08 R155, R171: tiles for a new and for a resumed region; the two ways a pre-emption is done, copies that wait
for a page aside; when a region is quiescent, and its end. That a default block is never quiescent is log 26's reading. That TILES_PLACED names the tiles and the model checks them is log 44's choice, where the
parts of a save lie and that it is one step log 25's. -/
def Says.RegionSteps : Prop :=
  ∀ (s : State) (rid : Nat) (r : Region) (tiles : List Nat), s.region rid = some r →
    (r.state = .placing → exec (.tilesPlaced rid tiles) s = .next (s.placed rid tiles) ∧
      (s.placement rid r tiles = none → s.placed rid tiles = s) ∧
      (∀ l, s.placement rid r tiles = some l →
        ((s.placed rid tiles).region rid).map (fun x => (x.state, x.tiles, x.posns)) = some (.running, tiles, l))) ∧
    (∀ l, r.state = .preempted → r.resuming = true → r.saveParked = false → tiles.length = r.tiles.length →
      s.placement rid r tiles = some l → s.relaysFree r tiles = true →
      exec (.tilesPlaced rid tiles) s = .next (s.restoreRegion rid tiles l)) ∧
    (r.state = .running ∨ (r.state = .preempted ∧ r.resuming = false) → exec (.tilesPlaced rid tiles) s = .next s) ∧
    (let drained := r.state = .preempting ∧ r.saveParked = false ∧ ∀ x ∈ s.strands, x.2.task.isSome = true → x.2.rid ≠ rid
     (drained → exec (.preemptDrained rid) s = .next (s.saveRegion rid)) ∧
     (¬ drained → exec (.preemptDrained rid) s = .next s)) ∧
    (let late := r.state = .preempting ∧ r.saveParked = false ∧ r.preemptAt + 2 ^ r.drainlim ≤ s.meshTime ∧
       ∀ x ∈ s.strands, x.2.task.isSome = true → x.2.rid = rid →
         s.loadsOut x.1 + s.storesOut x.1 + s.copiesRun x.1 + s.matrixOut x.1 = 0
     (late → exec (.drainLimit rid) s = .next (s.saveRegion rid)) ∧
     (¬ late → exec (.drainLimit rid) s = .next s)) ∧
    (quiescent s rid r = true ↔ r.state = .running ∧ r.parent.isSome = true ∧
      (∀ x ∈ s.strands, x.2.task.isSome = true → x.2.rid ≠ rid) ∧ r.strandsSaved = [] ∧
      r.faults = [] ∧ r.requeue = [] ∧ r.first = none ∧ (∀ l ∈ r.lanes, l.queue = [] ∧ l.chain = []) ∧ (∀ d ∈ s.duals, d.2.rid ≠ rid) ∧
      (∀ x ∈ s.tiles, ∀ y ∈ x.2.relay.queue, y.1 ≠ rid) ∧
      r.mail = [] ∧ (∀ m ∈ s.msgs, m.rid ≠ rid) ∧
      (∀ x ∈ s.travs, x.2.rid ≠ rid) ∧ (∀ c ∈ s.launches, c.rid ≠ rid) ∧
      (∀ x ∈ s.tiles, (∀ c ∈ x.2.copies, c.rid ≠ rid) ∧ ∀ c ∈ x.2.relay.cmds, c.rid ≠ rid) ∧
      (∀ x ∈ s.dies, (∀ c ∈ x.2.builds, c.rid ≠ rid) ∧ ∀ c ∈ x.2.encCmds, c.rid ≠ rid) ∧
      ∀ x ∈ s.regions, x.1 ≠ rid → s.descends x.1 rid = true → x.2.live = false) ∧
    (quiescent s rid r = false → exec (.regionEnd rid) s = .next s) ∧
    (quiescent s rid r = true → ∃ (u : State), exec (.regionEnd rid) s = .next u ∧ (u.region rid).map (·.state) = some .ended ∧
      (∀ i, ∀ e ∈ (u.tile i).deque, e.rid ≠ rid) ∧ (∀ d, ∀ p ∈ (u.die d).pins, p.rid ≠ rid) ∧
      (∀ d, ∀ x ∈ (u.die d).streams, x.2 ≠ rid) ∧
      (∀ par p, r.parent = some par → par ≠ rid → s.region par = some p → ∃ q, u.region par = some q ∧
        q.qused = p.qused - r.charged.1 ∧ q.bused = p.bused - r.charged.2.1 ∧ q.pused = p.pused - r.charged.2.2))

/-- Every step of the dispenser and of a region completes, in every state. -/
def Says.SchedulerCompletes : Prop :=
  ∀ (s : State) (n : Nat) (l : List Nat), (∃ t, exec (.dispatch n) s = .next t) ∧ (∃ t, exec (.pauseEnd n) s = .next t) ∧
    (∃ t, exec (.runWatchdog n) s = .next t) ∧ (∃ t, exec (.remoteHomeMigration n) s = .next t) ∧ (∃ t, exec .quotaWindow s = .next t) ∧
    (∃ t, exec (.leaseExpiry n) s = .next t) ∧ (∃ t, exec (.tilesPlaced n l) s = .next t) ∧ (∃ t, exec (.preemptDrained n) s = .next t) ∧
    (∃ t, exec (.drainLimit n) s = .next t) ∧ (∃ t, exec (.regionEnd n) s = .next t)

/-- The model's own (logs 1 and 8): the other inputs of the agenda, and what a step does with an empty agenda. A pause that time passes
by ends at its last cycle (01 R15). -/
def Says.OtherSteps : Prop :=
  ∀ (s : State) (rest : List Input) (i : Instr) (mesh core line unit page : Nat) (id : LaunchId),
    let s0 : State := { s with agenda := rest }
    (s.agenda = .event i :: rest → isStep i = true → i.wf = true → step s = exec i s0) ∧
    (s.agenda = .event i :: rest → isStep i = false ∨ i.wf = false → step s = .next s0) ∧
    (s.agenda = .evictLine core line :: rest → ∃ t, step s = .next t ∧ { s0 with cores := t.cores } = t) ∧
    (s.agenda = .evictTlb unit page :: rest → ∃ t, step s = .next t ∧ t.mem = s.mem ∧ t.strands = s.strands ∧
      ∀ x ∈ t.tlb (agentOf unit), x.base ≠ page) ∧
    (s.agenda = .fabricKilled id :: rest → step s = .next (s0.killFabric id)) ∧
    (∀ who dies b, s.agenda = .fabricReport id unit who dies b :: rest → step s = .next (s0.fabricReport id unit who dies b)) ∧
    (∀ past, s.agenda = .readAhead unit page past :: rest → step s = .next (s0.readAhead unit page past)) ∧
    (s.agenda = .buildAhead core unit page :: rest → step s = .next (s0.buildAhead core unit page)) ∧
    (s.agenda = .spadStore unit core :: rest → step s = .next (s0.spadStore unit core)) ∧
    (∀ pid pa op, s.agenda = .fabricRequest pid unit pa op :: rest → step s = .next (s0.fabricRequest pid unit pa op)) ∧
    (∀ l, s.agenda = .outsideStore line l :: rest → step s = .next (s0.outsideStore line l)) ∧
    (∀ pid q r, s.agenda = .request pid q r :: rest → step s = .next (s0.request pid q r)) ∧
    (s.agenda = .launchRetry unit :: rest → step s = .next (s0.launchRetry unit)) ∧
    (∀ idx, s.agenda = .engineUnit page idx unit :: rest → step s = .next (s0.engineUnit page idx unit)) ∧
    (s.agenda = .elapse mesh core :: rest → ∃ t, step s = .next t ∧ t.meshTime = s.meshTime + mesh ∧
      (∀ sid n, (s.strand sid).wait = .paused n → (t.strand sid).wait = if n ≤ core then .no else .paused (n - core)) ∧
      (∀ sid, (s.strand sid).task.isSome = true → (s.strand sid).super = false →
        (t.strand sid).cycles = (s.strand sid).cycles + core) ∧
      (∀ sid, (s.strand sid).super = true → (t.strand sid).cycles = (s.strand sid).cycles)) ∧
    (s.agenda = [] → ∀ d l, s.due = d :: l → step s = d.exec s) ∧
    (s.agenda = [] → s.due = [] → step s = s.issue s.curCore)

/-- The start state of a task, what the dispenser chooses (log 38), kinds, aging and credit, the L1 that a start empties (log 6), timed steps
(logs 8, 12, 72), tiles and pre-emption (logs 25, 44), when a region is quiescent and its end (log 26), each step completing, and (the model's own, logs 1 and 8) the inputs of the agenda. -/
def Obligations.SchedulerSteps : Prop :=
  Says.StartStates ∧ Says.DispatchChoice ∧ Says.KindOrder ∧ Says.AgingLevels ∧ Says.Credits ∧ Says.Dispatching ∧ Says.TimedSteps ∧
  Says.RegionSteps ∧ Says.SchedulerCompletes ∧ Says.OtherSteps

/-! ### Host link and fabric -/

/-- The fields of a host request that give status 1 (21 R317). -/
def hostBad (p : Partition) (queue len : Nat) (addr : Word) : Prop :=
  4 * p.dies.length ≤ queue ∨ len < 8 ∨ 4096 < len ∨ len % 8 ≠ 0 ∨ addr.toNat % 8 ≠ 0 ∨ 2 ^ 56 < addr.toNat + len

/-- 21 R317, R318, R319, 22 R336: MRD, MWR and FENCE: fields out of range and a range that leaves its page are status 1, a failed translation
2, a poisoned unit 3; with the link down nothing arrives; going down ends every request that has not been answered, a NOTIFY whose launch is
under way among them, without a completion, while that launch goes on; the link comes up only after the boot. A request of a queue whose NOTIFY is still to
be performed waits (that a launch is performed when its status is written is log 30's reading). -/
def Says.HostRequests : Prop :=
  ∀ (s : State) (pid queue len : Nat) (tag : BitVec 32) (addr : Word) (data : List Byte),
    let answer : State → Nat → List Byte → List Nat → Host.Outcome State Fault Refusal := fun u st bs bad =>
      .next (u.send (.completion tag st bs bad))
    let waits : HostReq → Host.Outcome State Fault Refusal := fun r => .next { s with waiting := s.waiting ++ [(pid, queue, r)] }
    (s.queueBusy pid queue = true ↔ (∃ x ∈ s.regions, ∃ t st v, x.2.origin = .host pid (some (queue, t)) st v) ∨
      ∃ f ∈ s.fabrics, f.pid = pid ∧ ∃ t, f.notify = some (queue, t)) ∧
    (s.linkUp = true → (s.partition pid).isSome = true → s.queueBusy pid queue = true →
      exec (.mrd pid queue len tag addr) s = waits (.mrd len tag addr) ∧ exec (.mwr pid queue tag addr data) s = waits (.mwr tag addr data) ∧
      exec (.fence pid queue tag) s = waits (.fence tag) ∧ exec (.notifyLaunch pid queue tag data) s = waits (.launch tag data) ∧
      exec (.notifyFabricLaunch pid queue tag data) s = waits (.fabricLaunch tag data)) ∧
    exec .linkDown s = .next { s with linkUp := false, waiting := [], regions := s.regions.map (fun x => (x.1, x.2.unasked))
                                      fabrics := s.fabrics.map (fun f => { f with notify := none }) } ∧
    (∀ r : Region, (∀ p n st v, r.origin = .host p n st v → r.unasked = { r with origin := .host p none st v }) ∧
      ((∀ p n st v, r.origin ≠ .host p n st v) → r.unasked = r)) ∧
    (6 ≤ s.bootStage → s.recovery = false → exec .linkTrained s = .next { s with linkUp := true }) ∧
    (s.bootStage < 6 ∨ s.recovery = true → exec .linkTrained s = .next s) ∧
    (s.linkUp = false ∨ s.partition pid = none → exec (.mrd pid queue len tag addr) s = .next s ∧
      exec (.mwr pid queue tag addr data) s = .next s ∧ exec (.fence pid queue tag) s = .next s ∧
      exec (.notifyLaunch pid queue tag data) s = .next s ∧ exec (.notifyFabricLaunch pid queue tag data) s = .next s) ∧
    (∀ p, s.linkUp = true → s.partition pid = some p → s.queueBusy pid queue = false →
      exec (.fence pid queue tag) s = answer s (if queue < 4 * p.dies.length then 0 else 1) [] [] ∧
      (hostBad p queue len addr → exec (.mrd pid queue len tag addr) s = answer s 1 [] []) ∧
      (hostBad p queue data.length addr → exec (.mwr pid queue tag addr data) s = answer s 1 [] []) ∧
      (¬ hostBad p queue len addr →
        (∀ u e, s.xlat .hw pid none true .read addr.toNat = (u, .error e) →
          exec (.mrd pid queue len tag addr) s = answer u 2 [] []) ∧
        (∀ u x, s.xlat .hw pid none true .read addr.toNat = (u, .ok x) →
          let bs := (List.range len).map (fun i => u.readOut x.host x.slot (x.key + i))
          let bad := (List.range (len / 8)).filter (fun n => ((bs[8 * n]?).map Prod.snd).getD false)
          exec (.mrd pid queue len tag addr) s =
            if addr.toNat / 2 ^ x.size = (addr.toNat + len - 1) / 2 ^ x.size then
              answer u (if bad = [] then 0 else 3) (bs.map Prod.fst) bad else answer u 1 [] [])) ∧
      (¬ hostBad p queue data.length addr →
        (∀ u e, s.xlat .hw pid none true .write addr.toNat = (u, .error e) →
          exec (.mwr pid queue tag addr data) s = answer u 2 [] []) ∧
        (∀ u x, s.xlat .hw pid none true .write addr.toNat = (u, .ok x) →
          exec (.mwr pid queue tag addr data) s =
            if addr.toNat / 2 ^ x.size = (addr.toNat + data.length - 1) / 2 ^ x.size then
              answer ((intoUnits ((numberedFrom x.key data).map (fun y => (y.1, y.2, false)))).foldl
                (fun v y => v.writeOut x.host x.slot y.1 y.2.1 y.2.2.1 y.2.2.2) u) 0 [] []
            else answer u 1 [] [])))

/-- 21 R317, R319, R324: a header with a reserved TYPE, or a FENCE or NOTIFY with a LENGTH or ADDRESS, is answered with status 1 and performs
nothing; what the host and other packages store to their own memory does not touch this package's. -/
def Says.HostHeaders : Prop :=
  ∀ (s : State) (pid type queue len key : Nat) (tag : BitVec 32) (addr : Word) (data : List Byte),
    let r : HostReq := .header type len tag addr
    (s.linkUp = false ∨ s.partition pid = none → s.request pid queue r = s) ∧
    (s.linkUp = true → (s.partition pid).isSome = true →
      (s.queueBusy pid queue = true → s.request pid queue r = { s with waiting := s.waiting ++ [(pid, queue, r)] }) ∧
      (s.queueBusy pid queue = false →
        (3 < type ∨ (1 < type ∧ (len ≠ 0 ∨ addr ≠ 0)) → s.request pid queue r = s.complete tag 1) ∧
        (type ≤ 1 ∨ (type ≤ 3 ∧ len = 0 ∧ addr = 0) → s.request pid queue r = s))) ∧
    (key < 2 ^ 46 → s.outsideStore key data = s) ∧
    (2 ^ 46 ≤ key → s.outsideStore key data = (intoUnits ((numberedFrom key data).map (fun y => (y.1, y.2, false)))).foldl
      (fun v y => v.writeUnit none y.1 y.2.1 y.2.2.1 y.2.2.2) s ∧
      ∀ pa, pa < 2 ^ 46 → Memory.wf s.mem = true → Memory.get (s.outsideStore key data).mem pa = Memory.get s.mem pa)

/-- 21 R318, R320, 08 R159: a launch that the host asks for: one that is refused is answered at once, one that is admitted when it ends with
a status, which the status word takes (alone, where the link has gone down since); then what waits for it in its queue is handled, in order, before anything else (log 30). -/
def Says.HostLaunches : Prop :=
  ∀ (s : State) (pid queue : Nat) (tag : BitVec 32) (payload : List Byte) (p : Partition),
    s.linkUp = true → s.partition pid = some p → s.queueBusy pid queue = false →
    let st := BitVec.ofNat 64 (fieldAt payload 16 8)
    let v := fieldAt payload 24 4
    let go := exec (.notifyLaunch pid queue tag payload) s
    (∀ code, let u := s.writeStatus pid st (BitVec.ofNat 64 code) v
      s.endLaunch (.host pid (some (queue, tag)) st v) code = u.notified pid queue tag ∧ s.endLaunch (.host pid none st v) code = u) ∧
    (let u := s.notified pid queue tag
     u.hostOut = s.hostOut ++ [.completion tag 0 [] []] ∧ (∀ x, x ∈ u.waiting ↔ x ∈ s.waiting ∧ ¬ (x.1 = pid ∧ x.2.1 = queue)) ∧
     ∃ l, u.agenda = l ++ s.agenda ∧ l.length = s.waiting.countP (fun x => x.1 == pid && x.2.1 == queue) ∧
       ∀ r, (pid, queue, r) ∈ s.waiting → .request pid queue r ∈ l) ∧
    (4 * p.dies.length ≤ queue ∨ notifyOk 0 payload = false → go = .next (s.complete tag 1)) ∧
    (queue < 4 * p.dies.length → notifyOk 0 payload = true →
      (∀ u c, s.hostPacket pid p.root payload = (u, .error c) → go = .next (u.complete tag c)) ∧
      (∀ u, s.hostPacket pid p.root payload = (u, .ok none) → go = .next ((u.writeStatus pid st 3 v).complete tag 0)) ∧
      (∀ u pk w, s.hostPacket pid p.root payload = (u, .ok (some pk)) →
        (∀ c, u.launchRegion .hw true p.root pk (.host pid (some (queue, tag)) st v) none = (w, .refused c) →
          go = .next ((w.writeStatus pid st (BitVec.ofNat 64 c) v).complete tag 0)) ∧
        (∀ rid, u.launchRegion .hw true p.root pk (.host pid (some (queue, tag)) st v) none = (w, .placing rid) → go = .next w) ∧
        (∀ e, u.launchRegion .hw true p.root pk (.host pid (some (queue, tag)) st v) none = (w, .fault e) → go = .next (w.complete tag 2))))

/-- 21 R321, R322, 22 R338: a fabric launch at its origin: its fields, its own count as the generation, the packet and the attestation sent
to the other packages over the ports of its partition, its own region placed; without a port no other package can be reached. Its NOTIFY is
performed, and completes, when the status is written. A list that runs past the window is answered with status 1. That, the layout of what is
sent, and a package list of 64-bit words, are log 30's choices. -/
def Says.FabricOrigin : Prop :=
  ∀ (s : State) (pid queue : Nat) (tag : BitVec 32) (payload : List Byte) (p : Partition), s.partition pid = some p → s.linkUp = true →
    s.queueBusy pid queue = false →
    let list := fieldAt payload 32 8
    let go := exec (.notifyFabricLaunch pid queue tag payload) s
    (∀ (q : State) id code place f st, q.fabric id = some f → f.status = some st → f.notify = some (queue, tag) →
      ∃ (v : State), q.endFabric id code place = v.notified f.pid queue tag ∧
        ∀ g ∈ v.fabrics, g.id = id → g.notify = none ∧ (code ≠ 0 → g.status = none)) ∧
    (4 * p.dies.length ≤ queue ∨ notifyOk 1 payload = false ∨ list % 64 ≠ 0 ∨ 2 ^ 56 ≤ list → go = .next (s.complete tag 1)) ∧
    (queue < 4 * p.dies.length → notifyOk 1 payload = true → list % 64 = 0 → list < 2 ^ 56 →
      (∀ u c, s.hostPacket pid p.root payload = (u, .error c) → go = .next (u.complete tag c)) ∧
      (∀ u opk v e, s.hostPacket pid p.root payload = (u, .ok opk) → u.readVirt .hw pid none true list 8 = (v, .error e) →
        go = .next (v.complete tag 2)) ∧
      (∀ u opk v n8, s.hostPacket pid p.root payload = (u, .ok opk) → u.readVirt .hw pid none true list 8 = (v, .ok n8) →
        2 ^ 56 < list + (8 + 8 * min 64 (fieldAt (n8.map Prod.fst) 0 8)) → go = .next (v.complete tag 1)) ∧
      (∀ u opk v n8 w e, s.hostPacket pid p.root payload = (u, .ok opk) → u.readVirt .hw pid none true list 8 = (v, .ok n8) →
        list + (8 + 8 * min 64 (fieldAt (n8.map Prod.fst) 0 8)) ≤ 2 ^ 56 →
        v.readVirt .hw pid none true list (8 + 8 * min 64 (fieldAt (n8.map Prod.fst) 0 8)) = (w, .error e) →
        go = .next (w.complete tag 2)) ∧
      (∀ u opk v n8 w l, s.hostPacket pid p.root payload = (u, .ok opk) → u.readVirt .hw pid none true list 8 = (v, .ok n8) →
        list + (8 + 8 * min 64 (fieldAt (n8.map Prod.fst) 0 8)) ≤ 2 ^ 56 →
        v.readVirt .hw pid none true list (8 + 8 * min 64 (fieldAt (n8.map Prod.fst) 0 8)) = (w, .ok l) →
        let gen := if (w.fabricCount + 1) % 2 ^ 32 = 0 then 1 else (w.fabricCount + 1) % 2 ^ 32
        let id : LaunchId := { origin := none, gen := gen }
        let pkgs := (packageList (l.map Prod.fst) pid).getD []
        let x : State := ({ w with fabricCount := gen } : State).addFabric
          { id := id, pid := pid, rid := none, place := 0, packages := pkgs, dies := [(0, p.dies)], key := 0, started := false
            status := some (BitVec.ofNat 64 (fieldAt payload 16 8)), vector := fieldAt payload 24 4, notify := some (queue, tag) }
        (opk = none → go = .next (x.endFabric id 3 0)) ∧
        (∀ pk, opk = some pk →
          (pkgs = [] → go = .next (x.endFabric id 1 0)) ∧
          (1 < pkgs.length → p.ports = 0 → go = .next (x.endFabric id 4 1)) ∧
          (pkgs ≠ [] → pkgs.length = 1 ∨ p.ports ≠ 0 →
            let r := x.report pid (List.replicate 32 0)
            let y : State := { r.1 with hostOut := r.1.hostOut ++ (pkgs.drop 1).map (fun e => .fabricPacket gen e.1 e.2 p.ports r.2 pk) }
            ∀ z res, y.launchRegion .hw true p.root (ownPacket pk 0 pkgs.length gen) (.fabric id) (some id) = (z, res) →
              (∀ rid, res = .placing rid → go = .next (z.onFabric id (fun f => { f with rid := some rid }))) ∧
              ((∀ rid, res ≠ .placing rid) → go = .next ((z.endFabric id 4 0).send (.fabricKill id)))))))

/-- 21 R321, R322, 22 R336, R338: a fabric launch at a listed package: on a port that is none of its partition's it is dropped and counted;
it is refused where the attestation does not verify or the boot has not completed; else its region is placed, or refused. Reports come from
outside (log 30). -/
def Says.FabricArrivals : Prop :=
  ∀ (s : State) (pid port place count : Nat) (id : LaunchId) (verified : Bool) (packet : List Byte),
    let got := exec (.fabricLaunchPacket pid port id place count ⟨verified, packet⟩) s
    let refused := fun (u : State) => u.send (.fabricRefused id place)
    (s.partition pid = none → got = .next { s with portDropped := s.portDropped + 1 }) ∧
    (∀ p, s.partition pid = some p →
      (p.ports.getLsbD port = false → got = .next { s with portDropped := s.portDropped + 1 }) ∧
      (p.ports.getLsbD port = true → s.bootStage < 6 ∨ s.recovery = true ∨ verified = false → got = .next (refused s)) ∧
      (p.ports.getLsbD port = true → 6 ≤ s.bootStage → s.recovery = false → verified = true → ∀ u res,
        s.launchRegion .hw true p.root (ownPacket packet place count id.gen) (.fabric id) (some id) = (u, res) →
        ((∀ rid, res ≠ .placing rid) → got = .next (refused u)) ∧
        (∀ rid, res = .placing rid → got = .next (u.addFabric
          { id := id, pid := pid, rid := some rid, place := place, dies := [(place, p.dies)]
            packages := setAt (List.replicate count (0, 0)) place (Config.fabricId % 2 ^ 16, pid)
            key := 0, started := false, status := none, vector := 0, notify := none })))) ∧
    (∀ f : Fabric, (s.addFabric f).fabric f.id = some { f with key := s.nextId } ∧ (s.addFabric f).nextId = s.nextId + 1 ∧
      ∀ i, i ≠ f.id → (s.addFabric f).fabric i = s.fabric i) ∧
    (∀ pk n gen, pk.length = 128 → n < 256 → place < 256 → gen < 2 ^ 32 →
      fieldAt (ownPacket pk place n gen) 24 8 = place + 2 ^ 8 * n + 2 ^ 32 * gen ∧
      ∀ i, i < 24 ∨ 32 ≤ i → (ownPacket pk place n gen)[i]? = pk[i]?)

/-- 21 R321, R324: another package's access to memory homed here, by the port it arrives on: reads, writes and home operations under the
partition's default key; an access with a place the partition does not reach, the second slot of an `xmerge` among them, is lost and counted (R312).
That each is performed in one step and answered is log 24's choice. -/
def Says.FabricRequests : Prop :=
  ∀ (s : State) (pid port pa n : Nat) (data : List Byte) (kind : HomeKind) (w : Word) (m : Bool),
    let dropped : State := { s with portDropped := s.portDropped + 1 }
    (∀ op, s.partition pid = none → s.fabricRequest pid port pa op = dropped) ∧
    (∀ p, s.partition pid = some p →
      (∀ op, p.ports.getLsbD port = false → s.fabricRequest pid port pa op = dropped) ∧
      (∀ op, p.ports.getLsbD port = true → p.reaches pa = false → s.fabricRequest pid port pa op = s.lost pa) ∧
      (∀ op, p.ports.getLsbD port = true → p.reaches pa = true → p.reaches (op.last pa) = false →
        s.fabricRequest pid port pa op = s.lost (op.last pa)) ∧
      (p.ports.getLsbD port = true → p.reaches pa = true →
        (p.reaches (pa + (n - 1)) = true → let bs := (List.range n).map (fun i => s.readOut false (some p.kbase) (pa + i))
         s.fabricRequest pid port pa (.read n) = s.send (.fabricReply (bs.map Prod.fst)
           ((List.range n).filter (fun i => ((bs[i]?).map Prod.snd).getD false)))) ∧
        (p.reaches (pa + (data.length - 1)) = true → s.fabricRequest pid port pa (.write data) = ((intoUnits ((numberedFrom pa data).map (fun y => (y.1, y.2, false)))).foldl
          (fun v y => v.writeUnit (some p.kbase) y.1 y.2.1 y.2.2.1 y.2.2.2) s).send (.fabricReply [] [])) ∧
        (∀ u l,
          let h : HomeOp :=
            { kind := (match kind with
                | .xmerge y _ => .xmerge y (some p.kbase)
                | x => x)
              sid := 0, taskNo := 0, key := pa, slot := some p.kbase, pid := pid, va := 0, size := 16, also := none, x := w, xMark := m
              d := 1, e := 2, acq := 0, rel := none }
          s.performHome h = (u, l) → (∀ y z, kind = .xmerge y z → p.reaches y = true) →
          s.fabricRequest pid port pa (.home kind w m) = u.send (.fabricReply (l.flatMap (fun y => y.answer.1))
            ((numbered l).filterMap (fun y => if y.2.answer.2 then some y.1 else none))))))

/-- 21 R324: fabric memory: a leaf names it only for a region of a fabric launch, with an index below the number of its packages and a die of
that package's partition; a place of a listed package is one place whichever launch or index names it, and memory of this package is its own,
under the listed partition's default key. That the dies of that partition are known only from its report is log 24's choice, that the places of other packages lie apart in the model's memory by their fabric ids is log 30's. -/
def Says.FabricMemory : Prop :=
  ∀ (s : State) (rid size va : Nat) (p : Partition) (e : BitVec 64), bitOf e 7 = false →
    let pa := fld e 16 32 * 2 ^ 16 + va % 2 ^ size
    let place := pa / 2 ^ 40 % 64
    isFabric pa = true →
    (s.fabricOf (some rid) = none → leafTarget s p (some rid) e size va = .error (.cls 1)) ∧
    (∀ f, s.fabricOf (some rid) = some f →
      let named := place < f.packages.length ∧ ∃ dies, lookupKey f.dies place = some dies ∧ homeDie pa ∈ dies
      let got := leafTarget s p (some rid) e size va
      (¬ named → got = .error (.cls 1)) ∧
      (named → fld e 48 9 ≠ 0 → p.hasKey (fld e 48 9) = false → got = .error (.cls 3)) ∧
      (named → fld e 48 9 = 0 ∨ p.hasKey (fld e 48 9) = true → ∀ who, f.packages[place]? = some who →
        ((f.packages[f.place]?).map Prod.fst = some who.1 →
          got = .ok { key := pa % 2 ^ 40, slot := s.defaultSlot who.2, host := false, size := size, fab := true }) ∧
        ((f.packages[f.place]?).map Prod.fst ≠ some who.1 →
          got = .ok { key := fabricKey who.1 (pa % 2 ^ 40), slot := none, host := false, size := size, fab := true }))) ∧
    ∀ a b x y, x < 2 ^ 40 → y < 2 ^ 40 → (fabricKey a x = fabricKey b y ↔ a % 2 ^ 16 = b % 2 ^ 16 ∧ x = y) ∧ 2 ^ 50 ≤ fabricKey a x

/-- 21 R322, R323, R324, 22 R338: the start barrier releases the first record once, when every package has reported placed, each with its
dies and, where this package holds no list, who it is; a report with a place that the launch does not have counts for nothing. A package that
is out of reach ends the launch, code 5 once it runs and 4 before; one that refuses, or whose report does not verify, ends it before the
start; killing one region of it kills all of it. -/
def Says.FabricEnds : Prop :=
  ∀ (s : State) (id : LaunchId) (place : Nat) (who : Nat × Nat) (dies : List Nat),
    (s.fabric id = none → exec (.startBarrier id) s = .next s ∧ exec (.packageUnreachable id place) s = .next s ∧
      exec (.packageRefused id place) s = .next s ∧ s.killFabric id = s) ∧
    (∀ f, s.fabric id = some f →
      let refuses := if f.started = true ∨ f.place ≠ 0 then s else (s.endFabric id 4 place).killFabric id
      exec (.packageUnreachable id place) s = .next ((s.endFabric id (if f.started then 5 else 4) place).killFabric id) ∧
      exec (.packageRefused id place) s = .next refuses ∧ s.fabricReport id place who dies false = refuses ∧
      s.fabricReport id place who dies true = s.onFabric id (fun f => f.hears place who dies) ∧
      (f.packages.length ≤ place → f.hears place who dies = f) ∧
      (place < f.packages.length → f.hears place who dies = { f with dies := putKey f.dies place dies, packages :=
        if f.id.origin = none ∨ place = f.place then f.packages else setAt f.packages place who }) ∧
      (f.rid = none → exec (.startBarrier id) s = .next s ∧ s.killFabric id = s) ∧
      (∀ rid r, f.rid = some rid → s.region rid = some r →
        let ready := f.started = false ∧ r.state = .running ∧ ∀ i, i < f.packages.length → (lookupKey f.dies i).isSome = true
        let u := (s.releaseFirst rid).onFabric id (fun f => { f with started := true })
        (¬ ready → exec (.startBarrier id) s = .next s) ∧
        (ready → exec (.startBarrier id) s = .next (if f.place = 0 then (u.endFabric id 0 0).send (.fabricStart id) else u)) ∧
        s.killFabric id = (if r.live = true ∧ r.generation = some id then s.kill rid else s)))

/-- Every step of the host link and the fabric completes, in every state. -/
def Says.HostCompletes : Prop :=
  ∀ (s : State) (pid queue n place : Nat) (tag : BitVec 32) (addr : Word) (data : List Byte) (id : LaunchId) (b : Bool),
    (∃ t, exec (.mrd pid queue n tag addr) s = .next t) ∧ (∃ t, exec (.mwr pid queue tag addr data) s = .next t) ∧
    (∃ t, exec (.fence pid queue tag) s = .next t) ∧ (∃ t, exec (.notifyLaunch pid queue tag data) s = .next t) ∧
    (∃ t, exec (.notifyFabricLaunch pid queue tag data) s = .next t) ∧
    (∃ t, exec (.fabricLaunchPacket pid queue id place n ⟨b, data⟩) s = .next t) ∧ (∃ t, exec (.startBarrier id) s = .next t) ∧
    (∃ t, exec (.packageUnreachable id place) s = .next t) ∧ (∃ t, exec (.packageRefused id place) s = .next t) ∧
    (∃ t, exec .linkDown s = .next t) ∧ ∃ t, exec .linkTrained s = .next t

/-- MRD, MWR, FENCE, NOTIFY launches, fabric launches and their ends, and fabric memory (logs 24 and 30). -/
def Obligations.HostLinkSteps : Prop :=
  Says.HostRequests ∧ Says.HostHeaders ∧ Says.HostLaunches ∧ Says.FabricOrigin ∧ Says.FabricArrivals ∧ Says.FabricRequests ∧
  Says.FabricMemory ∧ Says.FabricEnds ∧ Says.HostCompletes

/-! ### Management -/

/-- 21 R314, R315, 22 R334, R338, 19 R283, 21 R310, R313: keys, tolerance, the fields of a default block, a report, the partitioning: what each
does and when it is refused with nothing changed. The order of a report's items, and its signature as free bytes, are log 16's; that the
block's bytes in memory follow DEFSET in the same step is log 12's. -/
def Obligations.ManagementSteps : Prop :=
  ∀ (s : State) (pid k ns x : Nat) (f : RcbField) (nonce : List Byte) (parts : List PartCfg),
    let refused : Host.Outcome State Fault Refusal := .next (s.managed false)
    (s.partition pid = none → exec (.keygen pid k) s = refused ∧ exec (.keyclr pid k) s = refused ∧
      exec (.lattol pid ns) s = refused ∧ exec (.attestation pid nonce) s = refused ∧ exec (.defset pid f x) s = refused) ∧
    (∀ p, s.partition pid = some p →
      let inRange := p.kbase ≤ k ∧ k < p.kbase + p.kcount
      (¬ inRange → exec (.keygen pid k) s = refused) ∧
      (inRange → ∃ (u : State), exec (.keygen pid k) s = .next (u.managed true) ∧ u.nextId = s.nextId + 1 ∧
        (∀ d ∈ p.dies, lookupKey (u.die d).keys k = some s.nextId) ∧
        (∀ d j, j ≠ k ∨ d ∉ p.dies → lookupKey (u.die d).keys j = lookupKey (s.die d).keys j) ∧ u.mem = s.mem) ∧
      (¬ inRange ∨ k = p.kbase → exec (.keyclr pid k) s = refused) ∧
      (inRange → k ≠ p.kbase → ∃ (u : State), exec (.keyclr pid k) s = .next (u.managed true) ∧ u.mem = s.mem ∧
        (∀ d ∈ p.dies, risingFrom 0 (s.die d).keys = true → lookupKey (u.die d).keys k = none) ∧
        (∀ d ∉ p.dies, (u.die d).keys = (s.die d).keys)) ∧
      exec (.lattol pid ns) s = .next ((s.setPartition pid { p with tolerance := some ns }).managed true) ∧
      (nonce.length ≠ 32 → exec (.attestation pid nonce) s = refused) ∧
      (nonce.length = 32 → ∃ sig, sig.length = 1280 ∧ exec (.attestation pid nonce) s =
        .next ({ s with freeCtr := s.freeCtr + 1 }.send (.report (nonce ++ natBytes pid 1 ++ s.mrs.flatten ++ s.configHash ++
          natBytes s.config.version 8 ++ (List.range 1793).map Config.identityByte ++ sig)))) ∧
      (∀ r, s.region p.root = some r →
        let v := r.vals.put f x
        (rcbFits f x = false ∨ v.ok = false → exec (.defset pid f x) s = refused) ∧
        (rcbFits f x = true → v.ok = true → exec (.defset pid f x) s = .next (((s.setVals p.root v).blockOut p.root (fieldSpan f).1 (fieldSpan f).2).managed true)))) ∧
    (partsOk s.ports parts = false → exec (.partitioningChange parts) s = refused) ∧
    (partsOk s.ports parts = true → ∃ (u : State), exec (.partitioningChange parts) s = .next (u.managed true) ∧ u.ops = [] ∧
      ∀ c ∈ parts, (u.partition c.pid).map (fun p => (p.dies, p.ports, p.kbase, p.kcount)) =
        some (c.dies.foldl addNum [], c.ports, c.kbase, c.kcount))

/-! ### Power, errors, boot -/

/-- 22 R325, R328, R330: the governor's period: a division of the budgets in which every die keeps its share of the current and of the power
(by its enabled tiles, at the highest voltage: log 31), and points of cores within the clocks and voltages that 22 R325 allows, which the
regions that run there measure. A phase that ends enters its best measured point. The energies measured are free values (log 9); that the best
is the one of least energy per committed task is log 31's reading. -/
def Says.Governor : Prop :=
  ∀ (s : State) (shares : List Nat) (points : List (Nat × Nat × Nat)),
    (let l := s.enabledTiles
     let fits := shares.length = l.length ∧ ∀ d, d < 12 → shareOk s (l.zip shares) d = true
     let sets := fun (u : State) => points.foldl (fun v x => v.setPoint x.1 x.2.1 x.2.2) u
     (fits → exec (.governorPeriod ⟨shares, points⟩) s =
       .next (sets ((l.zip shares).foldl (fun s x => s.onTile x.1 (fun t => { t with budget := x.2 })) s))) ∧
     (¬ fits → exec (.governorPeriod ⟨shares, points⟩) s = .next (sets s))) ∧
    (∀ all d, shareOk s all d = true ↔
      let mine := all.filter (fun x => dieOfTile x.1 == d)
      (mine.map Prod.snd).sum * all.length ≤ 4000000 * mine.length ∧
      (mine.map Prod.snd).sum * 480 * all.length ≤ s.config.power * 1000000 * mine.length) ∧
    ∀ (core f v : Nat),
      let allowed := 400 ≤ f ∧ f ≤ (if s.sprinting core then 2100 else s.config.coreLimit) ∧ f % 25 = 0 ∧ 300 ≤ v ∧ v ≤ 480 ∧
        s.enabledTile (core / 4) = true
      let off : Int := (v : Int) - nominalVolt f
      (allowed → s.setPoint core f v =
        ((s.regions.filter (fun x => x.2.state == .running && x.2.tiles.contains (core / 4))).map Prod.fst).foldl
          (fun u rid => u.measure rid f v) (s.onCore core (fun k => { k with freq := f, volt := v }))) ∧
      (¬ allowed → s.setPoint core f v = s) ∧
      ∀ rid r, s.region rid = some r →
        ((∃ e, (f, off, e) ∈ r.points) → s.measure rid f v = ({ s with freeCtr := s.freeCtr + 1 } : State).setRegion rid r) ∧
        ((∀ e, (f, off, e) ∉ r.points) → ∃ e, s.measure rid f v =
          ({ s with freeCtr := s.freeCtr + 1 } : State).setRegion rid { r with points := r.points ++ [(f, off, e)] }) ∧
        (r.points = [] → s.phaseEnd rid = s.setRegion rid r) ∧
        (r.points ≠ [] → ∃ x ∈ r.points, (∀ y ∈ r.points, x.2.2 ≤ y.2.2) ∧ ∃ (u : State), s.phaseEnd rid = u ∧
          u = { s.setRegion rid { r with points := [] } with ops := u.ops } ∧
          u.ops = ({ pid := r.pid, kernel := fld r.kphase 0 24, phase := fld r.kphase 24 8, freq := x.1, offset := x.2.1, energy := x.2.2 } ::
            s.ops.filter (fun o => !(o.pid == r.pid && o.kernel == fld r.kphase 0 24 && o.phase == fld r.kphase 24 8))).take 1024)

/-- 22 R326, R328, R329: samples and timing errors. A tile is HOT from a mean of 105 °C until it is below 100, and over its current
budget until it is below nine tenths of it (the mean of the samples there are, where they are fewer than 8: log 31). A timing error's replay and the stretched cycles after it count in TERR (that both do is log
61's reading). -/
def Says.PowerControl : Prop :=
  ∀ (s : State) (die core : Nat) (currents : List Nat) (readings : List Int),
    let spent := fun n => ({ s with strands := s.strands.map (fun x => (x.1, if coreOf x.1 = core then x.2.spend n else x.2)) } : State)
    (readings.length = 256 → currents.length = 256 → die < 12 → ∃ (u : State), exec (.sensorSample die readings currents) s = .next u ∧
      ∀ i tl x c, i < 256 → (tilesOfDie die)[i]? = some tl → readings[i]? = some x → currents[i]? = some c →
        let t := s.tile tl
        let v := u.tile tl
        let sum := v.samples.sum
        let n : Int := v.samples.length
        (∃ y, v.samples = (y :: t.samples).take 8) ∧ v.lastReading = x ∧
        v.same = (if x = t.lastReading then t.same + 1 else 0) ∧
        (210 * n ≤ sum → v.hot = true) ∧ (sum < 200 * n → v.hot = false) ∧ (200 * n ≤ sum → sum < 210 * n → v.hot = t.hot) ∧
        (t.budget < c → v.overi = true) ∧ (c ≤ t.budget → 10 * c < 9 * t.budget → v.overi = false) ∧
        (c ≤ t.budget → 9 * t.budget ≤ 10 * c → v.overi = t.overi) ∧ v.spad = t.spad ∧ v.deque = t.deque) ∧
    exec (.timingError core) s =
      .next ((spent 1).onCore core (fun k => { k with terr := min (k.terr + 1) (2 ^ 64 - 1), stretch := 64 })) ∧
    exec (.stretchEnd core) s = .next ((spent (s.core core).stretch).onCore core (fun k =>
      { k with terr := min (k.terr + k.stretch) (2 ^ 64 - 1), stretch := 0 })) ∧
    (∀ (k : Core) n, k.spend n = { k with stretch := k.stretch - n, terr := min (k.terr + min k.stretch n) (2 ^ 64 - 1) })

/-- 22 R329: a reading out of range is clamped, one that has stood still while a neighbour moved takes the highest neighbour, one more than
15 °C off its neighbours' median takes the median; any other stands. -/
def Says.SensorRules : Prop :=
  ∀ (readings : List Int) (still : List Nat) (i : Nat) (x : Int), i < 256 → readings[i]? = some x →
    let near := (placeNext i).map (fun j => clampReading ((readings[j]?).getD 0))
    let count := fun j => (still[j]?).getD 0
    (x < -40 → correct readings still i = (-80, true)) ∧ (150 < x → correct readings still i = (300, true)) ∧
    (-40 ≤ x → x ≤ 150 → 2 ^ 20 ≤ count i → (∃ j ∈ placeNext i, count j < 2 ^ 20) →
      ∃ m ∈ near, (∀ y ∈ near, y ≤ m) ∧ correct readings still i = (2 * m, true)) ∧
    (-40 ≤ x → x ≤ 150 → count i < 2 ^ 20 ∨ (∀ j ∈ placeNext i, 2 ^ 20 ≤ count j) →
      correct readings still i = (if 30 < (2 * x - median2 near).natAbs then (median2 near, true) else (2 * x, false)))

/-- 22 R334: the deepest idle state within a tolerance; an idle tile goes into it, and with the last one of its die the die into K4, in which
each tile wakes before it gets work; a tile with work wakes with its die. -/
def Says.IdleStates : Prop :=
  ∀ (s : State) (tile : Nat) (tol : Option Nat),
    (tol = none → deepest tol = 3) ∧
    (∀ n, tol = some n → deepest tol = (if 40000 ≤ n then 3 else if 2000 ≤ n then 2 else if 20 ≤ n then 1 else 0)) ∧
    (tileIsIdle s tile = false → exec (.tileIdle tile) s = .next s) ∧
    (tileIsIdle s tile = true → ∃ (u : State), exec (.tileIdle tile) s = .next u ∧ (u.tile tile).idle = deepest (s.toleranceOf tile) ∧
      u.mem = s.mem ∧ (∀ i, (u.tile i).spad = (s.tile i).spad) ∧ u.strands = s.strands ∧
      (deepest (s.toleranceOf tile) = 3 → ∀ i : Fin 4, (u.core (4 * tile + i)).l1 = [] ∧ (u.core (4 * tile + i)).tlb = [])) ∧
    (let s1 := (if deepest (s.toleranceOf tile) = 3 then s.coresOff tile else s).onTile tile (fun t =>
      { t with idle := deepest (s.toleranceOf tile) }) |>.onDie (dieOfTile tile) (fun d => { d with idle := 0 })
     let all := (tilesOfDie (dieOfTile tile)).filter s1.enabledTile
     tileIsIdle s tile = true → (∀ t ∈ all, tileIsIdle s1 t = true ∧ meets 2000000 (s1.toleranceOf t) = true) →
      ∃ (u : State), exec (.tileIdle tile) s = .next u ∧ (u.die (dieOfTile tile)).idle = 4 ∧
        ∀ t ∈ all, (u.tile t).idle = 3 ∧ ∀ i : Fin 4, (u.core (4 * t + i)).l1 = [] ∧ (u.core (4 * t + i)).tlb = []) ∧
    (let s1 := (if deepest (s.toleranceOf tile) = 3 then s.coresOff tile else s).onTile tile (fun t =>
      { t with idle := deepest (s.toleranceOf tile) }) |>.onDie (dieOfTile tile) (fun d => { d with idle := 0 })
     tileIsIdle s tile = true → (∃ t ∈ tilesOfDie (dieOfTile tile), s1.enabledTile t = true ∧
       (tileIsIdle s1 t = false ∨ meets 2000000 (s1.toleranceOf t) = false)) → exec (.tileIdle tile) s = .next s1) ∧
    (∀ x, s.savedFor tile = some x → workReady s tile = true) ∧
    (workReady s tile = false → exec (.tileWake tile) s = .next s) ∧
    (workReady s tile = true → exec (.tileWake tile) s =
      .next ((s.onTile tile (fun t => { t with idle := 0 })).onDie (dieOfTile tile) (fun d => { d with idle := 0 })))

/-- 20 R308, R309, 09 R190: soft errors: what is marked, what is counted, what is aborted. An element of an accumulator that has failed
counts and is marked only when an instruction reads it as C (log 32). -/
def Says.SoftErrors : Prop :=
  ∀ (s : State) (die pa tile off core block line sid idx elem rid kind : Nat) (r : SReg) (vr : VReg) (pr : PReg) (kr : KReg)
    (ar : AReg) (unit : BitVec 3),
    let t := s.strand sid
    let soft := fun e => exec (.softError e) s
    let reg := fun (e : SoftErr) (mark : Strand → Strand) =>
      (t.task = none → soft e = .next (s.countUe (dieOf sid))) ∧
      (t.task.isSome = true → t.restartable = true → soft e = .next ((s.countUe (dieOf sid)).abort sid none false)) ∧
      (t.task.isSome = true → t.restartable = false → soft e = .next ((s.countUe (dieOf sid)).setStrand sid (mark t)))
    soft (.corrected die) = .next (s.countCe die) ∧
    (∃ (u : State), soft (.memUnit pa) = .next u ∧ u.poisoned pa = true ∧ u.mem = s.mem ∧
      (bitOf (s.die (homeDie pa)).lastue 63 = true → (u.die (homeDie pa)).lastue = (s.die (homeDie pa)).lastue) ∧
      (bitOf (s.die (homeDie pa)).lastue 63 = false → pa < 2 ^ 48 → bitOf (u.die (homeDie pa)).lastue 63 = true ∧
        fld (u.die (homeDie pa)).lastue 0 48 = pa / 8 * 8)) ∧
    soft (.spadUnit tile off) = .next ((s.onTile tile (fun t => { t with spadPoison := addNum t.spadPoison (off % 2 ^ 20 / 8) })).countUe
      (dieOfTile tile)) ∧
    soft (.weightBlock core block) = .next (((s.onCore core (fun k =>
      { k with wPoison := setBit k.wPoison (block % 1024) true })).spoilBlock core (block % 1024)).countUe (dieOfTile (core / 4))) ∧
    soft (.l1Line core line) = .next ((s.onCore core (fun k => { k with l1 := dropKey k.l1 line })).countCe (dieOfTile (core / 4))) ∧
    reg (.sReg sid r) (fun t => t.wr r (t.rd r) true) ∧
    reg (.vReg sid vr unit) (fun t => t.wrV vr (t.rdV vr) (setBit (t.markV vr) unit.toNat true)) ∧
    reg (.pReg sid pr) (fun t => t.wrP pr (t.rdP pr) true) ∧ reg (.kReg sid kr) (fun t => t.wrK kr (t.rdK kr) true) ∧
    soft (.accElem sid ar elem) = .next (s.onStrand sid (fun t => t.setErrA ar (setBit (t.errA ar) (elem % 1024) true))) ∧
    (t.task.isSome = true → t.restartable = true →
      soft (.storeUnit sid idx) = .next ((s.countUe (dieOf sid)).abort sid none false)) ∧
    (t.task.isSome = true → t.restartable = false → ∃ (u : State), soft (.storeUnit sid idx) = .next u ∧
      (∀ b, t.buf[idx]? = some b → (u.strand sid).buf[idx]? = some { b with poison := true }) ∧
      (∀ i, i ≠ idx → (u.strand sid).buf[i]? = t.buf[i]?)) ∧
    soft (.stateEntry die rid kind) = .next ((s.countUe die).killReport rid 0x85 (BitVec.ofNat 64 kind) 0)

/-- 22 R336, R337, R338: reset, the measured boot and the configuration record, which applies only as boot stage 2 measured it and whose hash
a report then carries. That memory stays through a reset, that MR6 takes the first image that the host loads and MR7 the later ones, and what
recovery stops, are log 32's choices. -/
def Says.Booting : Prop :=
  ∀ (s : State) (image : List Byte) (verified : Bool) (c : ConfigRecord),
    (∃ (u : State), exec .packageReset s = .next u ∧ u.strands = [] ∧ u.partitions = [] ∧ u.regions = [] ∧ u.tiles = [] ∧ u.cores = [] ∧
      u.dies = [] ∧ u.bootStage = 0 ∧ u.recovery = false ∧ u.mrs = List.replicate 8 (List.replicate 64 0) ∧ u.linkUp = false ∧
      u.minVersion = s.minVersion ∧ u.mem = s.mem ∧ u.memPoison = s.memPoison) ∧
    (s.recovery = true → exec (.bootStage image verified) s = .next s) ∧
    (s.recovery = false → verified = false → s.bootStage < 6 →
      exec (.bootStage image verified) s = .next ({ s with recovery := true }.send (.recovery (s.bootStage + 1)))) ∧
    (s.recovery = false → verified = false → 6 ≤ s.bootStage → exec (.bootStage image verified) s = .next (s.managed false)) ∧
    (s.recovery = false → verified = true → ∃ (u : State), exec (.bootStage image verified) s = .next u ∧ u.bootStage = s.bootStage + 1 ∧
      (∀ old, s.mrs[min s.bootStage 7]? = some old →
        u.mrs[min s.bootStage 7]? = some (shake256 (old ++ shake256 image 64) 64)) ∧
      (∀ i, i ≠ min s.bootStage 7 → u.mrs[i]? = s.mrs[i]?) ∧ u.mem = s.mem ∧ u.strands = s.strands ∧
      u.bootHash = (if s.bootStage = 1 then shake256 image 64 else s.bootHash)) ∧
    (verified = false ∨ s.recovery = true ∨ s.bootStage < 2 ∨ shake256 c.image 64 ≠ s.bootHash ∨ c.version < s.minVersion ∨
        recordOk c = false →
      exec (.configurationRecord c verified) s = .next (s.managed false)) ∧
    (verified = true → s.recovery = false → 2 ≤ s.bootStage → shake256 c.image 64 = s.bootHash → s.minVersion ≤ c.version →
        recordOk c = true → ∃ (u : State),
      exec (.configurationRecord c verified) s = .next (u.managed true) ∧ u.config = c ∧ u.disabled = c.disabled ∧ u.ports = c.ports ∧
      u.minVersion = c.version ∧ u.configHash = s.bootHash)

/-- Every step of the management, of power and of the boot completes, in every state. -/
def Says.PowerCompletes : Prop :=
  ∀ (s : State) (n k : Nat) (l l' : List Nat) (points : List (Nat × Nat × Nat)) (r : List Int) (e : SoftErr) (bs : List Byte) (b : Bool)
    (c : ConfigRecord), (∃ t, exec (.governorPeriod ⟨l, points⟩) s = .next t) ∧ (∃ t, exec (.sensorSample n r l') s = .next t) ∧
    (∃ t, exec (.timingError n) s = .next t) ∧ (∃ t, exec (.stretchEnd n) s = .next t) ∧ (∃ t, exec (.tileIdle n) s = .next t) ∧
    (∃ t, exec (.tileWake n) s = .next t) ∧ (∃ t, exec (.softError e) s = .next t) ∧ (∃ t, exec .packageReset s = .next t) ∧
    (∃ t, exec (.bootStage bs b) s = .next t) ∧ (∃ t, exec (.configurationRecord c b) s = .next t) ∧
    (∃ t, exec (.keygen n k) s = .next t) ∧ (∃ t, exec (.keyclr n k) s = .next t) ∧ (∃ t, exec (.lattol n k) s = .next t) ∧
    ∃ t, exec (.attestation n bs) s = .next t

/-- Budgets and points, samples and their corrections (that fewer than 8 samples give a mean too is log 31's choice), timing errors, idle states,
soft errors, reset, measured boot and the configuration record (log 32). -/
def Obligations.PowerSteps : Prop :=
  Says.Governor ∧ Says.PowerControl ∧ Says.SensorRules ∧ Says.IdleStates ∧ Says.SoftErrors ∧ Says.Booting ∧ Says.PowerCompletes

/-! ### Frames -/

/-- Only S[d], its mark and the pc of the current strand differ, and the prefixes are consumed. -/
def onlyS (s t : State) (d : SReg) : Prop :=
  s.onlyStrand t s.cur ∧ (∀ r, r ≠ d → t.me.rd r = s.me.rd r ∧ t.me.markS r = s.me.markS r) ∧ (d = 0 → t.me.s = s.me.s) ∧
  t.me = { s.me with s := t.me.s, sMark := t.me.sMark, pc := s.me.pc + 4, pfxr := 0, sts := s.me.sts &&& ~~~ 2 } ∧ s.sameMem t

/-- Only P[d], its mark and the pc of the current strand differ, and the prefixes are consumed. -/
def onlyP (s t : State) (d : PReg) : Prop :=
  s.onlyStrand t s.cur ∧ (∀ r, r ≠ d → t.me.rdP r = s.me.rdP r ∧ t.me.markP r = s.me.markP r) ∧ (d = 0 → t.me.p = s.me.p) ∧
  t.me = { s.me with p := t.me.p, pMark := t.me.pMark, pc := s.me.pc + 4, pfxr := 0, sts := s.me.sts &&& ~~~ 2 } ∧ s.sameMem t

/-- Only the bytes of V[d] that the guard enables, its marks and the pc of the current strand differ. -/
def onlyV (s t : State) (g : Guard) (d : VReg) : Prop :=
  s.onlyStrand t s.cur ∧ (∀ r, r ≠ d → t.me.rdV r = s.me.rdV r ∧ t.me.markV r = s.me.markV r) ∧
  (∀ j < 64, (s.me.guardBytes g).getLsbD j = false → byteAt (t.me.rdV d) j = byteAt (s.me.rdV d) j) ∧
  t.me = { s.me with v := t.me.v, vMark := t.me.vMark, pc := s.me.pc + 4, pfxr := 0, sts := s.me.sts &&& ~~~ 2 } ∧ s.sameMem t

/-- 02 R16, 05 R99, R102, 06 R111, R112, R114, R119-R122, 07 R135, R141: what the register operations leave alone. -/
def Says.RegisterFrames : Prop :=
  ∀ (s t : State) (g : Guard) (d a b : SReg) (pd pa pb : PReg) (vd va vb : VReg) (i12 : BitVec 12) (i10 : BitVec 10) (n : BitVec 6)
    (q : BitVec 1) (w : BitVec 2) (cc e o : BitVec 4) (c3 : BitVec 3) (i : Instr), exec i s = .next t →
    (s.acts .none g [d, a, b] = true →
      i ∈ [Instr.add g d a b, .sub g d a b, .mul g d a b, .mulh g d a b, .mulhz g d a b, .div g d a b, .divz g d a b, .rem g d a b,
        .remz g d a b, .and g d a b, .or g d a b, .xor g d a b, .andn g d a b, .orn g d a b, .shl g d a b, .shr g d a b,
        .sra g d a b, .rol g d a b, .min g d a b, .max g d a b, .minz g d a b, .maxz g d a b] → onlyS s t d) ∧
    (s.acts .none g [d, a] = true →
      i ∈ [Instr.clz g d a, .ctz g d a, .popc g d a, .bswap g d a, .sextB g d a, .sextH g d a, .sextW g d a, .zextB g d a,
        .zextH g d a, .zextW g d a, .shli g d a n, .shri g d a n, .srai g d a n, .roli g d a n] → onlyS s t d) ∧
    (s.acts .imm g [d, a] = true → i ∈ [Instr.addi g d a i12, .andi g d a i12, .ori g d a i12, .xori g d a i12] → onlyS s t d) ∧
    (s.acts .mode g [d, a, b] = true → rmOnly s.me.pfxr = true →
      i ∈ [Instr.fadd g d a b q, .fsub g d a b q, .fmul g d a b q, .fdiv g d a b q, .fmin g d a b q, .fmax g d a b q,
        .fma g d a b q] → onlyS s t d) ∧
    (s.acts .mode g [d, a] = true → rmOnly s.me.pfxr = true →
      i ∈ [Instr.fsqrt g d a q, .fclass g d a q, .fcvt g d a e o] → onlyS s t d) ∧
    (s.acts .none g [d] = true → i ∈ [Instr.pmovSP g d pa, .pcount g d pa] → onlyS s t d) ∧
    (s.acts .none g [] = true →
      i ∈ [Instr.pand g pd pa pb, .por g pd pa pb, .pxor g pd pa pb, .pnot g pd pa, .pmovPP g pd pa] → onlyP s t pd) ∧
    (s.acts .none g [a, b] = true → s.clean [a, b] = true → i = .cmp g pd a b cc → onlyP s t pd) ∧
    (s.acts .imm g [a] = true → s.clean [a] = true → i = .cmpi g pd cc a i10 → onlyP s t pd) ∧
    (s.acts .none g [a] = true → s.clean [a] = true → i = .pmovPS g pd a → onlyP s t pd) ∧
    (s.acts .mode g [a, b] = true → rmOnly s.me.pfxr = true → s.clean [a, b] = true → i = .fcmp g pd a b c3 q → onlyP s t pd) ∧
    (s.actsB .none g [] [vd, va, vb] = true →
      i ∈ [Instr.vaddInt g vd va vb w, .vsubInt g vd va vb w, .vmulInt g vd va vb w, .vmulh g vd va vb w, .vmulhz g vd va vb w,
        .vand g vd va vb w, .vor g vd va vb w, .vxor g vd va vb w, .vshl g vd va vb w, .vshr g vd va vb w, .vsra g vd va vb w,
        .vminInt g vd va vb w, .vmaxInt g vd va vb w, .vminz g vd va vb w, .vmaxz g vd va vb w] → onlyV s t g vd)

/-- 07 R135, R136, R142-R150: what vector floating point, compares, conversions, movement, reductions, scans and dot products leave alone,
whatever marks their sources carry where a marked source does not trap. -/
def Says.VectorFrames : Prop :=
  ∀ (s t : State) (g : Guard) (d a b : SReg) (pd pn : PReg) (vd va vb : VReg) (w u : BitVec 2) (cc e o : BitVec 4) (c3 : BitVec 3) (i : Instr),
    exec i s = .next t →
    (s.actsB .mode g [] [vd, va, vb] = true → rmOnly s.me.pfxr = true →
      i ∈ [Instr.vaddFp g vd va vb w, .vsubFp g vd va vb w, .vmulFp g vd va vb w, .vdiv g vd va vb w, .vminFp g vd va vb w,
        .vmaxFp g vd va vb w, .vfma g vd va vb w] → onlyV s t g vd) ∧
    (s.actsB .mode g [] [vd, va] = true → rmOnly s.me.pfxr = true →
      i ∈ [Instr.vsqrt g vd va w, .vfrsqe g vd va w, .vabs g vd va w] → onlyV s t g vd) ∧
    (s.actsB .mode g [] [vd, va] = true → rmOnly s.me.pfxr = true →
      (elemFmt e = .c4 → (s.core (coreOf s.cur)).tableOwner = some s.me.rid) → i = .vcvt g vd va e o → onlyV s t g vd) ∧
    (s.actsB .none g [] [vd, va, vb] = true → s.cleanP [pn] = true → i = .vsel g vd va vb pn → onlyV s t g vd) ∧
    (s.actsB .none g [] [vd, va, vb] = true →
      i ∈ [Instr.vperm g vd va vb w, .vdotI8 g vd va vb, .vdotF16 g vd va vb, .vdotBf16 g vd va vb, .vdotE4m3 g vd va vb] →
      onlyV s t g vd) ∧
    (s.actsB .none g [a] [vd] = true → i = .vbcast g vd a w → onlyV s t g vd) ∧
    (s.actsB .none g [b] [vd, va] = true → s.clean [b] = true → i = .vslide g vd va b w → onlyV s t g vd) ∧
    (s.actsB .none g [a, b] [vd] = true → s.clean [b] = true → i = .vins g vd a b w → onlyV s t g vd) ∧
    (s.actsB .none g [] [vd, va] = true → s.cleanP [pn] = true → i ∈ [Instr.vscan g vd va pn w, .vcompact g vd va pn w] → onlyV s t g vd) ∧
    (s.actsV .none g [d, b] [va] [] = true → s.clean [b] = true → i = .vext g d va b w → onlyS s t d) ∧
    (s.actsV .none g [d] [va] [] = true → s.cleanP [pn] = true → i ∈ [Instr.vredInt g d va pn c3 w, .vredFp g d va pn u w] → onlyS s t d) ∧
    (s.actsB .none g [] [va, vb] = true → s.me.markV va = 0 → s.me.markV vb = 0 → i = .vcmpInt g pd va vb cc w →
      onlyP s t pd ∧ ∀ j < 64, (s.me.guardBytes g).getLsbD j = false → (t.me.rdP pd).getLsbD j = (s.me.rdP pd).getLsbD j) ∧
    (s.actsB .mode g [] [va, vb] = true → rmOnly s.me.pfxr = true → s.me.markV va = 0 → s.me.markV vb = 0 → i = .vcmpFp g pd va vb c3 w →
      onlyP s t pd ∧ ∀ j < 64, (s.me.guardBytes g).getLsbD j = false → (t.me.rdP pd).getLsbD j = (s.me.rdP pd).getLsbD j)

/-- A store changes only the bytes it names, at the address it computes; a scalar, floating-point, predicate or vector register operation
changes only its destination, the pc and the prefixes of its own strand, and no memory. -/
def Obligations.Frames : Prop := Says.StoreFrame ∧ Says.RegisterFrames ∧ Says.VectorFrames

/-! ### Words, steps, the invariant -/

/-- 05 R82-R98: decoding undoes encoding: every well-formed instruction is what the decoder reads from its word, with every operand. -/
def Obligations.DecodeEncode : Prop := ∀ (i : Instr) (w : BitVec 32), i.wf = true → encode i = some w → decode w = .ok i

/-- 05 R82, R84, R108: encoding undoes decoding: a word that decodes is the word of what it decodes to, so that no two words are one
instruction and no bit is dropped; what it decodes to is well formed. -/
def Obligations.EncodeDecode : Prop := ∀ (i : Instr) (w : BitVec 32), decode w = .ok i → i.wf = true ∧ encode i = some w

/-- 05 R82-R98: the words that the spec writes out, as it reads them. -/
def Obligations.DecodeWords : Prop :=
  decode 0x0414B600 = .ok (.add 0 10 11 12) ∧ decode 0x081406A0 = .ok (.addi 0 10 0 0x6A0) ∧
  decode 0x42945010 = .ok (.ldD 0xA 10 5 0x10) ∧ decode 0x1816B020 = .ok (.shli 0 11 11 32) ∧
  decode 0x1C112800 = .ok (.cmpi 0 2 2 10 0) ∧ decode 0x59164FFE = .ok (.bCc 4 11 4 0xFFE) ∧
  decode 0xF4400018 = .ok (.immx 0x18) ∧ decode 0x88800001 = .ok (.vaddFp 2 0 0 0 1) ∧
  decode 0xA001A2D5 = .ok (.copy 0 0 1 20 11 10 1) ∧ decode 0x9C01A094 = .ok (.balloc 0 1 20 2 10) ∧
  decode 0x9401A299 = .ok (.send 0 1 20 10 12 1) ∧ decode 0xB4081113 = .ok (.smux 0 4 1 2 3)

/-- 02 R20, 03 R43, 05 R82, R108, 20 R302, R307: a step runs the instruction that the word at the pc decodes to, and nothing else: the
first strand in the core's order is taken up, its word is fetched, a word that decodes to nothing is a reserved encoding. -/
def Obligations.StepRunsDecoded : Prop :=
  ∀ (s u : State) (core sid : Nat) (rest : List Input) (others : List Nat) (w : BitVec 32),
    let s0 : State := { s with agenda := rest, curCore := core }
    s.agenda = .issue core :: rest → s0.issueOrder core = sid :: others → watchdogDue s0 sid = false →
    (s0.takeUp sid).fetch = .word u w →
    let i := match decode w with
      | .ok i => i
      | .error _ => .reservedEncoding w
    (∀ t, exec i u = .next t → (t.strand sid).wait ≠ .stalled →
      step s = .next (t.onCore core (fun k => { k with last := sid % 4 }))) ∧
    (∀ t, exec i u = .next t → (t.strand sid).wait = .stalled → step s = t.issueFirst core others) ∧
    (∀ f, exec i u = .fault f → step s = .fault f) ∧
    (let v := s0.takeUp sid
     ∃ m x, v.xlats (.core (coreOf sid)) (v.pidOfRegion v.me.rid) (some v.me.rid) v.me.super .fetch [v.me.pc.toNat] [] = (u, .ok m) ∧
       (List.range 4).map (fun j => u.readOut (placeOf m (v.me.pc.toNat + j)).host (placeOf m (v.me.pc.toNat + j)).slot
         (placeOf m (v.me.pc.toNat + j)).key) = x ∧ w = BitVec.ofNat 32 (leNat (x.map Prod.fst)))

/-- 22 R327, R336, 09 R179, 02 R17, R34, 12 R237: what the spec gives for reset: no task, no region, no partition; weight buffers and
measurement registers 0; cores at 1,800 MHz; and the invariant holds. -/
def Obligations.ResetState : Prop :=
  State.reset.Inv = true ∧ (∀ i, (State.reset.strand i).task = none) ∧ (∀ i, State.reset.region i = none) ∧
  (∀ i, State.reset.partition i = none) ∧ (∀ i r, (State.reset.strand i).rdK r = none) ∧
  (∀ i, (State.reset.core i).weight = 0 ∧ (State.reset.core i).form = 0 ∧ (State.reset.core i).freq = 1800) ∧
  State.reset.mrs = List.replicate 8 (List.replicate 64 0) ∧ (∀ i, (State.reset.tile i).seq = 0 ∧ (State.reset.tile i).deque = []) ∧
  (∀ d k, State.reset.keyVer d k = none) ∧ (∀ k, State.reset.poisoned k = false)

/-- The model's own (log 4): every step keeps the canonical form of device memory and of every scratchpad. -/
def Obligations.StepKeepsInv : Prop := ∀ (s t : State), s.Inv = true → step s = .next t → t.Inv = true
end

