-- ==== Sys2Proof/Laws/State.lean ====
section
/-! SUPPORT. What each update of the state and of a strand leaves alone; the keyed lists; a strand written and read back. -/

namespace Sys2Proof.Machine

/-! ### Keyed lists -/

@[simp] theorem lookupKey_putKey_self {α : Type} (l : List (Nat × α)) (k : Nat) (x : α) :
    lookupKey (putKey l k x) k = some x := by
  induction l with
  | nil => simp [putKey, lookupKey]
  | cons c r ih =>
    obtain ⟨j, y⟩ := c
    simp only [putKey]
    split
    · simp [lookupKey]
    · split
      · simp [lookupKey]
      · rename_i h1 h2
        simp [lookupKey, h1, h2, ih]

theorem lookupKey_putKey_ne {α : Type} (l : List (Nat × α)) (k i : Nat) (x : α) (h : i ≠ k) :
    lookupKey (putKey l k x) i = lookupKey l i := by
  induction l with
  | nil =>
    simp only [putKey, lookupKey]
    rw [if_neg (fun e => h e.symm)]
    split <;> rfl
  | cons c r ih =>
    obtain ⟨j, y⟩ := c
    simp only [putKey]
    split
    · rename_i hj
      subst hj
      simp only [lookupKey, if_neg (Ne.symm h)]
    · split
      · rename_i h1 h2
        simp only [lookupKey]
        rw [if_neg (fun e => h e.symm)]
        split
        · rw [if_neg (by omega), if_pos (by omega)]
        · rfl
      · simp only [lookupKey, ih]

@[simp] theorem putKey_putKey_self {α : Type} (l : List (Nat × α)) (k : Nat) (x y : α) :
    putKey (putKey l k x) k y = putKey l k y := by
  induction l with
  | nil => simp [putKey]
  | cons c r ih =>
    obtain ⟨j, z⟩ := c
    simp only [putKey]
    split
    · simp [putKey]
    · split
      · simp [putKey]
      · rename_i h1 h2
        simp [putKey, h1, h2, ih]

/-! ### Parts of the state, written and read back -/

@[simp] theorem strand_setStrand (s : State) (i : Nat) (t : Strand) : (s.setStrand i t).strand i = t := by
  simp [State.strand, State.setStrand]

theorem strand_setStrand_ne (s : State) (i j : Nat) (t : Strand) (h : j ≠ i) : (s.setStrand i t).strand j = s.strand j := by
  simp [State.strand, State.setStrand, lookupKey_putKey_ne _ _ _ _ h]

@[simp] theorem setStrand_setStrand (s : State) (i : Nat) (t u : Strand) :
    (s.setStrand i t).setStrand i u = s.setStrand i u := by
  simp [State.setStrand]

@[simp] theorem core_setCore (s : State) (i : Nat) (c : Core) : (s.setCore i c).core i = c := by
  simp [State.core, State.setCore]
@[simp] theorem tile_setTile (s : State) (i : Nat) (c : Tile) : (s.setTile i c).tile i = c := by
  simp [State.tile, State.setTile]
@[simp] theorem die_setDie (s : State) (i : Nat) (c : Die) : (s.setDie i c).die i = c := by
  simp [State.die, State.setDie]
@[simp] theorem region_setRegion (s : State) (i : Nat) (r : Region) : (s.setRegion i r).region i = some r := by
  simp [State.region, State.setRegion]
@[simp] theorem partition_setPartition (s : State) (i : Nat) (p : Partition) :
    (s.setPartition i p).partition i = some p := by
  simp [State.partition, State.setPartition]

@[simp] theorem cur_onMe (s : State) (f : Strand → Strand) : (s.onMe f).cur = s.cur := rfl
@[simp] theorem me_onMe (s : State) (f : Strand → Strand) : (s.onMe f).me = f s.me := by
  show (s.setStrand s.cur _).strand s.cur = _
  rw [strand_setStrand]
  rfl

/-- Two changes of the current strand are one. -/
theorem onMe_onMe (s : State) (f g : Strand → Strand) : (s.onMe f).onMe g = s.onMe (fun t => g (f t)) := by
  show (s.setStrand s.cur _).setStrand s.cur (g ((s.setStrand s.cur _).strand s.cur)) = _
  rw [strand_setStrand, setStrand_setStrand]
  rfl

/-! ### `setStrand` -/

@[simp] theorem mem_setStrand (s : State) (i : Nat) (t : Strand) : (s.setStrand i t).mem = s.mem := rfl
@[simp] theorem memPoison_setStrand (s : State) (i : Nat) (t : Strand) : (s.setStrand i t).memPoison = s.memPoison := rfl
@[simp] theorem lineKey_setStrand (s : State) (i : Nat) (t : Strand) : (s.setStrand i t).lineKey = s.lineKey := rfl
@[simp] theorem lineScope_setStrand (s : State) (i : Nat) (t : Strand) : (s.setStrand i t).lineScope = s.lineScope := rfl
@[simp] theorem meshTime_setStrand (s : State) (i : Nat) (t : Strand) : (s.setStrand i t).meshTime = s.meshTime := rfl
@[simp] theorem cores_setStrand (s : State) (i : Nat) (t : Strand) : (s.setStrand i t).cores = s.cores := rfl
@[simp] theorem tiles_setStrand (s : State) (i : Nat) (t : Strand) : (s.setStrand i t).tiles = s.tiles := rfl
@[simp] theorem dies_setStrand (s : State) (i : Nat) (t : Strand) : (s.setStrand i t).dies = s.dies := rfl
@[simp] theorem partitions_setStrand (s : State) (i : Nat) (t : Strand) : (s.setStrand i t).partitions = s.partitions := rfl
@[simp] theorem regions_setStrand (s : State) (i : Nat) (t : Strand) : (s.setStrand i t).regions = s.regions := rfl
@[simp] theorem homeQ_setStrand (s : State) (i : Nat) (t : Strand) : (s.setStrand i t).homeQ = s.homeQ := rfl
@[simp] theorem written_setStrand (s : State) (i : Nat) (t : Strand) : (s.setStrand i t).written = s.written := rfl
@[simp] theorem launches_setStrand (s : State) (i : Nat) (t : Strand) : (s.setStrand i t).launches = s.launches := rfl
@[simp] theorem msgs_setStrand (s : State) (i : Nat) (t : Strand) : (s.setStrand i t).msgs = s.msgs := rfl
@[simp] theorem travs_setStrand (s : State) (i : Nat) (t : Strand) : (s.setStrand i t).travs = s.travs := rfl
@[simp] theorem duals_setStrand (s : State) (i : Nat) (t : Strand) : (s.setStrand i t).duals = s.duals := rfl
@[simp] theorem fixedRuns_setStrand (s : State) (i : Nat) (t : Strand) : (s.setStrand i t).fixedRuns = s.fixedRuns := rfl
@[simp] theorem pageReqs_setStrand (s : State) (i : Nat) (t : Strand) : (s.setStrand i t).pageReqs = s.pageReqs := rfl
@[simp] theorem ops_setStrand (s : State) (i : Nat) (t : Strand) : (s.setStrand i t).ops = s.ops := rfl
@[simp] theorem linkUp_setStrand (s : State) (i : Nat) (t : Strand) : (s.setStrand i t).linkUp = s.linkUp := rfl
@[simp] theorem hostOut_setStrand (s : State) (i : Nat) (t : Strand) : (s.setStrand i t).hostOut = s.hostOut := rfl
@[simp] theorem waiting_setStrand (s : State) (i : Nat) (t : Strand) : (s.setStrand i t).waiting = s.waiting := rfl
@[simp] theorem hostDropped_setStrand (s : State) (i : Nat) (t : Strand) : (s.setStrand i t).hostDropped = s.hostDropped := rfl
@[simp] theorem portDropped_setStrand (s : State) (i : Nat) (t : Strand) : (s.setStrand i t).portDropped = s.portDropped := rfl
@[simp] theorem fabricCount_setStrand (s : State) (i : Nat) (t : Strand) : (s.setStrand i t).fabricCount = s.fabricCount := rfl
@[simp] theorem quotaEnd_setStrand (s : State) (i : Nat) (t : Strand) : (s.setStrand i t).quotaEnd = s.quotaEnd := rfl
@[simp] theorem fabrics_setStrand (s : State) (i : Nat) (t : Strand) : (s.setStrand i t).fabrics = s.fabrics := rfl
@[simp] theorem disabled_setStrand (s : State) (i : Nat) (t : Strand) : (s.setStrand i t).disabled = s.disabled := rfl
@[simp] theorem ports_setStrand (s : State) (i : Nat) (t : Strand) : (s.setStrand i t).ports = s.ports := rfl
@[simp] theorem config_setStrand (s : State) (i : Nat) (t : Strand) : (s.setStrand i t).config = s.config := rfl
@[simp] theorem minVersion_setStrand (s : State) (i : Nat) (t : Strand) : (s.setStrand i t).minVersion = s.minVersion := rfl
@[simp] theorem mrs_setStrand (s : State) (i : Nat) (t : Strand) : (s.setStrand i t).mrs = s.mrs := rfl
@[simp] theorem bootStage_setStrand (s : State) (i : Nat) (t : Strand) : (s.setStrand i t).bootStage = s.bootStage := rfl
@[simp] theorem recovery_setStrand (s : State) (i : Nat) (t : Strand) : (s.setStrand i t).recovery = s.recovery := rfl
@[simp] theorem configHash_setStrand (s : State) (i : Nat) (t : Strand) : (s.setStrand i t).configHash = s.configHash := rfl
@[simp] theorem bootHash_setStrand (s : State) (i : Nat) (t : Strand) : (s.setStrand i t).bootHash = s.bootHash := rfl
@[simp] theorem agenda_setStrand (s : State) (i : Nat) (t : Strand) : (s.setStrand i t).agenda = s.agenda := rfl
@[simp] theorem cur_setStrand (s : State) (i : Nat) (t : Strand) : (s.setStrand i t).cur = s.cur := rfl
@[simp] theorem curCore_setStrand (s : State) (i : Nat) (t : Strand) : (s.setStrand i t).curCore = s.curCore := rfl
@[simp] theorem freeCtr_setStrand (s : State) (i : Nat) (t : Strand) : (s.setStrand i t).freeCtr = s.freeCtr := rfl
@[simp] theorem nextBlock_setStrand (s : State) (i : Nat) (t : Strand) : (s.setStrand i t).nextBlock = s.nextBlock := rfl
@[simp] theorem nextId_setStrand (s : State) (i : Nat) (t : Strand) : (s.setStrand i t).nextId = s.nextId := rfl

/-! ### `setCore` -/

@[simp] theorem mem_setCore (s : State) (i : Nat) (t : Core) : (s.setCore i t).mem = s.mem := rfl
@[simp] theorem memPoison_setCore (s : State) (i : Nat) (t : Core) : (s.setCore i t).memPoison = s.memPoison := rfl
@[simp] theorem lineKey_setCore (s : State) (i : Nat) (t : Core) : (s.setCore i t).lineKey = s.lineKey := rfl
@[simp] theorem lineScope_setCore (s : State) (i : Nat) (t : Core) : (s.setCore i t).lineScope = s.lineScope := rfl
@[simp] theorem meshTime_setCore (s : State) (i : Nat) (t : Core) : (s.setCore i t).meshTime = s.meshTime := rfl
@[simp] theorem strands_setCore (s : State) (i : Nat) (t : Core) : (s.setCore i t).strands = s.strands := rfl
@[simp] theorem tiles_setCore (s : State) (i : Nat) (t : Core) : (s.setCore i t).tiles = s.tiles := rfl
@[simp] theorem dies_setCore (s : State) (i : Nat) (t : Core) : (s.setCore i t).dies = s.dies := rfl
@[simp] theorem partitions_setCore (s : State) (i : Nat) (t : Core) : (s.setCore i t).partitions = s.partitions := rfl
@[simp] theorem regions_setCore (s : State) (i : Nat) (t : Core) : (s.setCore i t).regions = s.regions := rfl
@[simp] theorem homeQ_setCore (s : State) (i : Nat) (t : Core) : (s.setCore i t).homeQ = s.homeQ := rfl
@[simp] theorem written_setCore (s : State) (i : Nat) (t : Core) : (s.setCore i t).written = s.written := rfl
@[simp] theorem launches_setCore (s : State) (i : Nat) (t : Core) : (s.setCore i t).launches = s.launches := rfl
@[simp] theorem msgs_setCore (s : State) (i : Nat) (t : Core) : (s.setCore i t).msgs = s.msgs := rfl
@[simp] theorem travs_setCore (s : State) (i : Nat) (t : Core) : (s.setCore i t).travs = s.travs := rfl
@[simp] theorem duals_setCore (s : State) (i : Nat) (t : Core) : (s.setCore i t).duals = s.duals := rfl
@[simp] theorem fixedRuns_setCore (s : State) (i : Nat) (t : Core) : (s.setCore i t).fixedRuns = s.fixedRuns := rfl
@[simp] theorem pageReqs_setCore (s : State) (i : Nat) (t : Core) : (s.setCore i t).pageReqs = s.pageReqs := rfl
@[simp] theorem ops_setCore (s : State) (i : Nat) (t : Core) : (s.setCore i t).ops = s.ops := rfl
@[simp] theorem linkUp_setCore (s : State) (i : Nat) (t : Core) : (s.setCore i t).linkUp = s.linkUp := rfl
@[simp] theorem hostOut_setCore (s : State) (i : Nat) (t : Core) : (s.setCore i t).hostOut = s.hostOut := rfl
@[simp] theorem waiting_setCore (s : State) (i : Nat) (t : Core) : (s.setCore i t).waiting = s.waiting := rfl
@[simp] theorem hostDropped_setCore (s : State) (i : Nat) (t : Core) : (s.setCore i t).hostDropped = s.hostDropped := rfl
@[simp] theorem portDropped_setCore (s : State) (i : Nat) (t : Core) : (s.setCore i t).portDropped = s.portDropped := rfl
@[simp] theorem fabricCount_setCore (s : State) (i : Nat) (t : Core) : (s.setCore i t).fabricCount = s.fabricCount := rfl
@[simp] theorem quotaEnd_setCore (s : State) (i : Nat) (t : Core) : (s.setCore i t).quotaEnd = s.quotaEnd := rfl
@[simp] theorem fabrics_setCore (s : State) (i : Nat) (t : Core) : (s.setCore i t).fabrics = s.fabrics := rfl
@[simp] theorem disabled_setCore (s : State) (i : Nat) (t : Core) : (s.setCore i t).disabled = s.disabled := rfl
@[simp] theorem ports_setCore (s : State) (i : Nat) (t : Core) : (s.setCore i t).ports = s.ports := rfl
@[simp] theorem config_setCore (s : State) (i : Nat) (t : Core) : (s.setCore i t).config = s.config := rfl
@[simp] theorem minVersion_setCore (s : State) (i : Nat) (t : Core) : (s.setCore i t).minVersion = s.minVersion := rfl
@[simp] theorem mrs_setCore (s : State) (i : Nat) (t : Core) : (s.setCore i t).mrs = s.mrs := rfl
@[simp] theorem bootStage_setCore (s : State) (i : Nat) (t : Core) : (s.setCore i t).bootStage = s.bootStage := rfl
@[simp] theorem recovery_setCore (s : State) (i : Nat) (t : Core) : (s.setCore i t).recovery = s.recovery := rfl
@[simp] theorem configHash_setCore (s : State) (i : Nat) (t : Core) : (s.setCore i t).configHash = s.configHash := rfl
@[simp] theorem bootHash_setCore (s : State) (i : Nat) (t : Core) : (s.setCore i t).bootHash = s.bootHash := rfl
@[simp] theorem agenda_setCore (s : State) (i : Nat) (t : Core) : (s.setCore i t).agenda = s.agenda := rfl
@[simp] theorem cur_setCore (s : State) (i : Nat) (t : Core) : (s.setCore i t).cur = s.cur := rfl
@[simp] theorem curCore_setCore (s : State) (i : Nat) (t : Core) : (s.setCore i t).curCore = s.curCore := rfl
@[simp] theorem freeCtr_setCore (s : State) (i : Nat) (t : Core) : (s.setCore i t).freeCtr = s.freeCtr := rfl
@[simp] theorem nextBlock_setCore (s : State) (i : Nat) (t : Core) : (s.setCore i t).nextBlock = s.nextBlock := rfl
@[simp] theorem nextId_setCore (s : State) (i : Nat) (t : Core) : (s.setCore i t).nextId = s.nextId := rfl

/-! ### `setTile` -/

@[simp] theorem mem_setTile (s : State) (i : Nat) (t : Tile) : (s.setTile i t).mem = s.mem := rfl
@[simp] theorem memPoison_setTile (s : State) (i : Nat) (t : Tile) : (s.setTile i t).memPoison = s.memPoison := rfl
@[simp] theorem lineKey_setTile (s : State) (i : Nat) (t : Tile) : (s.setTile i t).lineKey = s.lineKey := rfl
@[simp] theorem lineScope_setTile (s : State) (i : Nat) (t : Tile) : (s.setTile i t).lineScope = s.lineScope := rfl
@[simp] theorem meshTime_setTile (s : State) (i : Nat) (t : Tile) : (s.setTile i t).meshTime = s.meshTime := rfl
@[simp] theorem strands_setTile (s : State) (i : Nat) (t : Tile) : (s.setTile i t).strands = s.strands := rfl
@[simp] theorem cores_setTile (s : State) (i : Nat) (t : Tile) : (s.setTile i t).cores = s.cores := rfl
@[simp] theorem dies_setTile (s : State) (i : Nat) (t : Tile) : (s.setTile i t).dies = s.dies := rfl
@[simp] theorem partitions_setTile (s : State) (i : Nat) (t : Tile) : (s.setTile i t).partitions = s.partitions := rfl
@[simp] theorem regions_setTile (s : State) (i : Nat) (t : Tile) : (s.setTile i t).regions = s.regions := rfl
@[simp] theorem homeQ_setTile (s : State) (i : Nat) (t : Tile) : (s.setTile i t).homeQ = s.homeQ := rfl
@[simp] theorem written_setTile (s : State) (i : Nat) (t : Tile) : (s.setTile i t).written = s.written := rfl
@[simp] theorem launches_setTile (s : State) (i : Nat) (t : Tile) : (s.setTile i t).launches = s.launches := rfl
@[simp] theorem msgs_setTile (s : State) (i : Nat) (t : Tile) : (s.setTile i t).msgs = s.msgs := rfl
@[simp] theorem travs_setTile (s : State) (i : Nat) (t : Tile) : (s.setTile i t).travs = s.travs := rfl
@[simp] theorem duals_setTile (s : State) (i : Nat) (t : Tile) : (s.setTile i t).duals = s.duals := rfl
@[simp] theorem fixedRuns_setTile (s : State) (i : Nat) (t : Tile) : (s.setTile i t).fixedRuns = s.fixedRuns := rfl
@[simp] theorem pageReqs_setTile (s : State) (i : Nat) (t : Tile) : (s.setTile i t).pageReqs = s.pageReqs := rfl
@[simp] theorem ops_setTile (s : State) (i : Nat) (t : Tile) : (s.setTile i t).ops = s.ops := rfl
@[simp] theorem linkUp_setTile (s : State) (i : Nat) (t : Tile) : (s.setTile i t).linkUp = s.linkUp := rfl
@[simp] theorem hostOut_setTile (s : State) (i : Nat) (t : Tile) : (s.setTile i t).hostOut = s.hostOut := rfl
@[simp] theorem waiting_setTile (s : State) (i : Nat) (t : Tile) : (s.setTile i t).waiting = s.waiting := rfl
@[simp] theorem hostDropped_setTile (s : State) (i : Nat) (t : Tile) : (s.setTile i t).hostDropped = s.hostDropped := rfl
@[simp] theorem portDropped_setTile (s : State) (i : Nat) (t : Tile) : (s.setTile i t).portDropped = s.portDropped := rfl
@[simp] theorem fabricCount_setTile (s : State) (i : Nat) (t : Tile) : (s.setTile i t).fabricCount = s.fabricCount := rfl
@[simp] theorem quotaEnd_setTile (s : State) (i : Nat) (t : Tile) : (s.setTile i t).quotaEnd = s.quotaEnd := rfl
@[simp] theorem fabrics_setTile (s : State) (i : Nat) (t : Tile) : (s.setTile i t).fabrics = s.fabrics := rfl
@[simp] theorem disabled_setTile (s : State) (i : Nat) (t : Tile) : (s.setTile i t).disabled = s.disabled := rfl
@[simp] theorem ports_setTile (s : State) (i : Nat) (t : Tile) : (s.setTile i t).ports = s.ports := rfl
@[simp] theorem config_setTile (s : State) (i : Nat) (t : Tile) : (s.setTile i t).config = s.config := rfl
@[simp] theorem minVersion_setTile (s : State) (i : Nat) (t : Tile) : (s.setTile i t).minVersion = s.minVersion := rfl
@[simp] theorem mrs_setTile (s : State) (i : Nat) (t : Tile) : (s.setTile i t).mrs = s.mrs := rfl
@[simp] theorem bootStage_setTile (s : State) (i : Nat) (t : Tile) : (s.setTile i t).bootStage = s.bootStage := rfl
@[simp] theorem recovery_setTile (s : State) (i : Nat) (t : Tile) : (s.setTile i t).recovery = s.recovery := rfl
@[simp] theorem configHash_setTile (s : State) (i : Nat) (t : Tile) : (s.setTile i t).configHash = s.configHash := rfl
@[simp] theorem bootHash_setTile (s : State) (i : Nat) (t : Tile) : (s.setTile i t).bootHash = s.bootHash := rfl
@[simp] theorem agenda_setTile (s : State) (i : Nat) (t : Tile) : (s.setTile i t).agenda = s.agenda := rfl
@[simp] theorem cur_setTile (s : State) (i : Nat) (t : Tile) : (s.setTile i t).cur = s.cur := rfl
@[simp] theorem curCore_setTile (s : State) (i : Nat) (t : Tile) : (s.setTile i t).curCore = s.curCore := rfl
@[simp] theorem freeCtr_setTile (s : State) (i : Nat) (t : Tile) : (s.setTile i t).freeCtr = s.freeCtr := rfl
@[simp] theorem nextBlock_setTile (s : State) (i : Nat) (t : Tile) : (s.setTile i t).nextBlock = s.nextBlock := rfl
@[simp] theorem nextId_setTile (s : State) (i : Nat) (t : Tile) : (s.setTile i t).nextId = s.nextId := rfl

/-! ### `setDie` -/

@[simp] theorem mem_setDie (s : State) (i : Nat) (t : Die) : (s.setDie i t).mem = s.mem := rfl
@[simp] theorem memPoison_setDie (s : State) (i : Nat) (t : Die) : (s.setDie i t).memPoison = s.memPoison := rfl
@[simp] theorem lineKey_setDie (s : State) (i : Nat) (t : Die) : (s.setDie i t).lineKey = s.lineKey := rfl
@[simp] theorem lineScope_setDie (s : State) (i : Nat) (t : Die) : (s.setDie i t).lineScope = s.lineScope := rfl
@[simp] theorem meshTime_setDie (s : State) (i : Nat) (t : Die) : (s.setDie i t).meshTime = s.meshTime := rfl
@[simp] theorem strands_setDie (s : State) (i : Nat) (t : Die) : (s.setDie i t).strands = s.strands := rfl
@[simp] theorem cores_setDie (s : State) (i : Nat) (t : Die) : (s.setDie i t).cores = s.cores := rfl
@[simp] theorem tiles_setDie (s : State) (i : Nat) (t : Die) : (s.setDie i t).tiles = s.tiles := rfl
@[simp] theorem partitions_setDie (s : State) (i : Nat) (t : Die) : (s.setDie i t).partitions = s.partitions := rfl
@[simp] theorem regions_setDie (s : State) (i : Nat) (t : Die) : (s.setDie i t).regions = s.regions := rfl
@[simp] theorem homeQ_setDie (s : State) (i : Nat) (t : Die) : (s.setDie i t).homeQ = s.homeQ := rfl
@[simp] theorem written_setDie (s : State) (i : Nat) (t : Die) : (s.setDie i t).written = s.written := rfl
@[simp] theorem launches_setDie (s : State) (i : Nat) (t : Die) : (s.setDie i t).launches = s.launches := rfl
@[simp] theorem msgs_setDie (s : State) (i : Nat) (t : Die) : (s.setDie i t).msgs = s.msgs := rfl
@[simp] theorem travs_setDie (s : State) (i : Nat) (t : Die) : (s.setDie i t).travs = s.travs := rfl
@[simp] theorem duals_setDie (s : State) (i : Nat) (t : Die) : (s.setDie i t).duals = s.duals := rfl
@[simp] theorem fixedRuns_setDie (s : State) (i : Nat) (t : Die) : (s.setDie i t).fixedRuns = s.fixedRuns := rfl
@[simp] theorem pageReqs_setDie (s : State) (i : Nat) (t : Die) : (s.setDie i t).pageReqs = s.pageReqs := rfl
@[simp] theorem ops_setDie (s : State) (i : Nat) (t : Die) : (s.setDie i t).ops = s.ops := rfl
@[simp] theorem linkUp_setDie (s : State) (i : Nat) (t : Die) : (s.setDie i t).linkUp = s.linkUp := rfl
@[simp] theorem hostOut_setDie (s : State) (i : Nat) (t : Die) : (s.setDie i t).hostOut = s.hostOut := rfl
@[simp] theorem waiting_setDie (s : State) (i : Nat) (t : Die) : (s.setDie i t).waiting = s.waiting := rfl
@[simp] theorem hostDropped_setDie (s : State) (i : Nat) (t : Die) : (s.setDie i t).hostDropped = s.hostDropped := rfl
@[simp] theorem portDropped_setDie (s : State) (i : Nat) (t : Die) : (s.setDie i t).portDropped = s.portDropped := rfl
@[simp] theorem fabricCount_setDie (s : State) (i : Nat) (t : Die) : (s.setDie i t).fabricCount = s.fabricCount := rfl
@[simp] theorem quotaEnd_setDie (s : State) (i : Nat) (t : Die) : (s.setDie i t).quotaEnd = s.quotaEnd := rfl
@[simp] theorem fabrics_setDie (s : State) (i : Nat) (t : Die) : (s.setDie i t).fabrics = s.fabrics := rfl
@[simp] theorem disabled_setDie (s : State) (i : Nat) (t : Die) : (s.setDie i t).disabled = s.disabled := rfl
@[simp] theorem ports_setDie (s : State) (i : Nat) (t : Die) : (s.setDie i t).ports = s.ports := rfl
@[simp] theorem config_setDie (s : State) (i : Nat) (t : Die) : (s.setDie i t).config = s.config := rfl
@[simp] theorem minVersion_setDie (s : State) (i : Nat) (t : Die) : (s.setDie i t).minVersion = s.minVersion := rfl
@[simp] theorem mrs_setDie (s : State) (i : Nat) (t : Die) : (s.setDie i t).mrs = s.mrs := rfl
@[simp] theorem bootStage_setDie (s : State) (i : Nat) (t : Die) : (s.setDie i t).bootStage = s.bootStage := rfl
@[simp] theorem recovery_setDie (s : State) (i : Nat) (t : Die) : (s.setDie i t).recovery = s.recovery := rfl
@[simp] theorem configHash_setDie (s : State) (i : Nat) (t : Die) : (s.setDie i t).configHash = s.configHash := rfl
@[simp] theorem bootHash_setDie (s : State) (i : Nat) (t : Die) : (s.setDie i t).bootHash = s.bootHash := rfl
@[simp] theorem agenda_setDie (s : State) (i : Nat) (t : Die) : (s.setDie i t).agenda = s.agenda := rfl
@[simp] theorem cur_setDie (s : State) (i : Nat) (t : Die) : (s.setDie i t).cur = s.cur := rfl
@[simp] theorem curCore_setDie (s : State) (i : Nat) (t : Die) : (s.setDie i t).curCore = s.curCore := rfl
@[simp] theorem freeCtr_setDie (s : State) (i : Nat) (t : Die) : (s.setDie i t).freeCtr = s.freeCtr := rfl
@[simp] theorem nextBlock_setDie (s : State) (i : Nat) (t : Die) : (s.setDie i t).nextBlock = s.nextBlock := rfl
@[simp] theorem nextId_setDie (s : State) (i : Nat) (t : Die) : (s.setDie i t).nextId = s.nextId := rfl

/-! ### `setRegion` -/

@[simp] theorem mem_setRegion (s : State) (i : Nat) (t : Region) : (s.setRegion i t).mem = s.mem := rfl
@[simp] theorem memPoison_setRegion (s : State) (i : Nat) (t : Region) : (s.setRegion i t).memPoison = s.memPoison := rfl
@[simp] theorem lineKey_setRegion (s : State) (i : Nat) (t : Region) : (s.setRegion i t).lineKey = s.lineKey := rfl
@[simp] theorem lineScope_setRegion (s : State) (i : Nat) (t : Region) : (s.setRegion i t).lineScope = s.lineScope := rfl
@[simp] theorem meshTime_setRegion (s : State) (i : Nat) (t : Region) : (s.setRegion i t).meshTime = s.meshTime := rfl
@[simp] theorem strands_setRegion (s : State) (i : Nat) (t : Region) : (s.setRegion i t).strands = s.strands := rfl
@[simp] theorem cores_setRegion (s : State) (i : Nat) (t : Region) : (s.setRegion i t).cores = s.cores := rfl
@[simp] theorem tiles_setRegion (s : State) (i : Nat) (t : Region) : (s.setRegion i t).tiles = s.tiles := rfl
@[simp] theorem dies_setRegion (s : State) (i : Nat) (t : Region) : (s.setRegion i t).dies = s.dies := rfl
@[simp] theorem partitions_setRegion (s : State) (i : Nat) (t : Region) : (s.setRegion i t).partitions = s.partitions := rfl
@[simp] theorem homeQ_setRegion (s : State) (i : Nat) (t : Region) : (s.setRegion i t).homeQ = s.homeQ := rfl
@[simp] theorem written_setRegion (s : State) (i : Nat) (t : Region) : (s.setRegion i t).written = s.written := rfl
@[simp] theorem launches_setRegion (s : State) (i : Nat) (t : Region) : (s.setRegion i t).launches = s.launches := rfl
@[simp] theorem msgs_setRegion (s : State) (i : Nat) (t : Region) : (s.setRegion i t).msgs = s.msgs := rfl
@[simp] theorem travs_setRegion (s : State) (i : Nat) (t : Region) : (s.setRegion i t).travs = s.travs := rfl
@[simp] theorem duals_setRegion (s : State) (i : Nat) (t : Region) : (s.setRegion i t).duals = s.duals := rfl
@[simp] theorem fixedRuns_setRegion (s : State) (i : Nat) (t : Region) : (s.setRegion i t).fixedRuns = s.fixedRuns := rfl
@[simp] theorem pageReqs_setRegion (s : State) (i : Nat) (t : Region) : (s.setRegion i t).pageReqs = s.pageReqs := rfl
@[simp] theorem ops_setRegion (s : State) (i : Nat) (t : Region) : (s.setRegion i t).ops = s.ops := rfl
@[simp] theorem linkUp_setRegion (s : State) (i : Nat) (t : Region) : (s.setRegion i t).linkUp = s.linkUp := rfl
@[simp] theorem hostOut_setRegion (s : State) (i : Nat) (t : Region) : (s.setRegion i t).hostOut = s.hostOut := rfl
@[simp] theorem waiting_setRegion (s : State) (i : Nat) (t : Region) : (s.setRegion i t).waiting = s.waiting := rfl
@[simp] theorem hostDropped_setRegion (s : State) (i : Nat) (t : Region) : (s.setRegion i t).hostDropped = s.hostDropped := rfl
@[simp] theorem portDropped_setRegion (s : State) (i : Nat) (t : Region) : (s.setRegion i t).portDropped = s.portDropped := rfl
@[simp] theorem fabricCount_setRegion (s : State) (i : Nat) (t : Region) : (s.setRegion i t).fabricCount = s.fabricCount := rfl
@[simp] theorem quotaEnd_setRegion (s : State) (i : Nat) (t : Region) : (s.setRegion i t).quotaEnd = s.quotaEnd := rfl
@[simp] theorem fabrics_setRegion (s : State) (i : Nat) (t : Region) : (s.setRegion i t).fabrics = s.fabrics := rfl
@[simp] theorem disabled_setRegion (s : State) (i : Nat) (t : Region) : (s.setRegion i t).disabled = s.disabled := rfl
@[simp] theorem ports_setRegion (s : State) (i : Nat) (t : Region) : (s.setRegion i t).ports = s.ports := rfl
@[simp] theorem config_setRegion (s : State) (i : Nat) (t : Region) : (s.setRegion i t).config = s.config := rfl
@[simp] theorem minVersion_setRegion (s : State) (i : Nat) (t : Region) : (s.setRegion i t).minVersion = s.minVersion := rfl
@[simp] theorem mrs_setRegion (s : State) (i : Nat) (t : Region) : (s.setRegion i t).mrs = s.mrs := rfl
@[simp] theorem bootStage_setRegion (s : State) (i : Nat) (t : Region) : (s.setRegion i t).bootStage = s.bootStage := rfl
@[simp] theorem recovery_setRegion (s : State) (i : Nat) (t : Region) : (s.setRegion i t).recovery = s.recovery := rfl
@[simp] theorem configHash_setRegion (s : State) (i : Nat) (t : Region) : (s.setRegion i t).configHash = s.configHash := rfl
@[simp] theorem bootHash_setRegion (s : State) (i : Nat) (t : Region) : (s.setRegion i t).bootHash = s.bootHash := rfl
@[simp] theorem agenda_setRegion (s : State) (i : Nat) (t : Region) : (s.setRegion i t).agenda = s.agenda := rfl
@[simp] theorem cur_setRegion (s : State) (i : Nat) (t : Region) : (s.setRegion i t).cur = s.cur := rfl
@[simp] theorem curCore_setRegion (s : State) (i : Nat) (t : Region) : (s.setRegion i t).curCore = s.curCore := rfl
@[simp] theorem freeCtr_setRegion (s : State) (i : Nat) (t : Region) : (s.setRegion i t).freeCtr = s.freeCtr := rfl
@[simp] theorem nextBlock_setRegion (s : State) (i : Nat) (t : Region) : (s.setRegion i t).nextBlock = s.nextBlock := rfl
@[simp] theorem nextId_setRegion (s : State) (i : Nat) (t : Region) : (s.setRegion i t).nextId = s.nextId := rfl

/-! ### `setPartition` -/

@[simp] theorem mem_setPartition (s : State) (i : Nat) (t : Partition) : (s.setPartition i t).mem = s.mem := rfl
@[simp] theorem memPoison_setPartition (s : State) (i : Nat) (t : Partition) : (s.setPartition i t).memPoison = s.memPoison := rfl
@[simp] theorem lineKey_setPartition (s : State) (i : Nat) (t : Partition) : (s.setPartition i t).lineKey = s.lineKey := rfl
@[simp] theorem lineScope_setPartition (s : State) (i : Nat) (t : Partition) : (s.setPartition i t).lineScope = s.lineScope := rfl
@[simp] theorem meshTime_setPartition (s : State) (i : Nat) (t : Partition) : (s.setPartition i t).meshTime = s.meshTime := rfl
@[simp] theorem strands_setPartition (s : State) (i : Nat) (t : Partition) : (s.setPartition i t).strands = s.strands := rfl
@[simp] theorem cores_setPartition (s : State) (i : Nat) (t : Partition) : (s.setPartition i t).cores = s.cores := rfl
@[simp] theorem tiles_setPartition (s : State) (i : Nat) (t : Partition) : (s.setPartition i t).tiles = s.tiles := rfl
@[simp] theorem dies_setPartition (s : State) (i : Nat) (t : Partition) : (s.setPartition i t).dies = s.dies := rfl
@[simp] theorem regions_setPartition (s : State) (i : Nat) (t : Partition) : (s.setPartition i t).regions = s.regions := rfl
@[simp] theorem homeQ_setPartition (s : State) (i : Nat) (t : Partition) : (s.setPartition i t).homeQ = s.homeQ := rfl
@[simp] theorem written_setPartition (s : State) (i : Nat) (t : Partition) : (s.setPartition i t).written = s.written := rfl
@[simp] theorem launches_setPartition (s : State) (i : Nat) (t : Partition) : (s.setPartition i t).launches = s.launches := rfl
@[simp] theorem msgs_setPartition (s : State) (i : Nat) (t : Partition) : (s.setPartition i t).msgs = s.msgs := rfl
@[simp] theorem travs_setPartition (s : State) (i : Nat) (t : Partition) : (s.setPartition i t).travs = s.travs := rfl
@[simp] theorem duals_setPartition (s : State) (i : Nat) (t : Partition) : (s.setPartition i t).duals = s.duals := rfl
@[simp] theorem fixedRuns_setPartition (s : State) (i : Nat) (t : Partition) : (s.setPartition i t).fixedRuns = s.fixedRuns := rfl
@[simp] theorem pageReqs_setPartition (s : State) (i : Nat) (t : Partition) : (s.setPartition i t).pageReqs = s.pageReqs := rfl
@[simp] theorem ops_setPartition (s : State) (i : Nat) (t : Partition) : (s.setPartition i t).ops = s.ops := rfl
@[simp] theorem linkUp_setPartition (s : State) (i : Nat) (t : Partition) : (s.setPartition i t).linkUp = s.linkUp := rfl
@[simp] theorem hostOut_setPartition (s : State) (i : Nat) (t : Partition) : (s.setPartition i t).hostOut = s.hostOut := rfl
@[simp] theorem waiting_setPartition (s : State) (i : Nat) (t : Partition) : (s.setPartition i t).waiting = s.waiting := rfl
@[simp] theorem hostDropped_setPartition (s : State) (i : Nat) (t : Partition) : (s.setPartition i t).hostDropped = s.hostDropped := rfl
@[simp] theorem portDropped_setPartition (s : State) (i : Nat) (t : Partition) : (s.setPartition i t).portDropped = s.portDropped := rfl
@[simp] theorem fabricCount_setPartition (s : State) (i : Nat) (t : Partition) : (s.setPartition i t).fabricCount = s.fabricCount := rfl
@[simp] theorem quotaEnd_setPartition (s : State) (i : Nat) (t : Partition) : (s.setPartition i t).quotaEnd = s.quotaEnd := rfl
@[simp] theorem fabrics_setPartition (s : State) (i : Nat) (t : Partition) : (s.setPartition i t).fabrics = s.fabrics := rfl
@[simp] theorem disabled_setPartition (s : State) (i : Nat) (t : Partition) : (s.setPartition i t).disabled = s.disabled := rfl
@[simp] theorem ports_setPartition (s : State) (i : Nat) (t : Partition) : (s.setPartition i t).ports = s.ports := rfl
@[simp] theorem config_setPartition (s : State) (i : Nat) (t : Partition) : (s.setPartition i t).config = s.config := rfl
@[simp] theorem minVersion_setPartition (s : State) (i : Nat) (t : Partition) : (s.setPartition i t).minVersion = s.minVersion := rfl
@[simp] theorem mrs_setPartition (s : State) (i : Nat) (t : Partition) : (s.setPartition i t).mrs = s.mrs := rfl
@[simp] theorem bootStage_setPartition (s : State) (i : Nat) (t : Partition) : (s.setPartition i t).bootStage = s.bootStage := rfl
@[simp] theorem recovery_setPartition (s : State) (i : Nat) (t : Partition) : (s.setPartition i t).recovery = s.recovery := rfl
@[simp] theorem configHash_setPartition (s : State) (i : Nat) (t : Partition) : (s.setPartition i t).configHash = s.configHash := rfl
@[simp] theorem bootHash_setPartition (s : State) (i : Nat) (t : Partition) : (s.setPartition i t).bootHash = s.bootHash := rfl
@[simp] theorem agenda_setPartition (s : State) (i : Nat) (t : Partition) : (s.setPartition i t).agenda = s.agenda := rfl
@[simp] theorem cur_setPartition (s : State) (i : Nat) (t : Partition) : (s.setPartition i t).cur = s.cur := rfl
@[simp] theorem curCore_setPartition (s : State) (i : Nat) (t : Partition) : (s.setPartition i t).curCore = s.curCore := rfl
@[simp] theorem freeCtr_setPartition (s : State) (i : Nat) (t : Partition) : (s.setPartition i t).freeCtr = s.freeCtr := rfl
@[simp] theorem nextBlock_setPartition (s : State) (i : Nat) (t : Partition) : (s.setPartition i t).nextBlock = s.nextBlock := rfl
@[simp] theorem nextId_setPartition (s : State) (i : Nat) (t : Partition) : (s.setPartition i t).nextId = s.nextId := rfl

/-! ### The current strand -/

@[simp] theorem mem_onMe (s : State) (f : Strand → Strand) : (s.onMe f).mem = s.mem := rfl
@[simp] theorem memPoison_onMe (s : State) (f : Strand → Strand) : (s.onMe f).memPoison = s.memPoison := rfl
@[simp] theorem lineKey_onMe (s : State) (f : Strand → Strand) : (s.onMe f).lineKey = s.lineKey := rfl
@[simp] theorem lineScope_onMe (s : State) (f : Strand → Strand) : (s.onMe f).lineScope = s.lineScope := rfl
@[simp] theorem meshTime_onMe (s : State) (f : Strand → Strand) : (s.onMe f).meshTime = s.meshTime := rfl
@[simp] theorem cores_onMe (s : State) (f : Strand → Strand) : (s.onMe f).cores = s.cores := rfl
@[simp] theorem tiles_onMe (s : State) (f : Strand → Strand) : (s.onMe f).tiles = s.tiles := rfl
@[simp] theorem dies_onMe (s : State) (f : Strand → Strand) : (s.onMe f).dies = s.dies := rfl
@[simp] theorem partitions_onMe (s : State) (f : Strand → Strand) : (s.onMe f).partitions = s.partitions := rfl
@[simp] theorem regions_onMe (s : State) (f : Strand → Strand) : (s.onMe f).regions = s.regions := rfl
@[simp] theorem homeQ_onMe (s : State) (f : Strand → Strand) : (s.onMe f).homeQ = s.homeQ := rfl
@[simp] theorem written_onMe (s : State) (f : Strand → Strand) : (s.onMe f).written = s.written := rfl
@[simp] theorem launches_onMe (s : State) (f : Strand → Strand) : (s.onMe f).launches = s.launches := rfl
@[simp] theorem msgs_onMe (s : State) (f : Strand → Strand) : (s.onMe f).msgs = s.msgs := rfl
@[simp] theorem travs_onMe (s : State) (f : Strand → Strand) : (s.onMe f).travs = s.travs := rfl
@[simp] theorem duals_onMe (s : State) (f : Strand → Strand) : (s.onMe f).duals = s.duals := rfl
@[simp] theorem fixedRuns_onMe (s : State) (f : Strand → Strand) : (s.onMe f).fixedRuns = s.fixedRuns := rfl
@[simp] theorem pageReqs_onMe (s : State) (f : Strand → Strand) : (s.onMe f).pageReqs = s.pageReqs := rfl
@[simp] theorem ops_onMe (s : State) (f : Strand → Strand) : (s.onMe f).ops = s.ops := rfl
@[simp] theorem linkUp_onMe (s : State) (f : Strand → Strand) : (s.onMe f).linkUp = s.linkUp := rfl
@[simp] theorem hostOut_onMe (s : State) (f : Strand → Strand) : (s.onMe f).hostOut = s.hostOut := rfl
@[simp] theorem waiting_onMe (s : State) (f : Strand → Strand) : (s.onMe f).waiting = s.waiting := rfl
@[simp] theorem hostDropped_onMe (s : State) (f : Strand → Strand) : (s.onMe f).hostDropped = s.hostDropped := rfl
@[simp] theorem portDropped_onMe (s : State) (f : Strand → Strand) : (s.onMe f).portDropped = s.portDropped := rfl
@[simp] theorem fabricCount_onMe (s : State) (f : Strand → Strand) : (s.onMe f).fabricCount = s.fabricCount := rfl
@[simp] theorem quotaEnd_onMe (s : State) (f : Strand → Strand) : (s.onMe f).quotaEnd = s.quotaEnd := rfl
@[simp] theorem fabrics_onMe (s : State) (f : Strand → Strand) : (s.onMe f).fabrics = s.fabrics := rfl
@[simp] theorem disabled_onMe (s : State) (f : Strand → Strand) : (s.onMe f).disabled = s.disabled := rfl
@[simp] theorem ports_onMe (s : State) (f : Strand → Strand) : (s.onMe f).ports = s.ports := rfl
@[simp] theorem config_onMe (s : State) (f : Strand → Strand) : (s.onMe f).config = s.config := rfl
@[simp] theorem minVersion_onMe (s : State) (f : Strand → Strand) : (s.onMe f).minVersion = s.minVersion := rfl
@[simp] theorem mrs_onMe (s : State) (f : Strand → Strand) : (s.onMe f).mrs = s.mrs := rfl
@[simp] theorem bootStage_onMe (s : State) (f : Strand → Strand) : (s.onMe f).bootStage = s.bootStage := rfl
@[simp] theorem recovery_onMe (s : State) (f : Strand → Strand) : (s.onMe f).recovery = s.recovery := rfl
@[simp] theorem configHash_onMe (s : State) (f : Strand → Strand) : (s.onMe f).configHash = s.configHash := rfl
@[simp] theorem bootHash_onMe (s : State) (f : Strand → Strand) : (s.onMe f).bootHash = s.bootHash := rfl
@[simp] theorem agenda_onMe (s : State) (f : Strand → Strand) : (s.onMe f).agenda = s.agenda := rfl
@[simp] theorem curCore_onMe (s : State) (f : Strand → Strand) : (s.onMe f).curCore = s.curCore := rfl
@[simp] theorem freeCtr_onMe (s : State) (f : Strand → Strand) : (s.onMe f).freeCtr = s.freeCtr := rfl
@[simp] theorem nextBlock_onMe (s : State) (f : Strand → Strand) : (s.onMe f).nextBlock = s.nextBlock := rfl
@[simp] theorem nextId_onMe (s : State) (f : Strand → Strand) : (s.onMe f).nextId = s.nextId := rfl

/-! ### Registers of a strand -/

@[simp] theorem s_clearPfx (t : Strand) : t.clearPfx.s = t.s := rfl
@[simp] theorem v_clearPfx (t : Strand) : t.clearPfx.v = t.v := rfl
@[simp] theorem p_clearPfx (t : Strand) : t.clearPfx.p = t.p := rfl
@[simp] theorem a_clearPfx (t : Strand) : t.clearPfx.a = t.a := rfl
@[simp] theorem k_clearPfx (t : Strand) : t.clearPfx.k = t.k := rfl
@[simp] theorem sMark_clearPfx (t : Strand) : t.clearPfx.sMark = t.sMark := rfl
@[simp] theorem vMark_clearPfx (t : Strand) : t.clearPfx.vMark = t.vMark := rfl
@[simp] theorem pMark_clearPfx (t : Strand) : t.clearPfx.pMark = t.pMark := rfl
@[simp] theorem aMark_clearPfx (t : Strand) : t.clearPfx.aMark = t.aMark := rfl
@[simp] theorem aErr_clearPfx (t : Strand) : t.clearPfx.aErr = t.aErr := rfl
@[simp] theorem kMark_clearPfx (t : Strand) : t.clearPfx.kMark = t.kMark := rfl
@[simp] theorem pc_clearPfx (t : Strand) : t.clearPfx.pc = t.pc := rfl
@[simp] theorem groupPc_clearPfx (t : Strand) : t.clearPfx.groupPc = t.groupPc := rfl
@[simp] theorem epc_clearPfx (t : Strand) : t.clearPfx.epc = t.epc := rfl
@[simp] theorem ecause_clearPfx (t : Strand) : t.clearPfx.ecause = t.ecause := rfl
@[simp] theorem edetail_clearPfx (t : Strand) : t.clearPfx.edetail = t.edetail := rfl
@[simp] theorem ests_clearPfx (t : Strand) : t.clearPfx.ests = t.ests := rfl
@[simp] theorem kscratch_clearPfx (t : Strand) : t.clearPfx.kscratch = t.kscratch := rfl
@[simp] theorem svsts_clearPfx (t : Strand) : t.clearPfx.svsts = t.svsts := rfl
@[simp] theorem regstat_clearPfx (t : Strand) : t.clearPfx.regstat = t.regstat := rfl
@[simp] theorem stackbase_clearPfx (t : Strand) : t.clearPfx.stackbase = t.stackbase := rfl
@[simp] theorem cycles_clearPfx (t : Strand) : t.clearPfx.cycles = t.cycles := rfl
@[simp] theorem smiss_clearPfx (t : Strand) : t.clearPfx.smiss = t.smiss := rfl
@[simp] theorem spadOut_clearPfx (t : Strand) : t.clearPfx.spadOut = t.spadOut := rfl
@[simp] theorem ahead_clearPfx (t : Strand) : t.clearPfx.ahead = t.ahead := rfl
@[simp] theorem seen_clearPfx (t : Strand) : t.clearPfx.seen = t.seen := rfl
@[simp] theorem inCheck_clearPfx (t : Strand) : t.clearPfx.inCheck = t.inCheck := rfl
@[simp] theorem pendS_clearPfx (t : Strand) : t.clearPfx.pendS = t.pendS := rfl
@[simp] theorem pendV_clearPfx (t : Strand) : t.clearPfx.pendV = t.pendV := rfl
@[simp] theorem pendK_clearPfx (t : Strand) : t.clearPfx.pendK = t.pendK := rfl
@[simp] theorem loads_clearPfx (t : Strand) : t.clearPfx.loads = t.loads := rfl
@[simp] theorem buf_clearPfx (t : Strand) : t.clearPfx.buf = t.buf := rfl
@[simp] theorem closed_clearPfx (t : Strand) : t.clearPfx.closed = t.closed := rfl
@[simp] theorem effects_clearPfx (t : Strand) : t.clearPfx.effects = t.effects := rfl
@[simp] theorem deferred_clearPfx (t : Strand) : t.clearPfx.deferred = t.deferred := rfl
@[simp] theorem records_clearPfx (t : Strand) : t.clearPfx.records = t.records := rfl
@[simp] theorem joins_clearPfx (t : Strand) : t.clearPfx.joins = t.joins := rfl
@[simp] theorem undo_clearPfx (t : Strand) : t.clearPfx.undo = t.undo := rfl
@[simp] theorem counts_clearPfx (t : Strand) : t.clearPfx.counts = t.counts := rfl
@[simp] theorem wait_clearPfx (t : Strand) : t.clearPfx.wait = t.wait := rfl
@[simp] theorem task_clearPfx (t : Strand) : t.clearPfx.task = t.task := rfl
@[simp] theorem rid_clearPfx (t : Strand) : t.clearPfx.rid = t.rid := rfl
@[simp] theorem taskNo_clearPfx (t : Strand) : t.clearPfx.taskNo = t.taskNo := rfl
@[simp] theorem svIrrev_clearPfx (t : Strand) : t.clearPfx.svIrrev = t.svIrrev := rfl
@[simp] theorem verdictGiven_clearPfx (t : Strand) : t.clearPfx.verdictGiven = t.verdictGiven := rfl
@[simp] theorem dual_clearPfx (t : Strand) : t.clearPfx.dual = t.dual := rfl
@[simp] theorem saved_clearPfx (t : Strand) : t.clearPfx.saved = t.saved := rfl
@[simp] theorem s_retire (t : Strand) : t.retire.s = t.s := rfl
@[simp] theorem v_retire (t : Strand) : t.retire.v = t.v := rfl
@[simp] theorem p_retire (t : Strand) : t.retire.p = t.p := rfl
@[simp] theorem a_retire (t : Strand) : t.retire.a = t.a := rfl
@[simp] theorem k_retire (t : Strand) : t.retire.k = t.k := rfl
@[simp] theorem sMark_retire (t : Strand) : t.retire.sMark = t.sMark := rfl
@[simp] theorem vMark_retire (t : Strand) : t.retire.vMark = t.vMark := rfl
@[simp] theorem pMark_retire (t : Strand) : t.retire.pMark = t.pMark := rfl
@[simp] theorem aMark_retire (t : Strand) : t.retire.aMark = t.aMark := rfl
@[simp] theorem aErr_retire (t : Strand) : t.retire.aErr = t.aErr := rfl
@[simp] theorem kMark_retire (t : Strand) : t.retire.kMark = t.kMark := rfl
@[simp] theorem groupPc_retire (t : Strand) : t.retire.groupPc = t.groupPc := rfl
@[simp] theorem epc_retire (t : Strand) : t.retire.epc = t.epc := rfl
@[simp] theorem ecause_retire (t : Strand) : t.retire.ecause = t.ecause := rfl
@[simp] theorem edetail_retire (t : Strand) : t.retire.edetail = t.edetail := rfl
@[simp] theorem ests_retire (t : Strand) : t.retire.ests = t.ests := rfl
@[simp] theorem kscratch_retire (t : Strand) : t.retire.kscratch = t.kscratch := rfl
@[simp] theorem svsts_retire (t : Strand) : t.retire.svsts = t.svsts := rfl
@[simp] theorem regstat_retire (t : Strand) : t.retire.regstat = t.regstat := rfl
@[simp] theorem stackbase_retire (t : Strand) : t.retire.stackbase = t.stackbase := rfl
@[simp] theorem cycles_retire (t : Strand) : t.retire.cycles = t.cycles := rfl
@[simp] theorem smiss_retire (t : Strand) : t.retire.smiss = t.smiss := rfl
@[simp] theorem spadOut_retire (t : Strand) : t.retire.spadOut = t.spadOut := rfl
@[simp] theorem ahead_retire (t : Strand) : t.retire.ahead = t.ahead := rfl
@[simp] theorem seen_retire (t : Strand) : t.retire.seen = t.seen := rfl
@[simp] theorem inCheck_retire (t : Strand) : t.retire.inCheck = t.inCheck := rfl
@[simp] theorem pendS_retire (t : Strand) : t.retire.pendS = t.pendS := rfl
@[simp] theorem pendV_retire (t : Strand) : t.retire.pendV = t.pendV := rfl
@[simp] theorem pendK_retire (t : Strand) : t.retire.pendK = t.pendK := rfl
@[simp] theorem loads_retire (t : Strand) : t.retire.loads = t.loads := rfl
@[simp] theorem buf_retire (t : Strand) : t.retire.buf = t.buf := rfl
@[simp] theorem closed_retire (t : Strand) : t.retire.closed = t.closed := rfl
@[simp] theorem effects_retire (t : Strand) : t.retire.effects = t.effects := rfl
@[simp] theorem deferred_retire (t : Strand) : t.retire.deferred = t.deferred := rfl
@[simp] theorem records_retire (t : Strand) : t.retire.records = t.records := rfl
@[simp] theorem joins_retire (t : Strand) : t.retire.joins = t.joins := rfl
@[simp] theorem undo_retire (t : Strand) : t.retire.undo = t.undo := rfl
@[simp] theorem counts_retire (t : Strand) : t.retire.counts = t.counts := rfl
@[simp] theorem wait_retire (t : Strand) : t.retire.wait = t.wait := rfl
@[simp] theorem task_retire (t : Strand) : t.retire.task = t.task := rfl
@[simp] theorem rid_retire (t : Strand) : t.retire.rid = t.rid := rfl
@[simp] theorem taskNo_retire (t : Strand) : t.retire.taskNo = t.taskNo := rfl
@[simp] theorem svIrrev_retire (t : Strand) : t.retire.svIrrev = t.svIrrev := rfl
@[simp] theorem verdictGiven_retire (t : Strand) : t.retire.verdictGiven = t.verdictGiven := rfl
@[simp] theorem dual_retire (t : Strand) : t.retire.dual = t.dual := rfl
@[simp] theorem saved_retire (t : Strand) : t.retire.saved = t.saved := rfl
@[simp] theorem pc_retire (t : Strand) : t.retire.pc = t.pc + 4 := rfl
@[simp] theorem pfxr_retire (t : Strand) : t.retire.pfxr = 0 := rfl
@[simp] theorem pfxr_clearPfx (t : Strand) : t.clearPfx.pfxr = 0 := rfl

@[simp] theorem v_wr (t : Strand) (r : SReg) (x : Word) (m : Bool) : (t.wr r x m).v = t.v := by unfold Strand.wr; split <;> rfl
@[simp] theorem p_wr (t : Strand) (r : SReg) (x : Word) (m : Bool) : (t.wr r x m).p = t.p := by unfold Strand.wr; split <;> rfl
@[simp] theorem a_wr (t : Strand) (r : SReg) (x : Word) (m : Bool) : (t.wr r x m).a = t.a := by unfold Strand.wr; split <;> rfl
@[simp] theorem k_wr (t : Strand) (r : SReg) (x : Word) (m : Bool) : (t.wr r x m).k = t.k := by unfold Strand.wr; split <;> rfl
@[simp] theorem vMark_wr (t : Strand) (r : SReg) (x : Word) (m : Bool) : (t.wr r x m).vMark = t.vMark := by unfold Strand.wr; split <;> rfl
@[simp] theorem pMark_wr (t : Strand) (r : SReg) (x : Word) (m : Bool) : (t.wr r x m).pMark = t.pMark := by unfold Strand.wr; split <;> rfl
@[simp] theorem aMark_wr (t : Strand) (r : SReg) (x : Word) (m : Bool) : (t.wr r x m).aMark = t.aMark := by unfold Strand.wr; split <;> rfl
@[simp] theorem aErr_wr (t : Strand) (r : SReg) (x : Word) (m : Bool) : (t.wr r x m).aErr = t.aErr := by unfold Strand.wr; split <;> rfl
@[simp] theorem kMark_wr (t : Strand) (r : SReg) (x : Word) (m : Bool) : (t.wr r x m).kMark = t.kMark := by unfold Strand.wr; split <;> rfl
@[simp] theorem pc_wr (t : Strand) (r : SReg) (x : Word) (m : Bool) : (t.wr r x m).pc = t.pc := by unfold Strand.wr; split <;> rfl
@[simp] theorem groupPc_wr (t : Strand) (r : SReg) (x : Word) (m : Bool) : (t.wr r x m).groupPc = t.groupPc := by unfold Strand.wr; split <;> rfl
@[simp] theorem sts_wr (t : Strand) (r : SReg) (x : Word) (m : Bool) : (t.wr r x m).sts = t.sts := by unfold Strand.wr; split <;> rfl
@[simp] theorem pfxr_wr (t : Strand) (r : SReg) (x : Word) (m : Bool) : (t.wr r x m).pfxr = t.pfxr := by unfold Strand.wr; split <;> rfl
@[simp] theorem epc_wr (t : Strand) (r : SReg) (x : Word) (m : Bool) : (t.wr r x m).epc = t.epc := by unfold Strand.wr; split <;> rfl
@[simp] theorem ecause_wr (t : Strand) (r : SReg) (x : Word) (m : Bool) : (t.wr r x m).ecause = t.ecause := by unfold Strand.wr; split <;> rfl
@[simp] theorem edetail_wr (t : Strand) (r : SReg) (x : Word) (m : Bool) : (t.wr r x m).edetail = t.edetail := by unfold Strand.wr; split <;> rfl
@[simp] theorem ests_wr (t : Strand) (r : SReg) (x : Word) (m : Bool) : (t.wr r x m).ests = t.ests := by unfold Strand.wr; split <;> rfl
@[simp] theorem kscratch_wr (t : Strand) (r : SReg) (x : Word) (m : Bool) : (t.wr r x m).kscratch = t.kscratch := by unfold Strand.wr; split <;> rfl
@[simp] theorem svsts_wr (t : Strand) (r : SReg) (x : Word) (m : Bool) : (t.wr r x m).svsts = t.svsts := by unfold Strand.wr; split <;> rfl
@[simp] theorem regstat_wr (t : Strand) (r : SReg) (x : Word) (m : Bool) : (t.wr r x m).regstat = t.regstat := by unfold Strand.wr; split <;> rfl
@[simp] theorem stackbase_wr (t : Strand) (r : SReg) (x : Word) (m : Bool) : (t.wr r x m).stackbase = t.stackbase := by unfold Strand.wr; split <;> rfl
@[simp] theorem cycles_wr (t : Strand) (r : SReg) (x : Word) (m : Bool) : (t.wr r x m).cycles = t.cycles := by unfold Strand.wr; split <;> rfl
@[simp] theorem smiss_wr (t : Strand) (r : SReg) (x : Word) (m : Bool) : (t.wr r x m).smiss = t.smiss := by unfold Strand.wr; split <;> rfl
@[simp] theorem spadOut_wr (t : Strand) (r : SReg) (x : Word) (m : Bool) : (t.wr r x m).spadOut = t.spadOut := by unfold Strand.wr; split <;> rfl
@[simp] theorem ahead_wr (t : Strand) (r : SReg) (x : Word) (m : Bool) : (t.wr r x m).ahead = t.ahead := by unfold Strand.wr; split <;> rfl
@[simp] theorem seen_wr (t : Strand) (r : SReg) (x : Word) (m : Bool) : (t.wr r x m).seen = t.seen := by unfold Strand.wr; split <;> rfl
@[simp] theorem inCheck_wr (t : Strand) (r : SReg) (x : Word) (m : Bool) : (t.wr r x m).inCheck = t.inCheck := by unfold Strand.wr; split <;> rfl
@[simp] theorem pendS_wr (t : Strand) (r : SReg) (x : Word) (m : Bool) : (t.wr r x m).pendS = t.pendS := by unfold Strand.wr; split <;> rfl
@[simp] theorem pendV_wr (t : Strand) (r : SReg) (x : Word) (m : Bool) : (t.wr r x m).pendV = t.pendV := by unfold Strand.wr; split <;> rfl
@[simp] theorem pendK_wr (t : Strand) (r : SReg) (x : Word) (m : Bool) : (t.wr r x m).pendK = t.pendK := by unfold Strand.wr; split <;> rfl
@[simp] theorem loads_wr (t : Strand) (r : SReg) (x : Word) (m : Bool) : (t.wr r x m).loads = t.loads := by unfold Strand.wr; split <;> rfl
@[simp] theorem buf_wr (t : Strand) (r : SReg) (x : Word) (m : Bool) : (t.wr r x m).buf = t.buf := by unfold Strand.wr; split <;> rfl
@[simp] theorem closed_wr (t : Strand) (r : SReg) (x : Word) (m : Bool) : (t.wr r x m).closed = t.closed := by unfold Strand.wr; split <;> rfl
@[simp] theorem effects_wr (t : Strand) (r : SReg) (x : Word) (m : Bool) : (t.wr r x m).effects = t.effects := by unfold Strand.wr; split <;> rfl
@[simp] theorem deferred_wr (t : Strand) (r : SReg) (x : Word) (m : Bool) : (t.wr r x m).deferred = t.deferred := by unfold Strand.wr; split <;> rfl
@[simp] theorem records_wr (t : Strand) (r : SReg) (x : Word) (m : Bool) : (t.wr r x m).records = t.records := by unfold Strand.wr; split <;> rfl
@[simp] theorem joins_wr (t : Strand) (r : SReg) (x : Word) (m : Bool) : (t.wr r x m).joins = t.joins := by unfold Strand.wr; split <;> rfl
@[simp] theorem undo_wr (t : Strand) (r : SReg) (x : Word) (m : Bool) : (t.wr r x m).undo = t.undo := by unfold Strand.wr; split <;> rfl
@[simp] theorem counts_wr (t : Strand) (r : SReg) (x : Word) (m : Bool) : (t.wr r x m).counts = t.counts := by unfold Strand.wr; split <;> rfl
@[simp] theorem wait_wr (t : Strand) (r : SReg) (x : Word) (m : Bool) : (t.wr r x m).wait = t.wait := by unfold Strand.wr; split <;> rfl
@[simp] theorem task_wr (t : Strand) (r : SReg) (x : Word) (m : Bool) : (t.wr r x m).task = t.task := by unfold Strand.wr; split <;> rfl
@[simp] theorem rid_wr (t : Strand) (r : SReg) (x : Word) (m : Bool) : (t.wr r x m).rid = t.rid := by unfold Strand.wr; split <;> rfl
@[simp] theorem taskNo_wr (t : Strand) (r : SReg) (x : Word) (m : Bool) : (t.wr r x m).taskNo = t.taskNo := by unfold Strand.wr; split <;> rfl
@[simp] theorem svIrrev_wr (t : Strand) (r : SReg) (x : Word) (m : Bool) : (t.wr r x m).svIrrev = t.svIrrev := by unfold Strand.wr; split <;> rfl
@[simp] theorem verdictGiven_wr (t : Strand) (r : SReg) (x : Word) (m : Bool) : (t.wr r x m).verdictGiven = t.verdictGiven := by unfold Strand.wr; split <;> rfl
@[simp] theorem dual_wr (t : Strand) (r : SReg) (x : Word) (m : Bool) : (t.wr r x m).dual = t.dual := by unfold Strand.wr; split <;> rfl
@[simp] theorem saved_wr (t : Strand) (r : SReg) (x : Word) (m : Bool) : (t.wr r x m).saved = t.saved := by unfold Strand.wr; split <;> rfl
@[simp] theorem s_wrP (t : Strand) (r : PReg) (x : Word) (m : Bool) : (t.wrP r x m).s = t.s := by unfold Strand.wrP; split <;> rfl
@[simp] theorem v_wrP (t : Strand) (r : PReg) (x : Word) (m : Bool) : (t.wrP r x m).v = t.v := by unfold Strand.wrP; split <;> rfl
@[simp] theorem a_wrP (t : Strand) (r : PReg) (x : Word) (m : Bool) : (t.wrP r x m).a = t.a := by unfold Strand.wrP; split <;> rfl
@[simp] theorem k_wrP (t : Strand) (r : PReg) (x : Word) (m : Bool) : (t.wrP r x m).k = t.k := by unfold Strand.wrP; split <;> rfl
@[simp] theorem sMark_wrP (t : Strand) (r : PReg) (x : Word) (m : Bool) : (t.wrP r x m).sMark = t.sMark := by unfold Strand.wrP; split <;> rfl
@[simp] theorem vMark_wrP (t : Strand) (r : PReg) (x : Word) (m : Bool) : (t.wrP r x m).vMark = t.vMark := by unfold Strand.wrP; split <;> rfl
@[simp] theorem aMark_wrP (t : Strand) (r : PReg) (x : Word) (m : Bool) : (t.wrP r x m).aMark = t.aMark := by unfold Strand.wrP; split <;> rfl
@[simp] theorem aErr_wrP (t : Strand) (r : PReg) (x : Word) (m : Bool) : (t.wrP r x m).aErr = t.aErr := by unfold Strand.wrP; split <;> rfl
@[simp] theorem kMark_wrP (t : Strand) (r : PReg) (x : Word) (m : Bool) : (t.wrP r x m).kMark = t.kMark := by unfold Strand.wrP; split <;> rfl
@[simp] theorem pc_wrP (t : Strand) (r : PReg) (x : Word) (m : Bool) : (t.wrP r x m).pc = t.pc := by unfold Strand.wrP; split <;> rfl
@[simp] theorem groupPc_wrP (t : Strand) (r : PReg) (x : Word) (m : Bool) : (t.wrP r x m).groupPc = t.groupPc := by unfold Strand.wrP; split <;> rfl
@[simp] theorem sts_wrP (t : Strand) (r : PReg) (x : Word) (m : Bool) : (t.wrP r x m).sts = t.sts := by unfold Strand.wrP; split <;> rfl
@[simp] theorem pfxr_wrP (t : Strand) (r : PReg) (x : Word) (m : Bool) : (t.wrP r x m).pfxr = t.pfxr := by unfold Strand.wrP; split <;> rfl
@[simp] theorem epc_wrP (t : Strand) (r : PReg) (x : Word) (m : Bool) : (t.wrP r x m).epc = t.epc := by unfold Strand.wrP; split <;> rfl
@[simp] theorem ecause_wrP (t : Strand) (r : PReg) (x : Word) (m : Bool) : (t.wrP r x m).ecause = t.ecause := by unfold Strand.wrP; split <;> rfl
@[simp] theorem edetail_wrP (t : Strand) (r : PReg) (x : Word) (m : Bool) : (t.wrP r x m).edetail = t.edetail := by unfold Strand.wrP; split <;> rfl
@[simp] theorem ests_wrP (t : Strand) (r : PReg) (x : Word) (m : Bool) : (t.wrP r x m).ests = t.ests := by unfold Strand.wrP; split <;> rfl
@[simp] theorem kscratch_wrP (t : Strand) (r : PReg) (x : Word) (m : Bool) : (t.wrP r x m).kscratch = t.kscratch := by unfold Strand.wrP; split <;> rfl
@[simp] theorem svsts_wrP (t : Strand) (r : PReg) (x : Word) (m : Bool) : (t.wrP r x m).svsts = t.svsts := by unfold Strand.wrP; split <;> rfl
@[simp] theorem regstat_wrP (t : Strand) (r : PReg) (x : Word) (m : Bool) : (t.wrP r x m).regstat = t.regstat := by unfold Strand.wrP; split <;> rfl
@[simp] theorem stackbase_wrP (t : Strand) (r : PReg) (x : Word) (m : Bool) : (t.wrP r x m).stackbase = t.stackbase := by unfold Strand.wrP; split <;> rfl
@[simp] theorem cycles_wrP (t : Strand) (r : PReg) (x : Word) (m : Bool) : (t.wrP r x m).cycles = t.cycles := by unfold Strand.wrP; split <;> rfl
@[simp] theorem smiss_wrP (t : Strand) (r : PReg) (x : Word) (m : Bool) : (t.wrP r x m).smiss = t.smiss := by unfold Strand.wrP; split <;> rfl
@[simp] theorem spadOut_wrP (t : Strand) (r : PReg) (x : Word) (m : Bool) : (t.wrP r x m).spadOut = t.spadOut := by unfold Strand.wrP; split <;> rfl
@[simp] theorem ahead_wrP (t : Strand) (r : PReg) (x : Word) (m : Bool) : (t.wrP r x m).ahead = t.ahead := by unfold Strand.wrP; split <;> rfl
@[simp] theorem seen_wrP (t : Strand) (r : PReg) (x : Word) (m : Bool) : (t.wrP r x m).seen = t.seen := by unfold Strand.wrP; split <;> rfl
@[simp] theorem inCheck_wrP (t : Strand) (r : PReg) (x : Word) (m : Bool) : (t.wrP r x m).inCheck = t.inCheck := by unfold Strand.wrP; split <;> rfl
@[simp] theorem pendS_wrP (t : Strand) (r : PReg) (x : Word) (m : Bool) : (t.wrP r x m).pendS = t.pendS := by unfold Strand.wrP; split <;> rfl
@[simp] theorem pendV_wrP (t : Strand) (r : PReg) (x : Word) (m : Bool) : (t.wrP r x m).pendV = t.pendV := by unfold Strand.wrP; split <;> rfl
@[simp] theorem pendK_wrP (t : Strand) (r : PReg) (x : Word) (m : Bool) : (t.wrP r x m).pendK = t.pendK := by unfold Strand.wrP; split <;> rfl
@[simp] theorem loads_wrP (t : Strand) (r : PReg) (x : Word) (m : Bool) : (t.wrP r x m).loads = t.loads := by unfold Strand.wrP; split <;> rfl
@[simp] theorem buf_wrP (t : Strand) (r : PReg) (x : Word) (m : Bool) : (t.wrP r x m).buf = t.buf := by unfold Strand.wrP; split <;> rfl
@[simp] theorem closed_wrP (t : Strand) (r : PReg) (x : Word) (m : Bool) : (t.wrP r x m).closed = t.closed := by unfold Strand.wrP; split <;> rfl
@[simp] theorem effects_wrP (t : Strand) (r : PReg) (x : Word) (m : Bool) : (t.wrP r x m).effects = t.effects := by unfold Strand.wrP; split <;> rfl
@[simp] theorem deferred_wrP (t : Strand) (r : PReg) (x : Word) (m : Bool) : (t.wrP r x m).deferred = t.deferred := by unfold Strand.wrP; split <;> rfl
@[simp] theorem records_wrP (t : Strand) (r : PReg) (x : Word) (m : Bool) : (t.wrP r x m).records = t.records := by unfold Strand.wrP; split <;> rfl
@[simp] theorem joins_wrP (t : Strand) (r : PReg) (x : Word) (m : Bool) : (t.wrP r x m).joins = t.joins := by unfold Strand.wrP; split <;> rfl
@[simp] theorem undo_wrP (t : Strand) (r : PReg) (x : Word) (m : Bool) : (t.wrP r x m).undo = t.undo := by unfold Strand.wrP; split <;> rfl
@[simp] theorem counts_wrP (t : Strand) (r : PReg) (x : Word) (m : Bool) : (t.wrP r x m).counts = t.counts := by unfold Strand.wrP; split <;> rfl
@[simp] theorem wait_wrP (t : Strand) (r : PReg) (x : Word) (m : Bool) : (t.wrP r x m).wait = t.wait := by unfold Strand.wrP; split <;> rfl
@[simp] theorem task_wrP (t : Strand) (r : PReg) (x : Word) (m : Bool) : (t.wrP r x m).task = t.task := by unfold Strand.wrP; split <;> rfl
@[simp] theorem rid_wrP (t : Strand) (r : PReg) (x : Word) (m : Bool) : (t.wrP r x m).rid = t.rid := by unfold Strand.wrP; split <;> rfl
@[simp] theorem taskNo_wrP (t : Strand) (r : PReg) (x : Word) (m : Bool) : (t.wrP r x m).taskNo = t.taskNo := by unfold Strand.wrP; split <;> rfl
@[simp] theorem svIrrev_wrP (t : Strand) (r : PReg) (x : Word) (m : Bool) : (t.wrP r x m).svIrrev = t.svIrrev := by unfold Strand.wrP; split <;> rfl
@[simp] theorem verdictGiven_wrP (t : Strand) (r : PReg) (x : Word) (m : Bool) : (t.wrP r x m).verdictGiven = t.verdictGiven := by unfold Strand.wrP; split <;> rfl
@[simp] theorem dual_wrP (t : Strand) (r : PReg) (x : Word) (m : Bool) : (t.wrP r x m).dual = t.dual := by unfold Strand.wrP; split <;> rfl
@[simp] theorem saved_wrP (t : Strand) (r : PReg) (x : Word) (m : Bool) : (t.wrP r x m).saved = t.saved := by unfold Strand.wrP; split <;> rfl
@[simp] theorem s_wrV (t : Strand) (r : VReg) (x : Vec) (m : BitVec 8) : (t.wrV r x m).s = t.s := rfl
@[simp] theorem p_wrV (t : Strand) (r : VReg) (x : Vec) (m : BitVec 8) : (t.wrV r x m).p = t.p := rfl
@[simp] theorem a_wrV (t : Strand) (r : VReg) (x : Vec) (m : BitVec 8) : (t.wrV r x m).a = t.a := rfl
@[simp] theorem k_wrV (t : Strand) (r : VReg) (x : Vec) (m : BitVec 8) : (t.wrV r x m).k = t.k := rfl
@[simp] theorem sMark_wrV (t : Strand) (r : VReg) (x : Vec) (m : BitVec 8) : (t.wrV r x m).sMark = t.sMark := rfl
@[simp] theorem pMark_wrV (t : Strand) (r : VReg) (x : Vec) (m : BitVec 8) : (t.wrV r x m).pMark = t.pMark := rfl
@[simp] theorem aMark_wrV (t : Strand) (r : VReg) (x : Vec) (m : BitVec 8) : (t.wrV r x m).aMark = t.aMark := rfl
@[simp] theorem aErr_wrV (t : Strand) (r : VReg) (x : Vec) (m : BitVec 8) : (t.wrV r x m).aErr = t.aErr := rfl
@[simp] theorem kMark_wrV (t : Strand) (r : VReg) (x : Vec) (m : BitVec 8) : (t.wrV r x m).kMark = t.kMark := rfl
@[simp] theorem pc_wrV (t : Strand) (r : VReg) (x : Vec) (m : BitVec 8) : (t.wrV r x m).pc = t.pc := rfl
@[simp] theorem groupPc_wrV (t : Strand) (r : VReg) (x : Vec) (m : BitVec 8) : (t.wrV r x m).groupPc = t.groupPc := rfl
@[simp] theorem sts_wrV (t : Strand) (r : VReg) (x : Vec) (m : BitVec 8) : (t.wrV r x m).sts = t.sts := rfl
@[simp] theorem pfxr_wrV (t : Strand) (r : VReg) (x : Vec) (m : BitVec 8) : (t.wrV r x m).pfxr = t.pfxr := rfl
@[simp] theorem epc_wrV (t : Strand) (r : VReg) (x : Vec) (m : BitVec 8) : (t.wrV r x m).epc = t.epc := rfl
@[simp] theorem ecause_wrV (t : Strand) (r : VReg) (x : Vec) (m : BitVec 8) : (t.wrV r x m).ecause = t.ecause := rfl
@[simp] theorem edetail_wrV (t : Strand) (r : VReg) (x : Vec) (m : BitVec 8) : (t.wrV r x m).edetail = t.edetail := rfl
@[simp] theorem ests_wrV (t : Strand) (r : VReg) (x : Vec) (m : BitVec 8) : (t.wrV r x m).ests = t.ests := rfl
@[simp] theorem kscratch_wrV (t : Strand) (r : VReg) (x : Vec) (m : BitVec 8) : (t.wrV r x m).kscratch = t.kscratch := rfl
@[simp] theorem svsts_wrV (t : Strand) (r : VReg) (x : Vec) (m : BitVec 8) : (t.wrV r x m).svsts = t.svsts := rfl
@[simp] theorem regstat_wrV (t : Strand) (r : VReg) (x : Vec) (m : BitVec 8) : (t.wrV r x m).regstat = t.regstat := rfl
@[simp] theorem stackbase_wrV (t : Strand) (r : VReg) (x : Vec) (m : BitVec 8) : (t.wrV r x m).stackbase = t.stackbase := rfl
@[simp] theorem cycles_wrV (t : Strand) (r : VReg) (x : Vec) (m : BitVec 8) : (t.wrV r x m).cycles = t.cycles := rfl
@[simp] theorem smiss_wrV (t : Strand) (r : VReg) (x : Vec) (m : BitVec 8) : (t.wrV r x m).smiss = t.smiss := rfl
@[simp] theorem spadOut_wrV (t : Strand) (r : VReg) (x : Vec) (m : BitVec 8) : (t.wrV r x m).spadOut = t.spadOut := rfl
@[simp] theorem ahead_wrV (t : Strand) (r : VReg) (x : Vec) (m : BitVec 8) : (t.wrV r x m).ahead = t.ahead := rfl
@[simp] theorem seen_wrV (t : Strand) (r : VReg) (x : Vec) (m : BitVec 8) : (t.wrV r x m).seen = t.seen := rfl
@[simp] theorem inCheck_wrV (t : Strand) (r : VReg) (x : Vec) (m : BitVec 8) : (t.wrV r x m).inCheck = t.inCheck := rfl
@[simp] theorem pendS_wrV (t : Strand) (r : VReg) (x : Vec) (m : BitVec 8) : (t.wrV r x m).pendS = t.pendS := rfl
@[simp] theorem pendV_wrV (t : Strand) (r : VReg) (x : Vec) (m : BitVec 8) : (t.wrV r x m).pendV = t.pendV := rfl
@[simp] theorem pendK_wrV (t : Strand) (r : VReg) (x : Vec) (m : BitVec 8) : (t.wrV r x m).pendK = t.pendK := rfl
@[simp] theorem loads_wrV (t : Strand) (r : VReg) (x : Vec) (m : BitVec 8) : (t.wrV r x m).loads = t.loads := rfl
@[simp] theorem buf_wrV (t : Strand) (r : VReg) (x : Vec) (m : BitVec 8) : (t.wrV r x m).buf = t.buf := rfl
@[simp] theorem closed_wrV (t : Strand) (r : VReg) (x : Vec) (m : BitVec 8) : (t.wrV r x m).closed = t.closed := rfl
@[simp] theorem effects_wrV (t : Strand) (r : VReg) (x : Vec) (m : BitVec 8) : (t.wrV r x m).effects = t.effects := rfl
@[simp] theorem deferred_wrV (t : Strand) (r : VReg) (x : Vec) (m : BitVec 8) : (t.wrV r x m).deferred = t.deferred := rfl
@[simp] theorem records_wrV (t : Strand) (r : VReg) (x : Vec) (m : BitVec 8) : (t.wrV r x m).records = t.records := rfl
@[simp] theorem joins_wrV (t : Strand) (r : VReg) (x : Vec) (m : BitVec 8) : (t.wrV r x m).joins = t.joins := rfl
@[simp] theorem undo_wrV (t : Strand) (r : VReg) (x : Vec) (m : BitVec 8) : (t.wrV r x m).undo = t.undo := rfl
@[simp] theorem counts_wrV (t : Strand) (r : VReg) (x : Vec) (m : BitVec 8) : (t.wrV r x m).counts = t.counts := rfl
@[simp] theorem wait_wrV (t : Strand) (r : VReg) (x : Vec) (m : BitVec 8) : (t.wrV r x m).wait = t.wait := rfl
@[simp] theorem task_wrV (t : Strand) (r : VReg) (x : Vec) (m : BitVec 8) : (t.wrV r x m).task = t.task := rfl
@[simp] theorem rid_wrV (t : Strand) (r : VReg) (x : Vec) (m : BitVec 8) : (t.wrV r x m).rid = t.rid := rfl
@[simp] theorem taskNo_wrV (t : Strand) (r : VReg) (x : Vec) (m : BitVec 8) : (t.wrV r x m).taskNo = t.taskNo := rfl
@[simp] theorem svIrrev_wrV (t : Strand) (r : VReg) (x : Vec) (m : BitVec 8) : (t.wrV r x m).svIrrev = t.svIrrev := rfl
@[simp] theorem verdictGiven_wrV (t : Strand) (r : VReg) (x : Vec) (m : BitVec 8) : (t.wrV r x m).verdictGiven = t.verdictGiven := rfl
@[simp] theorem dual_wrV (t : Strand) (r : VReg) (x : Vec) (m : BitVec 8) : (t.wrV r x m).dual = t.dual := rfl
@[simp] theorem saved_wrV (t : Strand) (r : VReg) (x : Vec) (m : BitVec 8) : (t.wrV r x m).saved = t.saved := rfl
@[simp] theorem s_wrA (t : Strand) (r : AReg) (x : BitVec 32768) (m : BitVec 1024) : (t.wrA r x m).s = t.s := rfl
@[simp] theorem v_wrA (t : Strand) (r : AReg) (x : BitVec 32768) (m : BitVec 1024) : (t.wrA r x m).v = t.v := rfl
@[simp] theorem p_wrA (t : Strand) (r : AReg) (x : BitVec 32768) (m : BitVec 1024) : (t.wrA r x m).p = t.p := rfl
@[simp] theorem k_wrA (t : Strand) (r : AReg) (x : BitVec 32768) (m : BitVec 1024) : (t.wrA r x m).k = t.k := rfl
@[simp] theorem sMark_wrA (t : Strand) (r : AReg) (x : BitVec 32768) (m : BitVec 1024) : (t.wrA r x m).sMark = t.sMark := rfl
@[simp] theorem vMark_wrA (t : Strand) (r : AReg) (x : BitVec 32768) (m : BitVec 1024) : (t.wrA r x m).vMark = t.vMark := rfl
@[simp] theorem pMark_wrA (t : Strand) (r : AReg) (x : BitVec 32768) (m : BitVec 1024) : (t.wrA r x m).pMark = t.pMark := rfl
@[simp] theorem kMark_wrA (t : Strand) (r : AReg) (x : BitVec 32768) (m : BitVec 1024) : (t.wrA r x m).kMark = t.kMark := rfl
@[simp] theorem pc_wrA (t : Strand) (r : AReg) (x : BitVec 32768) (m : BitVec 1024) : (t.wrA r x m).pc = t.pc := rfl
@[simp] theorem groupPc_wrA (t : Strand) (r : AReg) (x : BitVec 32768) (m : BitVec 1024) : (t.wrA r x m).groupPc = t.groupPc := rfl
@[simp] theorem sts_wrA (t : Strand) (r : AReg) (x : BitVec 32768) (m : BitVec 1024) : (t.wrA r x m).sts = t.sts := rfl
@[simp] theorem pfxr_wrA (t : Strand) (r : AReg) (x : BitVec 32768) (m : BitVec 1024) : (t.wrA r x m).pfxr = t.pfxr := rfl
@[simp] theorem epc_wrA (t : Strand) (r : AReg) (x : BitVec 32768) (m : BitVec 1024) : (t.wrA r x m).epc = t.epc := rfl
@[simp] theorem ecause_wrA (t : Strand) (r : AReg) (x : BitVec 32768) (m : BitVec 1024) : (t.wrA r x m).ecause = t.ecause := rfl
@[simp] theorem edetail_wrA (t : Strand) (r : AReg) (x : BitVec 32768) (m : BitVec 1024) : (t.wrA r x m).edetail = t.edetail := rfl
@[simp] theorem ests_wrA (t : Strand) (r : AReg) (x : BitVec 32768) (m : BitVec 1024) : (t.wrA r x m).ests = t.ests := rfl
@[simp] theorem kscratch_wrA (t : Strand) (r : AReg) (x : BitVec 32768) (m : BitVec 1024) : (t.wrA r x m).kscratch = t.kscratch := rfl
@[simp] theorem svsts_wrA (t : Strand) (r : AReg) (x : BitVec 32768) (m : BitVec 1024) : (t.wrA r x m).svsts = t.svsts := rfl
@[simp] theorem regstat_wrA (t : Strand) (r : AReg) (x : BitVec 32768) (m : BitVec 1024) : (t.wrA r x m).regstat = t.regstat := rfl
@[simp] theorem stackbase_wrA (t : Strand) (r : AReg) (x : BitVec 32768) (m : BitVec 1024) : (t.wrA r x m).stackbase = t.stackbase := rfl
@[simp] theorem cycles_wrA (t : Strand) (r : AReg) (x : BitVec 32768) (m : BitVec 1024) : (t.wrA r x m).cycles = t.cycles := rfl
@[simp] theorem smiss_wrA (t : Strand) (r : AReg) (x : BitVec 32768) (m : BitVec 1024) : (t.wrA r x m).smiss = t.smiss := rfl
@[simp] theorem spadOut_wrA (t : Strand) (r : AReg) (x : BitVec 32768) (m : BitVec 1024) : (t.wrA r x m).spadOut = t.spadOut := rfl
@[simp] theorem ahead_wrA (t : Strand) (r : AReg) (x : BitVec 32768) (m : BitVec 1024) : (t.wrA r x m).ahead = t.ahead := rfl
@[simp] theorem seen_wrA (t : Strand) (r : AReg) (x : BitVec 32768) (m : BitVec 1024) : (t.wrA r x m).seen = t.seen := rfl
@[simp] theorem inCheck_wrA (t : Strand) (r : AReg) (x : BitVec 32768) (m : BitVec 1024) : (t.wrA r x m).inCheck = t.inCheck := rfl
@[simp] theorem pendS_wrA (t : Strand) (r : AReg) (x : BitVec 32768) (m : BitVec 1024) : (t.wrA r x m).pendS = t.pendS := rfl
@[simp] theorem pendV_wrA (t : Strand) (r : AReg) (x : BitVec 32768) (m : BitVec 1024) : (t.wrA r x m).pendV = t.pendV := rfl
@[simp] theorem pendK_wrA (t : Strand) (r : AReg) (x : BitVec 32768) (m : BitVec 1024) : (t.wrA r x m).pendK = t.pendK := rfl
@[simp] theorem loads_wrA (t : Strand) (r : AReg) (x : BitVec 32768) (m : BitVec 1024) : (t.wrA r x m).loads = t.loads := rfl
@[simp] theorem buf_wrA (t : Strand) (r : AReg) (x : BitVec 32768) (m : BitVec 1024) : (t.wrA r x m).buf = t.buf := rfl
@[simp] theorem closed_wrA (t : Strand) (r : AReg) (x : BitVec 32768) (m : BitVec 1024) : (t.wrA r x m).closed = t.closed := rfl
@[simp] theorem effects_wrA (t : Strand) (r : AReg) (x : BitVec 32768) (m : BitVec 1024) : (t.wrA r x m).effects = t.effects := rfl
@[simp] theorem deferred_wrA (t : Strand) (r : AReg) (x : BitVec 32768) (m : BitVec 1024) : (t.wrA r x m).deferred = t.deferred := rfl
@[simp] theorem records_wrA (t : Strand) (r : AReg) (x : BitVec 32768) (m : BitVec 1024) : (t.wrA r x m).records = t.records := rfl
@[simp] theorem joins_wrA (t : Strand) (r : AReg) (x : BitVec 32768) (m : BitVec 1024) : (t.wrA r x m).joins = t.joins := rfl
@[simp] theorem undo_wrA (t : Strand) (r : AReg) (x : BitVec 32768) (m : BitVec 1024) : (t.wrA r x m).undo = t.undo := rfl
@[simp] theorem counts_wrA (t : Strand) (r : AReg) (x : BitVec 32768) (m : BitVec 1024) : (t.wrA r x m).counts = t.counts := rfl
@[simp] theorem wait_wrA (t : Strand) (r : AReg) (x : BitVec 32768) (m : BitVec 1024) : (t.wrA r x m).wait = t.wait := rfl
@[simp] theorem task_wrA (t : Strand) (r : AReg) (x : BitVec 32768) (m : BitVec 1024) : (t.wrA r x m).task = t.task := rfl
@[simp] theorem rid_wrA (t : Strand) (r : AReg) (x : BitVec 32768) (m : BitVec 1024) : (t.wrA r x m).rid = t.rid := rfl
@[simp] theorem taskNo_wrA (t : Strand) (r : AReg) (x : BitVec 32768) (m : BitVec 1024) : (t.wrA r x m).taskNo = t.taskNo := rfl
@[simp] theorem svIrrev_wrA (t : Strand) (r : AReg) (x : BitVec 32768) (m : BitVec 1024) : (t.wrA r x m).svIrrev = t.svIrrev := rfl
@[simp] theorem verdictGiven_wrA (t : Strand) (r : AReg) (x : BitVec 32768) (m : BitVec 1024) : (t.wrA r x m).verdictGiven = t.verdictGiven := rfl
@[simp] theorem dual_wrA (t : Strand) (r : AReg) (x : BitVec 32768) (m : BitVec 1024) : (t.wrA r x m).dual = t.dual := rfl
@[simp] theorem saved_wrA (t : Strand) (r : AReg) (x : BitVec 32768) (m : BitVec 1024) : (t.wrA r x m).saved = t.saved := rfl
@[simp] theorem s_setErrA (t : Strand) (r : AReg) (e : BitVec 1024) : (t.setErrA r e).s = t.s := rfl
@[simp] theorem v_setErrA (t : Strand) (r : AReg) (e : BitVec 1024) : (t.setErrA r e).v = t.v := rfl
@[simp] theorem p_setErrA (t : Strand) (r : AReg) (e : BitVec 1024) : (t.setErrA r e).p = t.p := rfl
@[simp] theorem k_setErrA (t : Strand) (r : AReg) (e : BitVec 1024) : (t.setErrA r e).k = t.k := rfl
@[simp] theorem sMark_setErrA (t : Strand) (r : AReg) (e : BitVec 1024) : (t.setErrA r e).sMark = t.sMark := rfl
@[simp] theorem vMark_setErrA (t : Strand) (r : AReg) (e : BitVec 1024) : (t.setErrA r e).vMark = t.vMark := rfl
@[simp] theorem pMark_setErrA (t : Strand) (r : AReg) (e : BitVec 1024) : (t.setErrA r e).pMark = t.pMark := rfl
@[simp] theorem kMark_setErrA (t : Strand) (r : AReg) (e : BitVec 1024) : (t.setErrA r e).kMark = t.kMark := rfl
@[simp] theorem pc_setErrA (t : Strand) (r : AReg) (e : BitVec 1024) : (t.setErrA r e).pc = t.pc := rfl
@[simp] theorem groupPc_setErrA (t : Strand) (r : AReg) (e : BitVec 1024) : (t.setErrA r e).groupPc = t.groupPc := rfl
@[simp] theorem sts_setErrA (t : Strand) (r : AReg) (e : BitVec 1024) : (t.setErrA r e).sts = t.sts := rfl
@[simp] theorem pfxr_setErrA (t : Strand) (r : AReg) (e : BitVec 1024) : (t.setErrA r e).pfxr = t.pfxr := rfl
@[simp] theorem epc_setErrA (t : Strand) (r : AReg) (e : BitVec 1024) : (t.setErrA r e).epc = t.epc := rfl
@[simp] theorem ecause_setErrA (t : Strand) (r : AReg) (e : BitVec 1024) : (t.setErrA r e).ecause = t.ecause := rfl
@[simp] theorem edetail_setErrA (t : Strand) (r : AReg) (e : BitVec 1024) : (t.setErrA r e).edetail = t.edetail := rfl
@[simp] theorem ests_setErrA (t : Strand) (r : AReg) (e : BitVec 1024) : (t.setErrA r e).ests = t.ests := rfl
@[simp] theorem kscratch_setErrA (t : Strand) (r : AReg) (e : BitVec 1024) : (t.setErrA r e).kscratch = t.kscratch := rfl
@[simp] theorem svsts_setErrA (t : Strand) (r : AReg) (e : BitVec 1024) : (t.setErrA r e).svsts = t.svsts := rfl
@[simp] theorem regstat_setErrA (t : Strand) (r : AReg) (e : BitVec 1024) : (t.setErrA r e).regstat = t.regstat := rfl
@[simp] theorem stackbase_setErrA (t : Strand) (r : AReg) (e : BitVec 1024) : (t.setErrA r e).stackbase = t.stackbase := rfl
@[simp] theorem cycles_setErrA (t : Strand) (r : AReg) (e : BitVec 1024) : (t.setErrA r e).cycles = t.cycles := rfl
@[simp] theorem smiss_setErrA (t : Strand) (r : AReg) (e : BitVec 1024) : (t.setErrA r e).smiss = t.smiss := rfl
@[simp] theorem spadOut_setErrA (t : Strand) (r : AReg) (e : BitVec 1024) : (t.setErrA r e).spadOut = t.spadOut := rfl
@[simp] theorem ahead_setErrA (t : Strand) (r : AReg) (e : BitVec 1024) : (t.setErrA r e).ahead = t.ahead := rfl
@[simp] theorem seen_setErrA (t : Strand) (r : AReg) (e : BitVec 1024) : (t.setErrA r e).seen = t.seen := rfl
@[simp] theorem inCheck_setErrA (t : Strand) (r : AReg) (e : BitVec 1024) : (t.setErrA r e).inCheck = t.inCheck := rfl
@[simp] theorem pendS_setErrA (t : Strand) (r : AReg) (e : BitVec 1024) : (t.setErrA r e).pendS = t.pendS := rfl
@[simp] theorem pendV_setErrA (t : Strand) (r : AReg) (e : BitVec 1024) : (t.setErrA r e).pendV = t.pendV := rfl
@[simp] theorem pendK_setErrA (t : Strand) (r : AReg) (e : BitVec 1024) : (t.setErrA r e).pendK = t.pendK := rfl
@[simp] theorem loads_setErrA (t : Strand) (r : AReg) (e : BitVec 1024) : (t.setErrA r e).loads = t.loads := rfl
@[simp] theorem buf_setErrA (t : Strand) (r : AReg) (e : BitVec 1024) : (t.setErrA r e).buf = t.buf := rfl
@[simp] theorem closed_setErrA (t : Strand) (r : AReg) (e : BitVec 1024) : (t.setErrA r e).closed = t.closed := rfl
@[simp] theorem effects_setErrA (t : Strand) (r : AReg) (e : BitVec 1024) : (t.setErrA r e).effects = t.effects := rfl
@[simp] theorem deferred_setErrA (t : Strand) (r : AReg) (e : BitVec 1024) : (t.setErrA r e).deferred = t.deferred := rfl
@[simp] theorem records_setErrA (t : Strand) (r : AReg) (e : BitVec 1024) : (t.setErrA r e).records = t.records := rfl
@[simp] theorem joins_setErrA (t : Strand) (r : AReg) (e : BitVec 1024) : (t.setErrA r e).joins = t.joins := rfl
@[simp] theorem undo_setErrA (t : Strand) (r : AReg) (e : BitVec 1024) : (t.setErrA r e).undo = t.undo := rfl
@[simp] theorem counts_setErrA (t : Strand) (r : AReg) (e : BitVec 1024) : (t.setErrA r e).counts = t.counts := rfl
@[simp] theorem wait_setErrA (t : Strand) (r : AReg) (e : BitVec 1024) : (t.setErrA r e).wait = t.wait := rfl
@[simp] theorem task_setErrA (t : Strand) (r : AReg) (e : BitVec 1024) : (t.setErrA r e).task = t.task := rfl
@[simp] theorem rid_setErrA (t : Strand) (r : AReg) (e : BitVec 1024) : (t.setErrA r e).rid = t.rid := rfl
@[simp] theorem taskNo_setErrA (t : Strand) (r : AReg) (e : BitVec 1024) : (t.setErrA r e).taskNo = t.taskNo := rfl
@[simp] theorem svIrrev_setErrA (t : Strand) (r : AReg) (e : BitVec 1024) : (t.setErrA r e).svIrrev = t.svIrrev := rfl
@[simp] theorem verdictGiven_setErrA (t : Strand) (r : AReg) (e : BitVec 1024) : (t.setErrA r e).verdictGiven = t.verdictGiven := rfl
@[simp] theorem dual_setErrA (t : Strand) (r : AReg) (e : BitVec 1024) : (t.setErrA r e).dual = t.dual := rfl
@[simp] theorem saved_setErrA (t : Strand) (r : AReg) (e : BitVec 1024) : (t.setErrA r e).saved = t.saved := rfl
@[simp] theorem a_setErrA (t : Strand) (r : AReg) (e : BitVec 1024) : (t.setErrA r e).a = t.a := rfl
@[simp] theorem errA_setErrA (t : Strand) (r : AReg) (e : BitVec 1024) : (t.setErrA r e).errA r = e := by simp [Strand.errA, Strand.setErrA]
@[simp] theorem aMark_setErrA (t : Strand) (r : AReg) (e : BitVec 1024) : (t.setErrA r e).aMark = t.aMark := rfl
@[simp] theorem s_wrK (t : Strand) (r : KReg) (x : Option Stream) (m : Bool) : (t.wrK r x m).s = t.s := rfl
@[simp] theorem v_wrK (t : Strand) (r : KReg) (x : Option Stream) (m : Bool) : (t.wrK r x m).v = t.v := rfl
@[simp] theorem p_wrK (t : Strand) (r : KReg) (x : Option Stream) (m : Bool) : (t.wrK r x m).p = t.p := rfl
@[simp] theorem a_wrK (t : Strand) (r : KReg) (x : Option Stream) (m : Bool) : (t.wrK r x m).a = t.a := rfl
@[simp] theorem sMark_wrK (t : Strand) (r : KReg) (x : Option Stream) (m : Bool) : (t.wrK r x m).sMark = t.sMark := rfl
@[simp] theorem vMark_wrK (t : Strand) (r : KReg) (x : Option Stream) (m : Bool) : (t.wrK r x m).vMark = t.vMark := rfl
@[simp] theorem pMark_wrK (t : Strand) (r : KReg) (x : Option Stream) (m : Bool) : (t.wrK r x m).pMark = t.pMark := rfl
@[simp] theorem aMark_wrK (t : Strand) (r : KReg) (x : Option Stream) (m : Bool) : (t.wrK r x m).aMark = t.aMark := rfl
@[simp] theorem aErr_wrK (t : Strand) (r : KReg) (x : Option Stream) (m : Bool) : (t.wrK r x m).aErr = t.aErr := rfl
@[simp] theorem pc_wrK (t : Strand) (r : KReg) (x : Option Stream) (m : Bool) : (t.wrK r x m).pc = t.pc := rfl
@[simp] theorem groupPc_wrK (t : Strand) (r : KReg) (x : Option Stream) (m : Bool) : (t.wrK r x m).groupPc = t.groupPc := rfl
@[simp] theorem sts_wrK (t : Strand) (r : KReg) (x : Option Stream) (m : Bool) : (t.wrK r x m).sts = t.sts := rfl
@[simp] theorem pfxr_wrK (t : Strand) (r : KReg) (x : Option Stream) (m : Bool) : (t.wrK r x m).pfxr = t.pfxr := rfl
@[simp] theorem epc_wrK (t : Strand) (r : KReg) (x : Option Stream) (m : Bool) : (t.wrK r x m).epc = t.epc := rfl
@[simp] theorem ecause_wrK (t : Strand) (r : KReg) (x : Option Stream) (m : Bool) : (t.wrK r x m).ecause = t.ecause := rfl
@[simp] theorem edetail_wrK (t : Strand) (r : KReg) (x : Option Stream) (m : Bool) : (t.wrK r x m).edetail = t.edetail := rfl
@[simp] theorem ests_wrK (t : Strand) (r : KReg) (x : Option Stream) (m : Bool) : (t.wrK r x m).ests = t.ests := rfl
@[simp] theorem kscratch_wrK (t : Strand) (r : KReg) (x : Option Stream) (m : Bool) : (t.wrK r x m).kscratch = t.kscratch := rfl
@[simp] theorem svsts_wrK (t : Strand) (r : KReg) (x : Option Stream) (m : Bool) : (t.wrK r x m).svsts = t.svsts := rfl
@[simp] theorem regstat_wrK (t : Strand) (r : KReg) (x : Option Stream) (m : Bool) : (t.wrK r x m).regstat = t.regstat := rfl
@[simp] theorem stackbase_wrK (t : Strand) (r : KReg) (x : Option Stream) (m : Bool) : (t.wrK r x m).stackbase = t.stackbase := rfl
@[simp] theorem cycles_wrK (t : Strand) (r : KReg) (x : Option Stream) (m : Bool) : (t.wrK r x m).cycles = t.cycles := rfl
@[simp] theorem smiss_wrK (t : Strand) (r : KReg) (x : Option Stream) (m : Bool) : (t.wrK r x m).smiss = t.smiss := rfl
@[simp] theorem spadOut_wrK (t : Strand) (r : KReg) (x : Option Stream) (m : Bool) : (t.wrK r x m).spadOut = t.spadOut := rfl
@[simp] theorem ahead_wrK (t : Strand) (r : KReg) (x : Option Stream) (m : Bool) : (t.wrK r x m).ahead = t.ahead := rfl
@[simp] theorem seen_wrK (t : Strand) (r : KReg) (x : Option Stream) (m : Bool) : (t.wrK r x m).seen = t.seen := rfl
@[simp] theorem inCheck_wrK (t : Strand) (r : KReg) (x : Option Stream) (m : Bool) : (t.wrK r x m).inCheck = t.inCheck := rfl
@[simp] theorem pendS_wrK (t : Strand) (r : KReg) (x : Option Stream) (m : Bool) : (t.wrK r x m).pendS = t.pendS := rfl
@[simp] theorem pendV_wrK (t : Strand) (r : KReg) (x : Option Stream) (m : Bool) : (t.wrK r x m).pendV = t.pendV := rfl
@[simp] theorem pendK_wrK (t : Strand) (r : KReg) (x : Option Stream) (m : Bool) : (t.wrK r x m).pendK = t.pendK := rfl
@[simp] theorem loads_wrK (t : Strand) (r : KReg) (x : Option Stream) (m : Bool) : (t.wrK r x m).loads = t.loads := rfl
@[simp] theorem buf_wrK (t : Strand) (r : KReg) (x : Option Stream) (m : Bool) : (t.wrK r x m).buf = t.buf := rfl
@[simp] theorem closed_wrK (t : Strand) (r : KReg) (x : Option Stream) (m : Bool) : (t.wrK r x m).closed = t.closed := rfl
@[simp] theorem effects_wrK (t : Strand) (r : KReg) (x : Option Stream) (m : Bool) : (t.wrK r x m).effects = t.effects := rfl
@[simp] theorem deferred_wrK (t : Strand) (r : KReg) (x : Option Stream) (m : Bool) : (t.wrK r x m).deferred = t.deferred := rfl
@[simp] theorem records_wrK (t : Strand) (r : KReg) (x : Option Stream) (m : Bool) : (t.wrK r x m).records = t.records := rfl
@[simp] theorem joins_wrK (t : Strand) (r : KReg) (x : Option Stream) (m : Bool) : (t.wrK r x m).joins = t.joins := rfl
@[simp] theorem undo_wrK (t : Strand) (r : KReg) (x : Option Stream) (m : Bool) : (t.wrK r x m).undo = t.undo := rfl
@[simp] theorem counts_wrK (t : Strand) (r : KReg) (x : Option Stream) (m : Bool) : (t.wrK r x m).counts = t.counts := rfl
@[simp] theorem wait_wrK (t : Strand) (r : KReg) (x : Option Stream) (m : Bool) : (t.wrK r x m).wait = t.wait := rfl
@[simp] theorem task_wrK (t : Strand) (r : KReg) (x : Option Stream) (m : Bool) : (t.wrK r x m).task = t.task := rfl
@[simp] theorem rid_wrK (t : Strand) (r : KReg) (x : Option Stream) (m : Bool) : (t.wrK r x m).rid = t.rid := rfl
@[simp] theorem taskNo_wrK (t : Strand) (r : KReg) (x : Option Stream) (m : Bool) : (t.wrK r x m).taskNo = t.taskNo := rfl
@[simp] theorem svIrrev_wrK (t : Strand) (r : KReg) (x : Option Stream) (m : Bool) : (t.wrK r x m).svIrrev = t.svIrrev := rfl
@[simp] theorem verdictGiven_wrK (t : Strand) (r : KReg) (x : Option Stream) (m : Bool) : (t.wrK r x m).verdictGiven = t.verdictGiven := rfl
@[simp] theorem dual_wrK (t : Strand) (r : KReg) (x : Option Stream) (m : Bool) : (t.wrK r x m).dual = t.dual := rfl
@[simp] theorem saved_wrK (t : Strand) (r : KReg) (x : Option Stream) (m : Bool) : (t.wrK r x m).saved = t.saved := rfl

/-! ### Hard-wired registers and reads after writes (02 R16) -/

@[simp] theorem rd_zero (t : Strand) : t.rd 0 = 0 := rfl
@[simp] theorem rdP_zero (t : Strand) : t.rdP 0 = BitVec.allOnes 64 := rfl
@[simp] theorem wr_zero (t : Strand) (x : Word) (m : Bool) : t.wr 0 x m = t := rfl
@[simp] theorem wrP_zero (t : Strand) (x : Word) (m : Bool) : t.wrP 0 x m = t := rfl

theorem rd_wr (t : Strand) (d r : SReg) (x : Word) (m : Bool) (hd : d ≠ 0) :
    (t.wr d x m).rd r = if r = d then x else t.rd r := by
  unfold Strand.rd Strand.wr
  rw [if_neg hd]
  by_cases h : r = d
  · subst h
    simp only [if_neg hd, Vector.getElem_set_self, if_true]
  · have hn : d.toNat ≠ r.toNat := fun e => h (BitVec.eq_of_toNat_eq e.symm)
    simp [h, hn]

theorem rdP_wrP (t : Strand) (d r : PReg) (x : Word) (m : Bool) (hd : d ≠ 0) :
    (t.wrP d x m).rdP r = if r = d then x else t.rdP r := by
  unfold Strand.rdP Strand.wrP
  rw [if_neg hd]
  by_cases h : r = d
  · subst h
    simp only [if_neg hd, Vector.getElem_set_self, if_true]
  · have hn : d.toNat ≠ r.toNat := fun e => h (BitVec.eq_of_toNat_eq e.symm)
    simp [h, hn]

theorem rdV_wrV (t : Strand) (d r : VReg) (x : Vec) (m : BitVec 8) :
    (t.wrV d x m).rdV r = if r = d then x else t.rdV r := by
  unfold Strand.rdV Strand.wrV
  by_cases h : r = d
  · subst h
    simp
  · have hn : d.toNat ≠ r.toNat := fun e => h (BitVec.eq_of_toNat_eq e.symm)
    simp [h, hn]

end Sys2Proof.Machine
end

