-- ==== Sys2Proof/Laws/Ops.lean ====
section
/-! SUPPORT. The checks before an instruction, poison, the ends of an instruction, taking a trap: each said once. -/

namespace Sys2Proof.Machine

/-! ### The checks (05 R108) -/

/-- Where every check passes the instruction has its effect. -/
theorem run_of {s : State} {n : Need} {body : Act} (h1 : n.px.allows s.me.pfxr = true) (h2 : n.ok = true)
    (h3 : n.priv = true → s.me.super = true) (h4 : s.me.markP (guardReg n.g) = false)
    (h5 : n.perByte = true ∨ s.me.guardOn n.g = true) (h6 : s.me.noPend n.ss n.vs n.ks = true) :
    run s n body = finish body := by
  have h6' : (sMask n.ss &&& s.me.pendS != 0 || vMask n.vs &&& s.me.pendV != 0 || kMask n.ks &&& s.me.pendK != 0) = false := by
    simp only [Strand.noPend, Bool.and_eq_true, beq_iff_eq] at h6
    simp [h6.1.1, h6.1.2, h6.2]
  unfold run checked
  dsimp only
  rw [h1, h2, h4, h6']
  rcases h5 with h5 | h5 <;> cases hp : n.priv <;> simp_all

/-- An instruction whose guard is read in bit 0 acts. -/
theorem run_acts {s : State} {px : Pfx} {g : Guard} {ss : List SReg} {body : Act} (h : s.acts px g ss = true) :
    run s { px := px, g := g, ss := ss } body = finish body := by
  simp only [State.acts, Bool.and_eq_true, Bool.not_eq_true'] at h
  exact run_of h.1.1.1 rfl (by simp) h.1.1.2 (.inr h.1.2) h.2

/-- The same with further legality and the supervisor check. -/
theorem run_acts' {s : State} {px : Pfx} {g : Guard} {ss : List SReg} {ok priv : Bool} {body : Act}
    (h : s.acts px g ss = true) (hok : ok = true) (hp : priv = true → s.me.super = true) :
    run s { px := px, ok := ok, priv := priv, g := g, ss := ss } body = finish body := by
  simp only [State.acts, Bool.and_eq_true, Bool.not_eq_true'] at h
  exact run_of h.1.1.1 hok hp h.1.1.2 (.inr h.1.2) h.2

/-- The same of an instruction with vector or stream registers. -/
theorem run_actsV {s : State} {px : Pfx} {g : Guard} {ss : List SReg} {vs : List VReg} {ks : List KReg} {ok : Bool}
    {body : Act} (h : s.actsV px g ss vs ks = true) (hok : ok = true) :
    run s { px := px, ok := ok, g := g, ss := ss, vs := vs, ks := ks } body = finish body := by
  simp only [State.actsV, Bool.and_eq_true, Bool.not_eq_true'] at h
  exact run_of h.1.1.1 hok (by simp) h.1.1.2 (.inr h.1.2) h.2

/-- An instruction that applies its guard byte by byte acts. -/
theorem run_actsB {s : State} {px : Pfx} {g : Guard} {ss : List SReg} {vs : List VReg} {ok : Bool} {body : Act}
    (h : s.actsB px g ss vs = true) (hok : ok = true) :
    run s { px := px, ok := ok, g := g, perByte := true, ss := ss, vs := vs } body = finish body := by
  simp only [State.actsB, Bool.and_eq_true, Bool.not_eq_true'] at h
  exact run_of h.1.1 hok (by simp) h.1.2 (.inl rfl) h.2

/-- A false guard: the next word, nothing else (05 R99). -/
theorem run_guard_false {s : State} {n : Need} {body : Act} (h1 : n.px.allows s.me.pfxr = true) (h2 : n.ok = true)
    (h3 : n.priv = true → s.me.super = true) (h4 : s.me.markP (guardReg n.g) = false) (h5 : n.perByte = false)
    (h6 : s.me.guardOn n.g = false) : run s n body = .next s.retire := by
  unfold run checked
  dsimp only
  rw [h1, h2, h4, h5, h6]
  cases hp : n.priv <;> simp_all [finish]

/-- A pairing with a prefix that 05 R106 forbids, or illegal fields: the illegal-instruction trap. -/
theorem run_illegal {s : State} {n : Need} {body : Act} (h : (n.px.allows s.me.pfxr && n.ok) = false) :
    run s n body = .next (s.takeTrap s.cur 1 0) := by
  unfold run checked
  dsimp only
  rw [h]
  rfl

/-- A supervisor instruction in user mode: the privilege trap (05 R98). -/
theorem run_privilege {s : State} {n : Need} {body : Act} (h1 : n.px.allows s.me.pfxr = true) (h2 : n.ok = true)
    (h3 : n.priv = true) (h4 : s.me.super = false) : run s n body = .next (s.takeTrap s.cur 2 0) := by
  unfold run checked
  dsimp only
  rw [h1, h2, h3, h4]
  rfl

/-- A pending register: the strand switches out (05 R100). -/
theorem run_pending {s : State} {n : Need} {body : Act} (h1 : n.px.allows s.me.pfxr = true) (h2 : n.ok = true)
    (h3 : n.priv = true → s.me.super = true) (h4 : s.me.markP (guardReg n.g) = false)
    (h5 : n.perByte = true ∨ s.me.guardOn n.g = true) (h6 : s.me.noPend n.ss n.vs n.ks = false) :
    run s n body = .next (s.onMe (fun t => { t with wait := .stalled })) := by
  have h6' : (sMask n.ss &&& s.me.pendS != 0 || vMask n.vs &&& s.me.pendV != 0 || kMask n.ks &&& s.me.pendK != 0) = true := by
    unfold Strand.noPend at h6
    unfold bne
    revert h6
    cases (sMask n.ss &&& s.me.pendS == 0) <;> cases (vMask n.vs &&& s.me.pendV == 0) <;>
      cases (kMask n.ks &&& s.me.pendK == 0) <;> simp
  unfold run checked
  dsimp only
  rw [h1, h2, h4, h6']
  rcases h5 with h5 | h5 <;> cases hp : n.priv <;> simp_all [finish]

/-! ### Poison (06 R109, R110) -/

theorem poisonS_clean {s : State} {l : List SReg} {k : Act} (h : s.clean l = true) : poisonS s l k = k := by
  have h' : s.me.firstMark l = none := by
    simp only [State.clean, List.all_eq_true, Bool.not_eq_true'] at h
    simp only [Strand.firstMark, List.find?_eq_none]
    intro r hr
    simp [h r hr]
  simp [poisonS, h']

theorem poisonP_clean {s : State} {l : List PReg} {k : Act} (h : s.cleanP l = true) : poisonP s l k = k := by
  have h' : l.find? s.me.markP = none := by
    simp only [State.cleanP, List.all_eq_true, Bool.not_eq_true'] at h
    simp only [List.find?_eq_none]
    intro r hr
    simp [h r hr]
  simp [poisonP, h']

theorem poisonS_mark {s : State} {l : List SReg} {k : Act} {r : SReg} (h : l.find? s.me.markS = some r) :
    poisonS s l k = .trap s 5 (BitVec.ofNat 64 r.toNat) := by
  simp only [poisonS, Strand.firstMark, h]

theorem poisonP_mark {s : State} {l : List PReg} {k : Act} {r : PReg} (h : l.find? s.me.markP = some r) :
    poisonP s l k = .trap s 5 (BitVec.ofNat 64 (0x200 + r.toNat)) := by
  simp only [poisonP, h]

/-! ### How an instruction ends -/

@[simp] theorem finish_done (s : State) : finish (.done s) = .next s.retire := rfl
@[simp] theorem finish_trap (s : State) (c : Nat) (d : Word) : finish (.trap s c d) = .next (s.takeTrap s.cur c d) := rfl
@[simp] theorem finish_gone (s : State) : finish (.gone s) = .next s := rfl
@[simp] theorem finish_stop (f : Fault) : finish (.stop f) = .fault f := rfl
@[simp] theorem finish_jump (s : State) (pc : Word) :
    finish (.jump s pc) = .next (s.onMe (fun t => { t.clearPfx with pc := pc })) := rfl
@[simp] theorem finish_stall (s : State) :
    finish (.stall s) = .next (s.onMe (fun t => { t with wait := .stalled })) := rfl

/-- A retired instruction writes only its strand. -/
theorem retire_onMe (s : State) (f : Strand → Strand) : (s.onMe f).retire = s.onMe (fun t => (f t).retire) :=
  onMe_onMe s f Strand.retire

/-- An instruction never stops but for a stack that no memory holds (20 R293). -/
theorem finish_next {a : Act} (h : ∀ f, a ≠ .stop f) : ∃ t, finish a = .next t := by
  cases a with
  | stop f => exact absurd rfl (h f)
  | _ => exact ⟨_, rfl⟩

/-! ### A trap of a user task of a region with a handler (19 R278) -/

/-- The state that the trap of a user strand leads to before the counters: what it saves and where it goes. -/
theorem enter_fields (t : Strand) (cause : Nat) (detail pc : Word) :
    (t.enter cause detail pc).epc = t.trapPc ∧ (t.enter cause detail pc).ecause = BitVec.ofNat 64 cause ∧
    (t.enter cause detail pc).edetail = detail ∧ (t.enter cause detail pc).ests = t.sts ∧
    (t.enter cause detail pc).svsts = 0x801 ∧ (t.enter cause detail pc).pfxr = 0 ∧ (t.enter cause detail pc).pc = pc ∧
    (t.enter cause detail pc).s = t.s := ⟨rfl, rfl, rfl, rfl, rfl, rfl, rfl, rfl⟩

end Sys2Proof.Machine
end

