-- ==== Sys2Proof/Laws/Access.lean ====
section
/-! SUPPORT. What taking a trap, an irrevocable act, a load, a store, the way to a home, a host
request, the end of a command and the dispenser's choice can come to: each said once. -/

namespace Sys2Proof.Machine

/-! ### Taking a trap (19 R278) -/

/-- A trap in supervisor mode is a double fault; u has the counters of traps and watchdog traps. -/
theorem takeTrap_double {s : State} {sid cause : Nat} {detail : Word} (h : (s.strand sid).super = true) :
    ∃ u, (u = s.count (s.strand sid).rid 7 ∨ u = (s.count (s.strand sid).rid 7).count (s.strand sid).rid 5) ∧
      s.takeTrap sid cause detail =
        u.killReport (s.strand sid).rid 0x84 (BitVec.ofNat 64 cause) (s.strand sid).trapPc := by
  unfold State.takeTrap
  simp only [h, if_true]
  by_cases hc : cause = 0x17
  · exact ⟨_, .inr rfl, by rw [if_pos hc]⟩
  · exact ⟨_, .inl rfl, by rw [if_neg hc]⟩

/-- A trap of a user strand outside a dual run, in a region that u (the state with its counters) knows: its handler, or
the end of a region without one. -/
theorem takeTrap_user {s u : State} {sid cause : Nat} {detail : Word} {r : Region}
    (hu : u = if cause = 0x17 then (s.count (s.strand sid).rid 7).count (s.strand sid).rid 5 else s.count (s.strand sid).rid 7)
    (h1 : (s.strand sid).super = false) (h2 : (s.strand sid).dual = none) (hr : u.region (s.strand sid).rid = some r) :
    s.takeTrap sid cause detail =
      if r.fhandler = 0 then u.killReport (s.strand sid).rid cause detail (s.strand sid).trapPc
      else u.setStrand sid ((s.strand sid).enter cause detail r.fhandler) := by
  unfold State.takeTrap
  simp only [h1, h2, Option.isSome_none, Bool.false_eq_true, if_false]
  rw [← hu, hr]

/-- A trap in a dual run stops both runs (19 R289). -/
theorem takeTrap_dual {s u : State} {sid cause : Nat} {detail : Word}
    (hu : u = if cause = 0x17 then (s.count (s.strand sid).rid 7).count (s.strand sid).rid 5 else s.count (s.strand sid).rid 7)
    (h1 : (s.strand sid).super = false) (h2 : (s.strand sid).dual.isSome = true) :
    s.takeTrap sid cause detail = u.dualFault sid cause detail := by
  unfold State.takeTrap
  simp only [h1, h2, Bool.false_eq_true, if_false, if_true]
  rw [← hu]

/-! ### Irrevocable acts and room (02 R36, R38, 05 R101) -/

theorem irrevocable_single {s : State} {k : State → Act} (h : s.me.dual = none) :
    irrevocable s k = k (s.irrevAct s.cur) := by
  simp [irrevocable, h]

theorem irrevocable_dual {s : State} {k : State → Act} (h : s.me.dual.isSome = true) :
    irrevocable s k = .trap s 0x13 0 := by
  simp [irrevocable, h]

theorem memRoom_of {s : State} {k : Act} (h : s.hasRoom = true) : memRoom s k = k := by
  simp only [State.hasRoom, Bool.and_eq_true, Bool.not_eq_true', decide_eq_true_eq] at h
  unfold memRoom
  rw [if_neg]
  simp only [h.1, Bool.false_or, decide_eq_true_eq]
  omega

theorem engineRoom_of {s : State} {k : Act} (h : s.enginesOut s.cur < 16) : engineRoom s k = k := by
  unfold engineRoom
  rw [if_neg (by omega)]

theorem memRoom_full {s : State} {k : Act} (h : s.hasRoom = false) : memRoom s k = .stall s := by
  simp only [State.hasRoom, Bool.and_eq_false_iff, Bool.not_eq_false', decide_eq_false_iff_not] at h
  simp only [memRoom, Bool.or_eq_true, decide_eq_true_eq]
  rw [if_pos (h.imp_right (by omega))]

theorem engineRoom_full {s : State} {k : Act} (h : 16 ≤ s.enginesOut s.cur) : engineRoom s k = .stall s := by
  simp only [engineRoom, if_pos h]

/-! ### Loads and stores (06 R123, R124) -/

theorem loadBytes_ok {s u : State} {a : Word} {offs : List Nat} {how : How} {bs : List (Byte × Bool)} {key : Option Nat}
    {k : State → List (Byte × Bool) → Option Nat → Act} (h : s.reading a offs how = .ok (u, bs, key)) :
    loadBytes s a offs how k = k u bs key := by
  simp [loadBytes, h]

theorem loadBytes_error {s : State} {a : Word} {offs : List Nat} {how : How} {x : Act}
    {k : State → List (Byte × Bool) → Option Nat → Act} (h : s.reading a offs how = .error x) :
    loadBytes s a offs how k = x := by
  simp [loadBytes, h]

theorem storeBytes_ok {s u : State} {a : Word} {l : List (Nat × Byte × Bool)} {rel : Option (BitVec 2)} {k : State → Act}
    (h : s.storing a l rel = .ok u) : storeBytes s a l rel k = k u := by
  simp [storeBytes, h]

theorem storeBytes_error {s : State} {a : Word} {l : List (Nat × Byte × Bool)} {rel : Option (BitVec 2)} {x : Act}
    {k : State → Act} (h : s.storing a l rel = .error x) : storeBytes s a l rel k = x := by
  simp [storeBytes, h]

/-- A plain or volatile load whose bytes can be read leaves them on their way to S[d]. -/
theorem scalarLoad_ok {s u : State} {d : SReg} {a : Word} {n : Nat} {signed : Bool} {how : How}
    {bs : List (Byte × Bool)} {key : Option Nat} (hr : s.hasRoom = true) (hh : how = .plain ∨ how = .vol)
    (h : s.reading a (List.range n) how = .ok (u, bs, key)) :
    scalarLoad s d a n signed how = .done (u.addLoad [.s d (extendLoad n signed bs) (anyMark bs)]) := by
  unfold scalarLoad
  rw [memRoom_of hr, loadBytes_ok h]
  rcases hh with rfl | rfl <;> rfl

theorem scalarStore_ok {s u : State} {d : SReg} {a : Word} {n : Nat} {rel : Option (BitVec 2)} (hr : s.hasRoom = true)
    (h : s.storing a ((List.range n).map (fun i => (i, byteAt (s.me.rd d) i, s.me.markS d))) rel = .ok u) :
    scalarStore s d a n rel = .done u := by
  unfold scalarStore
  rw [memRoom_of hr, storeBytes_ok h]

/-! ### What a release closes, the units of a scratchpad store (02 R37, 03 R53, 06 R130) -/

theorem mergeUnits_take {n : Nat} {units b : List BufUnit} (h : n ≤ b.length) : (mergeUnits n units b).take n = b.take n := by
  simp [mergeUnits, Nat.min_eq_left h]

theorem spadUnits_bytes {label elem o : Nat} {l : List (Nat × Byte × Bool)} {x : SpadStore} (h : x ∈ spadUnits label elem o l) :
    x.off = o ∧ x.issued = label ∧ x.elem = elem ∧ ∀ y ∈ x.bytes, y ∈ l := by
  obtain ⟨u, -, rfl⟩ := List.mem_map.mp h
  exact ⟨rfl, rfl, rfl, fun y hy => List.mem_of_mem_filter hy⟩

/-! ### The end of an engine command (03 R50, 05 R100) -/

@[simp] theorem mem_wake (s : State) (sid : Nat) : (s.wake sid).mem = s.mem := by
  unfold State.wake; dsimp only; split <;> rfl

@[simp] theorem mem_dropWritten (s : State) (sid cmd : Nat) : (s.dropWritten sid cmd).mem = s.mem := by
  unfold State.dropWritten State.dropLines; repeat' split
  all_goals rfl

@[simp] theorem mem_completeToken (s : State) (sid no : Nat) (r : SReg) (x : Word) : (s.completeToken sid no r x).mem = s.mem := by
  unfold State.completeToken State.onRegion; dsimp only; repeat' split
  all_goals rfl

/-- A command that completes leaves memory alone. -/
@[simp] theorem mem_commandEnds (s : State) (sid no cmd : Nat) (r : SReg) (x : Word) : (s.commandEnds sid no cmd r x).mem = s.mem := by
  simp [State.commandEnds]

/-! ### Translation faults and homes (20 R302, 06 R126) -/

/-- A fault of a class is a precise trap; a page that is not present gives a page request, and the access of a supervisor or
irrevocable task parks. -/
theorem xlatFault_class {s : State} {k : AccKind} {n va : Nat} :
    xlatFault s k (.cls n, va) = .trap s 0x0E (BitVec.ofNat 64 (n * 2 ^ 56 + va)) := rfl

theorem xlatFault_absent {s : State} {k : AccKind} {va : Nat} : xlatFault s k (.notPresent, va) = notPresent s va k := rfl

theorem homePlace_misaligned {s : State} {a : Word} {n : Nat} {kind : AccKind} (h : a.toNat % n ≠ 0) :
    s.homePlace a n kind = .error (.trap s 6 a) := by
  unfold State.homePlace
  rw [if_pos h]

theorem homePlace_fault {s u : State} {a : Word} {n : Nat} {kind : AccKind} {e : XErr × Nat} (h : a.toNat % n = 0)
    (hx : s.xlatMine kind [a.toNat] = (u, .error e)) : s.homePlace a n kind = .error (xlatFault u kind e) := by
  unfold State.homePlace
  rw [if_neg (by simp [h]), hx]

/-- Where no other owner holds the bytes, the place is the one that translation gives. -/
theorem homePlace_ok {s u : State} {a : Word} {n : Nat} {kind : AccKind} {m : List (Nat × Xlat)} (h : a.toNat % n = 0)
    (hx : s.xlatMine kind [a.toNat] = (u, .ok m))
    (hw : kind.writes = true → woRefused u u.me.rid 0 ((List.range n).map (a.toNat + ·)) = none) :
    s.homePlace a n kind = .ok (u, placeOf m a.toNat) := by
  unfold State.homePlace
  rw [if_neg (by simp [h]), hx]
  cases hk : kind.writes <;> simp_all

/-! ### Host requests (21 R318, R319) -/

theorem request_lost {s : State} {pid queue : Nat} {r : HostReq} (h : s.hostReaches pid = none) : s.request pid queue r = s := by
  simp [State.request, h]

theorem request_waits {s : State} {pid queue : Nat} {r : HostReq} {p : Partition} (h : s.hostReaches pid = some p)
    (hb : s.queueBusy pid queue = true) : s.request pid queue r = { s with waiting := s.waiting ++ [(pid, queue, r)] } := by
  simp [State.request, h, hb]

theorem request_performs {s : State} {pid queue : Nat} {r : HostReq} {p : Partition} (h : s.hostReaches pid = some p)
    (hb : s.queueBusy pid queue = false) : s.request pid queue r = s.performed p pid queue r := by
  simp [State.request, h, hb]

@[simp] theorem mem_notified (s : State) (pid queue : Nat) (tag : BitVec 32) : (s.notified pid queue tag).mem = s.mem := rfl
@[simp] theorem regions_notified (s : State) (pid queue : Nat) (tag : BitVec 32) : (s.notified pid queue tag).regions = s.regions := rfl
@[simp] theorem strands_notified (s : State) (pid queue : Nat) (tag : BitVec 32) : (s.notified pid queue tag).strands = s.strands := rfl

/-! ### The choice of the dispenser (19 R286) -/

/-- What `pickBest` answers is of the list. -/
theorem mem_of_pickBest {α : Type} {better : α → α → Bool} {l : List α} {x : α} (h : pickBest better l = some x) : x ∈ l := by
  cases l with
  | nil => cases h
  | cons y r =>
    have fold : ∀ y, r.foldl (fun m z => if better z m then z else m) y ∈ y :: r := by
      clear h
      induction r with
      | nil => simp
      | cons z r ih =>
        intro y
        rw [List.foldl_cons]
        by_cases hz : better z y = true
        · rw [if_pos hz]
          exact List.mem_cons_of_mem _ (ih z)
        · rw [if_neg hz]
          rcases List.mem_cons.1 (ih y) with hy | hy
          · rw [hy]; exact .head _
          · exact .tail _ (.tail _ hy)
    have hx : r.foldl (fun m z => if better z m then z else m) y = x := by simpa [pickBest] using h
    exact hx ▸ fold y

/-- What `pickBest` answers has the least key of the list. -/
theorem pickBest_least {α : Type} {f : α → Nat} {l : List α} {x : α} (h : pickBest (fun a b => f a < f b) l = some x) :
    ∀ y ∈ l, f x ≤ f y := by
  cases l with
  | nil => cases h
  | cons z r =>
    have fold : ∀ z, (∀ y ∈ z :: r, f (r.foldl (fun m y => if decide (f y < f m) then y else m) z) ≤ f y) := by
      clear h
      induction r with
      | nil => simp
      | cons w r ih =>
        intro z y hy
        rw [List.foldl_cons]
        by_cases hw : f w < f z
        · rw [if_pos (by simpa using hw)]
          rcases List.mem_cons.1 hy with rfl | hy
          · exact le_trans (ih w w (.head _)) hw.le
          · exact ih w y hy
        · rw [if_neg (by simpa using hw)]
          rcases List.mem_cons.1 hy with rfl | hy
          · exact ih y y (.head _)
          · rcases List.mem_cons.1 hy with rfl | hy
            · exact le_trans (ih z z (.head _)) (by omega)
            · exact ih z y (.tail _ hy)
    have hx : r.foldl (fun m y => if decide (f y < f m) then y else m) z = x := by simpa [pickBest] using h
    exact hx ▸ fold z

/-- Aged work is taken from the list, and none of it has waited longer (R286 item 2). -/
theorem of_agedChoice {l : List Cand} {c : Cand} (h : agedChoice l = some c) : c ∈ l ∧ ∀ y ∈ l, c.w.t0 ≤ y.w.t0 :=
  ⟨mem_of_pickBest h, pickBest_least h⟩

/-- Where work of a kind that lanes do not hold is among the list, the choice is of the first such kind (R286 item 4). -/
theorem of_choiceIn {r : Region} {l : List Cand} {c y : Cand} (hy : y ∈ l) (hr : y.src.rank ≤ 4) (h : choiceIn r l = some c) :
    c ∈ l ∧ ∀ z ∈ l, c.src.rank ≤ z.src.rank := by
  unfold choiceIn at h
  split at h
  · next x hx =>
    cases h
    have hm := mem_of_pickBest hx
    rw [List.mem_filter, decide_eq_true_eq] at hm
    refine ⟨hm.1, fun z hz => ?_⟩
    by_cases h4 : z.src.rank ≤ 4
    · exact pickBest_least hx z (List.mem_filter.2 ⟨hz, by simpa using h4⟩)
    · omega
  · next hn =>
    have hm : y ∈ l.filter (fun c => c.src.rank ≤ 4) := List.mem_filter.2 ⟨hy, by simpa using hr⟩
    cases hl : l.filter (fun c => c.src.rank ≤ 4) with
    | nil => simp [hl] at hm
    | cons a b => simp [hl, pickBest] at hn

end Sys2Proof.Machine
end

