-- ==== Sys2Proof/Laws/Encoding.lean ====
section
/-! SUPPORT. The fields of a packed word, and what the decoder does with a word of each format. -/

namespace Sys2Proof

/-- A field that lies in the upper part of a concatenation. -/
theorem append_hi {m n s k : Nat} {x : BitVec m} {y : BitVec n} (h : n ≤ s) :
    (x ++ y).extractLsb' s k = x.extractLsb' (s - n) k := BitVec.extractLsb'_append_eq_of_le h

/-- A field that lies in the lower part of a concatenation. -/
theorem append_lo {m n s k : Nat} {x : BitVec m} {y : BitVec n} (h : s + k ≤ n) :
    (x ++ y).extractLsb' s k = y.extractLsb' s k := BitVec.extractLsb'_append_eq_of_add_le h

@[simp] theorem fOp_wA (op : BitVec 6) (g : BitVec 4) (d : BitVec 5) (a : BitVec 5) (b : BitVec 5) (fn : BitVec 7) :
    fOp (wA op g d a b fn) = op := by
  simp only [fOp, wA]
  rw [append_hi (by decide), append_hi (by decide), append_hi (by decide), append_hi (by decide), append_hi (by decide)]
  exact BitVec.extractLsb'_eq_self

@[simp] theorem fG_wA (op : BitVec 6) (g : BitVec 4) (d : BitVec 5) (a : BitVec 5) (b : BitVec 5) (fn : BitVec 7) :
    fG (wA op g d a b fn) = g := by
  simp only [fG, wA]
  rw [append_hi (by decide), append_hi (by decide), append_hi (by decide), append_hi (by decide), append_lo (by decide)]
  exact BitVec.extractLsb'_eq_self

@[simp] theorem fD_wA (op : BitVec 6) (g : BitVec 4) (d : BitVec 5) (a : BitVec 5) (b : BitVec 5) (fn : BitVec 7) :
    fD (wA op g d a b fn) = d := by
  simp only [fD, wA]
  rw [append_hi (by decide), append_hi (by decide), append_hi (by decide), append_lo (by decide)]
  exact BitVec.extractLsb'_eq_self

@[simp] theorem fA_wA (op : BitVec 6) (g : BitVec 4) (d : BitVec 5) (a : BitVec 5) (b : BitVec 5) (fn : BitVec 7) :
    fA (wA op g d a b fn) = a := by
  simp only [fA, wA]
  rw [append_hi (by decide), append_hi (by decide), append_lo (by decide)]
  exact BitVec.extractLsb'_eq_self

@[simp] theorem fB_wA (op : BitVec 6) (g : BitVec 4) (d : BitVec 5) (a : BitVec 5) (b : BitVec 5) (fn : BitVec 7) :
    fB (wA op g d a b fn) = b := by
  simp only [fB, wA]
  rw [append_hi (by decide), append_lo (by decide)]
  exact BitVec.extractLsb'_eq_self

@[simp] theorem fFn_wA (op : BitVec 6) (g : BitVec 4) (d : BitVec 5) (a : BitVec 5) (b : BitVec 5) (fn : BitVec 7) :
    fFn (wA op g d a b fn) = fn := by
  simp only [fFn, wA]
  rw [append_lo (by decide)]
  exact BitVec.extractLsb'_eq_self

@[simp] theorem fOp_wI (op : BitVec 6) (g : BitVec 4) (d : BitVec 5) (a : BitVec 5) (imm : BitVec 12) :
    fOp (wI op g d a imm) = op := by
  simp only [fOp, wI]
  rw [append_hi (by decide), append_hi (by decide), append_hi (by decide), append_hi (by decide)]
  exact BitVec.extractLsb'_eq_self

@[simp] theorem fG_wI (op : BitVec 6) (g : BitVec 4) (d : BitVec 5) (a : BitVec 5) (imm : BitVec 12) :
    fG (wI op g d a imm) = g := by
  simp only [fG, wI]
  rw [append_hi (by decide), append_hi (by decide), append_hi (by decide), append_lo (by decide)]
  exact BitVec.extractLsb'_eq_self

@[simp] theorem fD_wI (op : BitVec 6) (g : BitVec 4) (d : BitVec 5) (a : BitVec 5) (imm : BitVec 12) :
    fD (wI op g d a imm) = d := by
  simp only [fD, wI]
  rw [append_hi (by decide), append_hi (by decide), append_lo (by decide)]
  exact BitVec.extractLsb'_eq_self

@[simp] theorem fA_wI (op : BitVec 6) (g : BitVec 4) (d : BitVec 5) (a : BitVec 5) (imm : BitVec 12) :
    fA (wI op g d a imm) = a := by
  simp only [fA, wI]
  rw [append_hi (by decide), append_lo (by decide)]
  exact BitVec.extractLsb'_eq_self

@[simp] theorem fImm12_wI (op : BitVec 6) (g : BitVec 4) (d : BitVec 5) (a : BitVec 5) (imm : BitVec 12) :
    fImm12 (wI op g d a imm) = imm := by
  simp only [fImm12, wI]
  rw [append_lo (by decide)]
  exact BitVec.extractLsb'_eq_self

@[simp] theorem fOp_wIC (op : BitVec 6) (g : BitVec 4) (p : BitVec 3) (cc : BitVec 4) (a : BitVec 5) (imm : BitVec 10) :
    fOp (wIC op g p cc a imm) = op := by
  simp only [fOp, wIC]
  rw [append_hi (by decide), append_hi (by decide), append_hi (by decide), append_hi (by decide), append_hi (by decide)]
  exact BitVec.extractLsb'_eq_self

@[simp] theorem fG_wIC (op : BitVec 6) (g : BitVec 4) (p : BitVec 3) (cc : BitVec 4) (a : BitVec 5) (imm : BitVec 10) :
    fG (wIC op g p cc a imm) = g := by
  simp only [fG, wIC]
  rw [append_hi (by decide), append_hi (by decide), append_hi (by decide), append_hi (by decide), append_lo (by decide)]
  exact BitVec.extractLsb'_eq_self

@[simp] theorem fImm10_wIC (op : BitVec 6) (g : BitVec 4) (p : BitVec 3) (cc : BitVec 4) (a : BitVec 5) (imm : BitVec 10) :
    fImm10 (wIC op g p cc a imm) = imm := by
  simp only [fImm10, wIC]
  rw [append_lo (by decide)]
  exact BitVec.extractLsb'_eq_self

@[simp] theorem fPd_wIC (op : BitVec 6) (g : BitVec 4) (p : BitVec 3) (cc : BitVec 4) (a : BitVec 5) (imm : BitVec 10) :
    fPd (wIC op g p cc a imm) = p := by
  simp only [fPd, wIC]
  rw [append_hi (by decide), append_hi (by decide), append_hi (by decide), append_lo (by decide)]
  exact BitVec.extractLsb'_eq_self

@[simp] theorem fCond_wIC (op : BitVec 6) (g : BitVec 4) (p : BitVec 3) (cc : BitVec 4) (a : BitVec 5) (imm : BitVec 10) :
    fCond (wIC op g p cc a imm) = cc := by
  simp only [fCond, wIC]
  rw [append_hi (by decide), append_hi (by decide), append_lo (by decide)]
  exact BitVec.extractLsb'_eq_self

@[simp] theorem fA10_wIC (op : BitVec 6) (g : BitVec 4) (p : BitVec 3) (cc : BitVec 4) (a : BitVec 5) (imm : BitVec 10) :
    fA10 (wIC op g p cc a imm) = a := by
  simp only [fA10, wIC]
  rw [append_hi (by decide), append_lo (by decide)]
  exact BitVec.extractLsb'_eq_self

@[simp] theorem fEo_wIC (op : BitVec 6) (g : BitVec 4) (p : BitVec 3) (cc : BitVec 4) (a : BitVec 5) (imm : BitVec 10) :
    fEo (wIC op g p cc a imm) = p := by
  simp only [fEo, wIC]
  rw [append_hi (by decide), append_hi (by decide), append_hi (by decide), append_lo (by decide)]
  exact BitVec.extractLsb'_eq_self

@[simp] theorem fOp_wBR (op : BitVec 6) (cc : BitVec 4) (a : BitVec 5) (b : BitVec 5) (off : BitVec 12) :
    fOp (wBR op cc a b off) = op := by
  simp only [fOp, wBR]
  rw [append_hi (by decide), append_hi (by decide), append_hi (by decide), append_hi (by decide)]
  exact BitVec.extractLsb'_eq_self

@[simp] theorem fG_wBR (op : BitVec 6) (cc : BitVec 4) (a : BitVec 5) (b : BitVec 5) (off : BitVec 12) :
    fG (wBR op cc a b off) = cc := by
  simp only [fG, wBR]
  rw [append_hi (by decide), append_hi (by decide), append_hi (by decide), append_lo (by decide)]
  exact BitVec.extractLsb'_eq_self

@[simp] theorem fD_wBR (op : BitVec 6) (cc : BitVec 4) (a : BitVec 5) (b : BitVec 5) (off : BitVec 12) :
    fD (wBR op cc a b off) = a := by
  simp only [fD, wBR]
  rw [append_hi (by decide), append_hi (by decide), append_lo (by decide)]
  exact BitVec.extractLsb'_eq_self

@[simp] theorem fA_wBR (op : BitVec 6) (cc : BitVec 4) (a : BitVec 5) (b : BitVec 5) (off : BitVec 12) :
    fA (wBR op cc a b off) = b := by
  simp only [fA, wBR]
  rw [append_hi (by decide), append_lo (by decide)]
  exact BitVec.extractLsb'_eq_self

@[simp] theorem fImm12_wBR (op : BitVec 6) (cc : BitVec 4) (a : BitVec 5) (b : BitVec 5) (off : BitVec 12) :
    fImm12 (wBR op cc a b off) = off := by
  simp only [fImm12, wBR]
  rw [append_lo (by decide)]
  exact BitVec.extractLsb'_eq_self

@[simp] theorem fOp_wJ (op : BitVec 6) (d : BitVec 5) (imm : BitVec 21) :
    fOp (wJ op d imm) = op := by
  simp only [fOp, wJ]
  rw [append_hi (by decide), append_hi (by decide)]
  exact BitVec.extractLsb'_eq_self

@[simp] theorem fImm21_wJ (op : BitVec 6) (d : BitVec 5) (imm : BitVec 21) :
    fImm21 (wJ op d imm) = imm := by
  simp only [fImm21, wJ]
  rw [append_lo (by decide)]
  exact BitVec.extractLsb'_eq_self

@[simp] theorem fTop_wJ (op : BitVec 6) (d : BitVec 5) (imm : BitVec 21) :
    fTop (wJ op d imm) = d := by
  simp only [fTop, wJ]
  rw [append_hi (by decide), append_lo (by decide)]
  exact BitVec.extractLsb'_eq_self

@[simp] theorem fOp_wE (op : BitVec 6) (g : BitVec 4) (o : BitVec 3) (acq : BitVec 1) (sc : BitVec 2) (t : BitVec 5) (a : BitVec 5) (b : BitVec 5) (rel : BitVec 1) :
    fOp (wE op g o acq sc t a b rel) = op := by
  simp only [fOp, wE]
  rw [append_hi (by decide), append_hi (by decide), append_hi (by decide), append_hi (by decide), append_hi (by decide), append_hi (by decide), append_hi (by decide), append_hi (by decide)]
  exact BitVec.extractLsb'_eq_self

@[simp] theorem fG_wE (op : BitVec 6) (g : BitVec 4) (o : BitVec 3) (acq : BitVec 1) (sc : BitVec 2) (t : BitVec 5) (a : BitVec 5) (b : BitVec 5) (rel : BitVec 1) :
    fG (wE op g o acq sc t a b rel) = g := by
  simp only [fG, wE]
  rw [append_hi (by decide), append_hi (by decide), append_hi (by decide), append_hi (by decide), append_hi (by decide), append_hi (by decide), append_hi (by decide), append_lo (by decide)]
  exact BitVec.extractLsb'_eq_self

@[simp] theorem fPd_wE (op : BitVec 6) (g : BitVec 4) (o : BitVec 3) (acq : BitVec 1) (sc : BitVec 2) (t : BitVec 5) (a : BitVec 5) (b : BitVec 5) (rel : BitVec 1) :
    fPd (wE op g o acq sc t a b rel) = o := by
  simp only [fPd, wE]
  rw [append_hi (by decide), append_hi (by decide), append_hi (by decide), append_hi (by decide), append_hi (by decide), append_hi (by decide), append_lo (by decide)]
  exact BitVec.extractLsb'_eq_self

@[simp] theorem fEo_wE (op : BitVec 6) (g : BitVec 4) (o : BitVec 3) (acq : BitVec 1) (sc : BitVec 2) (t : BitVec 5) (a : BitVec 5) (b : BitVec 5) (rel : BitVec 1) :
    fEo (wE op g o acq sc t a b rel) = o := by
  simp only [fEo, wE]
  rw [append_hi (by decide), append_hi (by decide), append_hi (by decide), append_hi (by decide), append_hi (by decide), append_hi (by decide), append_lo (by decide)]
  exact BitVec.extractLsb'_eq_self

@[simp] theorem fEacq_wE (op : BitVec 6) (g : BitVec 4) (o : BitVec 3) (acq : BitVec 1) (sc : BitVec 2) (t : BitVec 5) (a : BitVec 5) (b : BitVec 5) (rel : BitVec 1) :
    fEacq (wE op g o acq sc t a b rel) = acq := by
  simp only [fEacq, wE]
  rw [append_hi (by decide), append_hi (by decide), append_hi (by decide), append_hi (by decide), append_hi (by decide), append_lo (by decide)]
  exact BitVec.extractLsb'_eq_self

@[simp] theorem fEsc_wE (op : BitVec 6) (g : BitVec 4) (o : BitVec 3) (acq : BitVec 1) (sc : BitVec 2) (t : BitVec 5) (a : BitVec 5) (b : BitVec 5) (rel : BitVec 1) :
    fEsc (wE op g o acq sc t a b rel) = sc := by
  simp only [fEsc, wE]
  rw [append_hi (by decide), append_hi (by decide), append_hi (by decide), append_hi (by decide), append_lo (by decide)]
  exact BitVec.extractLsb'_eq_self

@[simp] theorem fEt_wE (op : BitVec 6) (g : BitVec 4) (o : BitVec 3) (acq : BitVec 1) (sc : BitVec 2) (t : BitVec 5) (a : BitVec 5) (b : BitVec 5) (rel : BitVec 1) :
    fEt (wE op g o acq sc t a b rel) = t := by
  simp only [fEt, wE]
  rw [append_hi (by decide), append_hi (by decide), append_hi (by decide), append_lo (by decide)]
  exact BitVec.extractLsb'_eq_self

@[simp] theorem fEa_wE (op : BitVec 6) (g : BitVec 4) (o : BitVec 3) (acq : BitVec 1) (sc : BitVec 2) (t : BitVec 5) (a : BitVec 5) (b : BitVec 5) (rel : BitVec 1) :
    fEa (wE op g o acq sc t a b rel) = a := by
  simp only [fEa, wE]
  rw [append_hi (by decide), append_hi (by decide), append_lo (by decide)]
  exact BitVec.extractLsb'_eq_self

@[simp] theorem fEb_wE (op : BitVec 6) (g : BitVec 4) (o : BitVec 3) (acq : BitVec 1) (sc : BitVec 2) (t : BitVec 5) (a : BitVec 5) (b : BitVec 5) (rel : BitVec 1) :
    fEb (wE op g o acq sc t a b rel) = b := by
  simp only [fEb, wE]
  rw [append_hi (by decide), append_lo (by decide)]
  exact BitVec.extractLsb'_eq_self

@[simp] theorem fErel_wE (op : BitVec 6) (g : BitVec 4) (o : BitVec 3) (acq : BitVec 1) (sc : BitVec 2) (t : BitVec 5) (a : BitVec 5) (b : BitVec 5) (rel : BitVec 1) :
    fErel (wE op g o acq sc t a b rel) = rel := by
  simp only [fErel, wE]
  rw [append_lo (by decide)]
  exact BitVec.extractLsb'_eq_self

@[simp] theorem fOp_wP (op : BitVec 6) (sub : BitVec 4) (payload : BitVec 22) :
    fOp (wP op sub payload) = op := by
  simp only [fOp, wP]
  rw [append_hi (by decide), append_hi (by decide)]
  exact BitVec.extractLsb'_eq_self

@[simp] theorem fG_wP (op : BitVec 6) (sub : BitVec 4) (payload : BitVec 22) :
    fG (wP op sub payload) = sub := by
  simp only [fG, wP]
  rw [append_hi (by decide), append_lo (by decide)]
  exact BitVec.extractLsb'_eq_self

@[simp] theorem fPay_wP (op : BitVec 6) (sub : BitVec 4) (payload : BitVec 22) :
    fPay (wP op sub payload) = payload := by
  simp only [fPay, wP]
  rw [append_lo (by decide)]
  exact BitVec.extractLsb'_eq_self

@[simp] theorem fOp_wSYS (sub : BitVec 6) (a : BitVec 5) (b : BitVec 5) (imm : BitVec 10) :
    fOp (wSYS sub a b imm) = 0x3E#6 := by
  simp only [fOp, wSYS]
  rw [append_hi (by decide), append_hi (by decide), append_hi (by decide), append_hi (by decide)]
  exact BitVec.extractLsb'_eq_self

@[simp] theorem fImm10_wSYS (sub : BitVec 6) (a : BitVec 5) (b : BitVec 5) (imm : BitVec 10) :
    fImm10 (wSYS sub a b imm) = imm := by
  simp only [fImm10, wSYS]
  rw [append_lo (by decide)]
  exact BitVec.extractLsb'_eq_self

@[simp] theorem fA10_wSYS (sub : BitVec 6) (a : BitVec 5) (b : BitVec 5) (imm : BitVec 10) :
    fA10 (wSYS sub a b imm) = b := by
  simp only [fA10, wSYS]
  rw [append_hi (by decide), append_lo (by decide)]
  exact BitVec.extractLsb'_eq_self

@[simp] theorem fSub6_wSYS (sub : BitVec 6) (a : BitVec 5) (b : BitVec 5) (imm : BitVec 10) :
    fSub6 (wSYS sub a b imm) = sub := by
  simp only [fSub6, wSYS]
  rw [append_hi (by decide), append_hi (by decide), append_hi (by decide), append_lo (by decide)]
  exact BitVec.extractLsb'_eq_self

@[simp] theorem fSa_wSYS (sub : BitVec 6) (a : BitVec 5) (b : BitVec 5) (imm : BitVec 10) :
    fSa (wSYS sub a b imm) = a := by
  simp only [fSa, wSYS]
  rw [append_hi (by decide), append_hi (by decide), append_lo (by decide)]
  exact BitVec.extractLsb'_eq_self

/-! ### The parts of a split field, by its part widths and the place and width read -/

@[simp] theorem split_3_4_at_4_3 (x : BitVec 3) (y : BitVec 4) :
    BitVec.extractLsb' (n := 7) 4 3 (x ++ y) = x := by
  rw [append_hi (by decide)]
  exact BitVec.extractLsb'_eq_self

@[simp] theorem split_3_4_at_0_4 (x : BitVec 3) (y : BitVec 4) :
    BitVec.extractLsb' (n := 7) 0 4 (x ++ y) = y := by
  rw [append_lo (by decide)]
  exact BitVec.extractLsb'_eq_self

@[simp] theorem split_3_4_at_0_3 (x : BitVec 3) (y : BitVec 4) :
    BitVec.extractLsb' (n := 7) 0 3 (x ++ y) = y.extractLsb' 0 3 := by
  rw [append_lo (by decide)]

@[simp] theorem split_3_4_at_6_1 (x : BitVec 3) (y : BitVec 4) :
    BitVec.extractLsb' (n := 7) 6 1 (x ++ y) = x.extractLsb' 2 1 := by
  rw [append_hi (by decide)]

@[simp] theorem split_3_4_at_0_1 (x : BitVec 3) (y : BitVec 4) :
    BitVec.extractLsb' (n := 7) 0 1 (x ++ y) = y.extractLsb' 0 1 := by
  rw [append_lo (by decide)]

@[simp] theorem split_3_4_at_1_3 (x : BitVec 3) (y : BitVec 4) :
    BitVec.extractLsb' (n := 7) 1 3 (x ++ y) = y.extractLsb' 1 3 := by
  rw [append_lo (by decide)]

@[simp] theorem split_3_4_at_1_2 (x : BitVec 3) (y : BitVec 4) :
    BitVec.extractLsb' (n := 7) 1 2 (x ++ y) = y.extractLsb' 1 2 := by
  rw [append_lo (by decide)]

@[simp] theorem split_3_4_at_0_2 (x : BitVec 3) (y : BitVec 4) :
    BitVec.extractLsb' (n := 7) 0 2 (x ++ y) = y.extractLsb' 0 2 := by
  rw [append_lo (by decide)]

@[simp] theorem split_3_4_at_5_2 (x : BitVec 3) (y : BitVec 4) :
    BitVec.extractLsb' (n := 7) 5 2 (x ++ y) = x.extractLsb' 1 2 := by
  rw [append_hi (by decide)]

@[simp] theorem split_3_4_at_2_2 (x : BitVec 3) (y : BitVec 4) :
    BitVec.extractLsb' (n := 7) 2 2 (x ++ y) = y.extractLsb' 2 2 := by
  rw [append_lo (by decide)]

@[simp] theorem split_4_3_at_4_3 (x : BitVec 4) (y : BitVec 3) :
    BitVec.extractLsb' (n := 7) 4 3 (x ++ y) = x.extractLsb' 1 3 := by
  rw [append_hi (by decide)]

@[simp] theorem split_4_3_at_3_4 (x : BitVec 4) (y : BitVec 3) :
    BitVec.extractLsb' (n := 7) 3 4 (x ++ y) = x := by
  rw [append_hi (by decide)]
  exact BitVec.extractLsb'_eq_self

@[simp] theorem split_4_3_at_0_3 (x : BitVec 4) (y : BitVec 3) :
    BitVec.extractLsb' (n := 7) 0 3 (x ++ y) = y := by
  rw [append_lo (by decide)]
  exact BitVec.extractLsb'_eq_self

@[simp] theorem split_4_3_at_3_3 (x : BitVec 4) (y : BitVec 3) :
    BitVec.extractLsb' (n := 7) 3 3 (x ++ y) = x.extractLsb' 0 3 := by
  rw [append_hi (by decide)]

@[simp] theorem split_4_3_at_6_1 (x : BitVec 4) (y : BitVec 3) :
    BitVec.extractLsb' (n := 7) 6 1 (x ++ y) = x.extractLsb' 3 1 := by
  rw [append_hi (by decide)]

@[simp] theorem split_4_3_at_0_1 (x : BitVec 4) (y : BitVec 3) :
    BitVec.extractLsb' (n := 7) 0 1 (x ++ y) = y.extractLsb' 0 1 := by
  rw [append_lo (by decide)]

@[simp] theorem split_4_3_at_1_2 (x : BitVec 4) (y : BitVec 3) :
    BitVec.extractLsb' (n := 7) 1 2 (x ++ y) = y.extractLsb' 1 2 := by
  rw [append_lo (by decide)]

@[simp] theorem split_4_3_at_0_2 (x : BitVec 4) (y : BitVec 3) :
    BitVec.extractLsb' (n := 7) 0 2 (x ++ y) = y.extractLsb' 0 2 := by
  rw [append_lo (by decide)]

@[simp] theorem split_4_3_at_5_2 (x : BitVec 4) (y : BitVec 3) :
    BitVec.extractLsb' (n := 7) 5 2 (x ++ y) = x.extractLsb' 2 2 := by
  rw [append_hi (by decide)]

@[simp] theorem split_6_1_at_4_3 (x : BitVec 6) (y : BitVec 1) :
    BitVec.extractLsb' (n := 7) 4 3 (x ++ y) = x.extractLsb' 3 3 := by
  rw [append_hi (by decide)]

@[simp] theorem split_6_1_at_3_4 (x : BitVec 6) (y : BitVec 1) :
    BitVec.extractLsb' (n := 7) 3 4 (x ++ y) = x.extractLsb' 2 4 := by
  rw [append_hi (by decide)]

@[simp] theorem split_6_1_at_3_3 (x : BitVec 6) (y : BitVec 1) :
    BitVec.extractLsb' (n := 7) 3 3 (x ++ y) = x.extractLsb' 2 3 := by
  rw [append_hi (by decide)]

@[simp] theorem split_6_1_at_6_1 (x : BitVec 6) (y : BitVec 1) :
    BitVec.extractLsb' (n := 7) 6 1 (x ++ y) = x.extractLsb' 5 1 := by
  rw [append_hi (by decide)]

@[simp] theorem split_6_1_at_0_1 (x : BitVec 6) (y : BitVec 1) :
    BitVec.extractLsb' (n := 7) 0 1 (x ++ y) = y := by
  rw [append_lo (by decide)]
  exact BitVec.extractLsb'_eq_self

@[simp] theorem split_6_1_at_1_3 (x : BitVec 6) (y : BitVec 1) :
    BitVec.extractLsb' (n := 7) 1 3 (x ++ y) = x.extractLsb' 0 3 := by
  rw [append_hi (by decide)]

@[simp] theorem split_6_1_at_1_6 (x : BitVec 6) (y : BitVec 1) :
    BitVec.extractLsb' (n := 7) 1 6 (x ++ y) = x := by
  rw [append_hi (by decide)]
  exact BitVec.extractLsb'_eq_self

@[simp] theorem split_6_1_at_1_2 (x : BitVec 6) (y : BitVec 1) :
    BitVec.extractLsb' (n := 7) 1 2 (x ++ y) = x.extractLsb' 0 2 := by
  rw [append_hi (by decide)]

@[simp] theorem split_6_1_at_2_5 (x : BitVec 6) (y : BitVec 1) :
    BitVec.extractLsb' (n := 7) 2 5 (x ++ y) = x.extractLsb' 1 5 := by
  rw [append_hi (by decide)]

@[simp] theorem split_6_1_at_2_4 (x : BitVec 6) (y : BitVec 1) :
    BitVec.extractLsb' (n := 7) 2 4 (x ++ y) = x.extractLsb' 1 4 := by
  rw [append_hi (by decide)]

@[simp] theorem split_6_1_at_5_2 (x : BitVec 6) (y : BitVec 1) :
    BitVec.extractLsb' (n := 7) 5 2 (x ++ y) = x.extractLsb' 4 2 := by
  rw [append_hi (by decide)]

@[simp] theorem split_6_1_at_2_3 (x : BitVec 6) (y : BitVec 1) :
    BitVec.extractLsb' (n := 7) 2 3 (x ++ y) = x.extractLsb' 1 3 := by
  rw [append_hi (by decide)]

@[simp] theorem split_6_1_at_2_2 (x : BitVec 6) (y : BitVec 1) :
    BitVec.extractLsb' (n := 7) 2 2 (x ++ y) = x.extractLsb' 1 2 := by
  rw [append_hi (by decide)]

@[simp] theorem split_5_2_at_4_3 (x : BitVec 5) (y : BitVec 2) :
    BitVec.extractLsb' (n := 7) 4 3 (x ++ y) = x.extractLsb' 2 3 := by
  rw [append_hi (by decide)]

@[simp] theorem split_5_2_at_3_4 (x : BitVec 5) (y : BitVec 2) :
    BitVec.extractLsb' (n := 7) 3 4 (x ++ y) = x.extractLsb' 1 4 := by
  rw [append_hi (by decide)]

@[simp] theorem split_5_2_at_3_3 (x : BitVec 5) (y : BitVec 2) :
    BitVec.extractLsb' (n := 7) 3 3 (x ++ y) = x.extractLsb' 1 3 := by
  rw [append_hi (by decide)]

@[simp] theorem split_5_2_at_6_1 (x : BitVec 5) (y : BitVec 2) :
    BitVec.extractLsb' (n := 7) 6 1 (x ++ y) = x.extractLsb' 4 1 := by
  rw [append_hi (by decide)]

@[simp] theorem split_5_2_at_0_1 (x : BitVec 5) (y : BitVec 2) :
    BitVec.extractLsb' (n := 7) 0 1 (x ++ y) = y.extractLsb' 0 1 := by
  rw [append_lo (by decide)]

@[simp] theorem split_5_2_at_0_2 (x : BitVec 5) (y : BitVec 2) :
    BitVec.extractLsb' (n := 7) 0 2 (x ++ y) = y := by
  rw [append_lo (by decide)]
  exact BitVec.extractLsb'_eq_self

@[simp] theorem split_5_2_at_2_5 (x : BitVec 5) (y : BitVec 2) :
    BitVec.extractLsb' (n := 7) 2 5 (x ++ y) = x := by
  rw [append_hi (by decide)]
  exact BitVec.extractLsb'_eq_self

@[simp] theorem split_5_2_at_2_4 (x : BitVec 5) (y : BitVec 2) :
    BitVec.extractLsb' (n := 7) 2 4 (x ++ y) = x.extractLsb' 0 4 := by
  rw [append_hi (by decide)]

@[simp] theorem split_5_2_at_5_2 (x : BitVec 5) (y : BitVec 2) :
    BitVec.extractLsb' (n := 7) 5 2 (x ++ y) = x.extractLsb' 3 2 := by
  rw [append_hi (by decide)]

@[simp] theorem split_5_2_at_2_3 (x : BitVec 5) (y : BitVec 2) :
    BitVec.extractLsb' (n := 7) 2 3 (x ++ y) = x.extractLsb' 0 3 := by
  rw [append_hi (by decide)]

@[simp] theorem split_5_2_at_2_2 (x : BitVec 5) (y : BitVec 2) :
    BitVec.extractLsb' (n := 7) 2 2 (x ++ y) = x.extractLsb' 0 2 := by
  rw [append_hi (by decide)]

@[simp] theorem split_1_3_3_at_0_3 (x : BitVec 1) (y : BitVec 3) (z : BitVec 3) :
    BitVec.extractLsb' (n := 7) 0 3 (x ++ y ++ z) = z := by
  rw [append_lo (by decide)]
  exact BitVec.extractLsb'_eq_self

@[simp] theorem split_1_3_3_at_3_3 (x : BitVec 1) (y : BitVec 3) (z : BitVec 3) :
    BitVec.extractLsb' (n := 7) 3 3 (x ++ y ++ z) = y := by
  rw [append_hi (by decide), append_lo (by decide)]
  exact BitVec.extractLsb'_eq_self

@[simp] theorem split_1_3_3_at_6_1 (x : BitVec 1) (y : BitVec 3) (z : BitVec 3) :
    BitVec.extractLsb' (n := 7) 6 1 (x ++ y ++ z) = x := by
  rw [append_hi (by decide), append_hi (by decide)]
  exact BitVec.extractLsb'_eq_self

@[simp] theorem split_1_3_3_at_0_1 (x : BitVec 1) (y : BitVec 3) (z : BitVec 3) :
    BitVec.extractLsb' (n := 7) 0 1 (x ++ y ++ z) = z.extractLsb' 0 1 := by
  rw [append_lo (by decide)]

@[simp] theorem split_1_3_3_at_1_2 (x : BitVec 1) (y : BitVec 3) (z : BitVec 3) :
    BitVec.extractLsb' (n := 7) 1 2 (x ++ y ++ z) = z.extractLsb' 1 2 := by
  rw [append_lo (by decide)]

@[simp] theorem split_1_3_3_at_0_2 (x : BitVec 1) (y : BitVec 3) (z : BitVec 3) :
    BitVec.extractLsb' (n := 7) 0 2 (x ++ y ++ z) = z.extractLsb' 0 2 := by
  rw [append_lo (by decide)]

@[simp] theorem split_3_3_1_at_4_3 (x : BitVec 3) (y : BitVec 3) (z : BitVec 1) :
    BitVec.extractLsb' (n := 7) 4 3 (x ++ y ++ z) = x := by
  rw [append_hi (by decide), append_hi (by decide)]
  exact BitVec.extractLsb'_eq_self

@[simp] theorem split_3_3_1_at_6_1 (x : BitVec 3) (y : BitVec 3) (z : BitVec 1) :
    BitVec.extractLsb' (n := 7) 6 1 (x ++ y ++ z) = x.extractLsb' 2 1 := by
  rw [append_hi (by decide), append_hi (by decide)]

@[simp] theorem split_3_3_1_at_0_1 (x : BitVec 3) (y : BitVec 3) (z : BitVec 1) :
    BitVec.extractLsb' (n := 7) 0 1 (x ++ y ++ z) = z := by
  rw [append_lo (by decide)]
  exact BitVec.extractLsb'_eq_self

@[simp] theorem split_3_3_1_at_1_3 (x : BitVec 3) (y : BitVec 3) (z : BitVec 1) :
    BitVec.extractLsb' (n := 7) 1 3 (x ++ y ++ z) = y := by
  rw [append_hi (by decide), append_lo (by decide)]
  exact BitVec.extractLsb'_eq_self

@[simp] theorem split_3_3_1_at_1_2 (x : BitVec 3) (y : BitVec 3) (z : BitVec 1) :
    BitVec.extractLsb' (n := 7) 1 2 (x ++ y ++ z) = y.extractLsb' 0 2 := by
  rw [append_hi (by decide), append_lo (by decide)]

@[simp] theorem split_3_3_1_at_5_2 (x : BitVec 3) (y : BitVec 3) (z : BitVec 1) :
    BitVec.extractLsb' (n := 7) 5 2 (x ++ y ++ z) = x.extractLsb' 1 2 := by
  rw [append_hi (by decide), append_hi (by decide)]

@[simp] theorem split_3_3_1_at_2_2 (x : BitVec 3) (y : BitVec 3) (z : BitVec 1) :
    BitVec.extractLsb' (n := 7) 2 2 (x ++ y ++ z) = y.extractLsb' 1 2 := by
  rw [append_hi (by decide), append_lo (by decide)]

@[simp] theorem split_1_4_2_at_3_3 (x : BitVec 1) (y : BitVec 4) (z : BitVec 2) :
    BitVec.extractLsb' (n := 7) 3 3 (x ++ y ++ z) = y.extractLsb' 1 3 := by
  rw [append_hi (by decide), append_lo (by decide)]

@[simp] theorem split_1_4_2_at_6_1 (x : BitVec 1) (y : BitVec 4) (z : BitVec 2) :
    BitVec.extractLsb' (n := 7) 6 1 (x ++ y ++ z) = x := by
  rw [append_hi (by decide), append_hi (by decide)]
  exact BitVec.extractLsb'_eq_self

@[simp] theorem split_1_4_2_at_0_1 (x : BitVec 1) (y : BitVec 4) (z : BitVec 2) :
    BitVec.extractLsb' (n := 7) 0 1 (x ++ y ++ z) = z.extractLsb' 0 1 := by
  rw [append_lo (by decide)]

@[simp] theorem split_1_4_2_at_0_2 (x : BitVec 1) (y : BitVec 4) (z : BitVec 2) :
    BitVec.extractLsb' (n := 7) 0 2 (x ++ y ++ z) = z := by
  rw [append_lo (by decide)]
  exact BitVec.extractLsb'_eq_self

@[simp] theorem split_1_4_2_at_2_4 (x : BitVec 1) (y : BitVec 4) (z : BitVec 2) :
    BitVec.extractLsb' (n := 7) 2 4 (x ++ y ++ z) = y := by
  rw [append_hi (by decide), append_lo (by decide)]
  exact BitVec.extractLsb'_eq_self

@[simp] theorem split_1_4_2_at_2_3 (x : BitVec 1) (y : BitVec 4) (z : BitVec 2) :
    BitVec.extractLsb' (n := 7) 2 3 (x ++ y ++ z) = y.extractLsb' 0 3 := by
  rw [append_hi (by decide), append_lo (by decide)]

@[simp] theorem split_1_4_2_at_2_2 (x : BitVec 1) (y : BitVec 4) (z : BitVec 2) :
    BitVec.extractLsb' (n := 7) 2 2 (x ++ y ++ z) = y.extractLsb' 0 2 := by
  rw [append_hi (by decide), append_lo (by decide)]

@[simp] theorem split_2_3_2_at_6_1 (x : BitVec 2) (y : BitVec 3) (z : BitVec 2) :
    BitVec.extractLsb' (n := 7) 6 1 (x ++ y ++ z) = x.extractLsb' 1 1 := by
  rw [append_hi (by decide), append_hi (by decide)]

@[simp] theorem split_2_3_2_at_0_1 (x : BitVec 2) (y : BitVec 3) (z : BitVec 2) :
    BitVec.extractLsb' (n := 7) 0 1 (x ++ y ++ z) = z.extractLsb' 0 1 := by
  rw [append_lo (by decide)]

@[simp] theorem split_2_3_2_at_0_2 (x : BitVec 2) (y : BitVec 3) (z : BitVec 2) :
    BitVec.extractLsb' (n := 7) 0 2 (x ++ y ++ z) = z := by
  rw [append_lo (by decide)]
  exact BitVec.extractLsb'_eq_self

@[simp] theorem split_2_3_2_at_5_2 (x : BitVec 2) (y : BitVec 3) (z : BitVec 2) :
    BitVec.extractLsb' (n := 7) 5 2 (x ++ y ++ z) = x := by
  rw [append_hi (by decide), append_hi (by decide)]
  exact BitVec.extractLsb'_eq_self

@[simp] theorem split_2_3_2_at_2_3 (x : BitVec 2) (y : BitVec 3) (z : BitVec 2) :
    BitVec.extractLsb' (n := 7) 2 3 (x ++ y ++ z) = y := by
  rw [append_hi (by decide), append_lo (by decide)]
  exact BitVec.extractLsb'_eq_self

@[simp] theorem split_2_3_2_at_2_2 (x : BitVec 2) (y : BitVec 3) (z : BitVec 2) :
    BitVec.extractLsb' (n := 7) 2 2 (x ++ y ++ z) = y.extractLsb' 0 2 := by
  rw [append_hi (by decide), append_lo (by decide)]

@[simp] theorem split_3_2_2_at_4_3 (x : BitVec 3) (y : BitVec 2) (z : BitVec 2) :
    BitVec.extractLsb' (n := 7) 4 3 (x ++ y ++ z) = x := by
  rw [append_hi (by decide), append_hi (by decide)]
  exact BitVec.extractLsb'_eq_self

@[simp] theorem split_3_2_2_at_6_1 (x : BitVec 3) (y : BitVec 2) (z : BitVec 2) :
    BitVec.extractLsb' (n := 7) 6 1 (x ++ y ++ z) = x.extractLsb' 2 1 := by
  rw [append_hi (by decide), append_hi (by decide)]

@[simp] theorem split_3_2_2_at_0_1 (x : BitVec 3) (y : BitVec 2) (z : BitVec 2) :
    BitVec.extractLsb' (n := 7) 0 1 (x ++ y ++ z) = z.extractLsb' 0 1 := by
  rw [append_lo (by decide)]

@[simp] theorem split_3_2_2_at_0_2 (x : BitVec 3) (y : BitVec 2) (z : BitVec 2) :
    BitVec.extractLsb' (n := 7) 0 2 (x ++ y ++ z) = z := by
  rw [append_lo (by decide)]
  exact BitVec.extractLsb'_eq_self

@[simp] theorem split_3_2_2_at_5_2 (x : BitVec 3) (y : BitVec 2) (z : BitVec 2) :
    BitVec.extractLsb' (n := 7) 5 2 (x ++ y ++ z) = x.extractLsb' 1 2 := by
  rw [append_hi (by decide), append_hi (by decide)]

@[simp] theorem split_3_2_2_at_2_2 (x : BitVec 3) (y : BitVec 2) (z : BitVec 2) :
    BitVec.extractLsb' (n := 7) 2 2 (x ++ y ++ z) = y := by
  rw [append_hi (by decide), append_lo (by decide)]
  exact BitVec.extractLsb'_eq_self

@[simp] theorem split_4_2_1_at_4_3 (x : BitVec 4) (y : BitVec 2) (z : BitVec 1) :
    BitVec.extractLsb' (n := 7) 4 3 (x ++ y ++ z) = x.extractLsb' 1 3 := by
  rw [append_hi (by decide), append_hi (by decide)]

@[simp] theorem split_4_2_1_at_3_4 (x : BitVec 4) (y : BitVec 2) (z : BitVec 1) :
    BitVec.extractLsb' (n := 7) 3 4 (x ++ y ++ z) = x := by
  rw [append_hi (by decide), append_hi (by decide)]
  exact BitVec.extractLsb'_eq_self

@[simp] theorem split_4_2_1_at_3_3 (x : BitVec 4) (y : BitVec 2) (z : BitVec 1) :
    BitVec.extractLsb' (n := 7) 3 3 (x ++ y ++ z) = x.extractLsb' 0 3 := by
  rw [append_hi (by decide), append_hi (by decide)]

@[simp] theorem split_4_2_1_at_6_1 (x : BitVec 4) (y : BitVec 2) (z : BitVec 1) :
    BitVec.extractLsb' (n := 7) 6 1 (x ++ y ++ z) = x.extractLsb' 3 1 := by
  rw [append_hi (by decide), append_hi (by decide)]

@[simp] theorem split_4_2_1_at_0_1 (x : BitVec 4) (y : BitVec 2) (z : BitVec 1) :
    BitVec.extractLsb' (n := 7) 0 1 (x ++ y ++ z) = z := by
  rw [append_lo (by decide)]
  exact BitVec.extractLsb'_eq_self

@[simp] theorem split_4_2_1_at_1_2 (x : BitVec 4) (y : BitVec 2) (z : BitVec 1) :
    BitVec.extractLsb' (n := 7) 1 2 (x ++ y ++ z) = y := by
  rw [append_hi (by decide), append_lo (by decide)]
  exact BitVec.extractLsb'_eq_self

@[simp] theorem split_4_2_1_at_5_2 (x : BitVec 4) (y : BitVec 2) (z : BitVec 1) :
    BitVec.extractLsb' (n := 7) 5 2 (x ++ y ++ z) = x.extractLsb' 2 2 := by
  rw [append_hi (by decide), append_hi (by decide)]

@[simp] theorem split_6_6_at_8_4 (x : BitVec 6) (y : BitVec 6) :
    BitVec.extractLsb' (n := 12) 8 4 (x ++ y) = x.extractLsb' 2 4 := by
  rw [append_hi (by decide)]

@[simp] theorem split_6_6_at_6_2 (x : BitVec 6) (y : BitVec 6) :
    BitVec.extractLsb' (n := 12) 6 2 (x ++ y) = x.extractLsb' 0 2 := by
  rw [append_hi (by decide)]

@[simp] theorem split_6_6_at_0_6 (x : BitVec 6) (y : BitVec 6) :
    BitVec.extractLsb' (n := 12) 0 6 (x ++ y) = y := by
  rw [append_lo (by decide)]
  exact BitVec.extractLsb'_eq_self

@[simp] theorem split_6_6_at_11_1 (x : BitVec 6) (y : BitVec 6) :
    BitVec.extractLsb' (n := 12) 11 1 (x ++ y) = x.extractLsb' 5 1 := by
  rw [append_hi (by decide)]

@[simp] theorem split_6_6_at_2_2 (x : BitVec 6) (y : BitVec 6) :
    BitVec.extractLsb' (n := 12) 2 2 (x ++ y) = y.extractLsb' 2 2 := by
  rw [append_lo (by decide)]

@[simp] theorem split_6_6_at_0_2 (x : BitVec 6) (y : BitVec 6) :
    BitVec.extractLsb' (n := 12) 0 2 (x ++ y) = y.extractLsb' 0 2 := by
  rw [append_lo (by decide)]

@[simp] theorem split_6_6_at_9_3 (x : BitVec 6) (y : BitVec 6) :
    BitVec.extractLsb' (n := 12) 9 3 (x ++ y) = x.extractLsb' 3 3 := by
  rw [append_hi (by decide)]

@[simp] theorem split_1_11_at_6_2 (x : BitVec 1) (y : BitVec 11) :
    BitVec.extractLsb' (n := 12) 6 2 (x ++ y) = y.extractLsb' 6 2 := by
  rw [append_lo (by decide)]

@[simp] theorem split_1_11_at_0_6 (x : BitVec 1) (y : BitVec 11) :
    BitVec.extractLsb' (n := 12) 0 6 (x ++ y) = y.extractLsb' 0 6 := by
  rw [append_lo (by decide)]

@[simp] theorem split_1_11_at_0_11 (x : BitVec 1) (y : BitVec 11) :
    BitVec.extractLsb' (n := 12) 0 11 (x ++ y) = y := by
  rw [append_lo (by decide)]
  exact BitVec.extractLsb'_eq_self

@[simp] theorem split_1_11_at_11_1 (x : BitVec 1) (y : BitVec 11) :
    BitVec.extractLsb' (n := 12) 11 1 (x ++ y) = x := by
  rw [append_hi (by decide)]
  exact BitVec.extractLsb'_eq_self

@[simp] theorem split_1_11_at_0_9 (x : BitVec 1) (y : BitVec 11) :
    BitVec.extractLsb' (n := 12) 0 9 (x ++ y) = y.extractLsb' 0 9 := by
  rw [append_lo (by decide)]

@[simp] theorem split_1_11_at_4_5 (x : BitVec 1) (y : BitVec 11) :
    BitVec.extractLsb' (n := 12) 4 5 (x ++ y) = y.extractLsb' 4 5 := by
  rw [append_lo (by decide)]

@[simp] theorem split_1_11_at_2_2 (x : BitVec 1) (y : BitVec 11) :
    BitVec.extractLsb' (n := 12) 2 2 (x ++ y) = y.extractLsb' 2 2 := by
  rw [append_lo (by decide)]

@[simp] theorem split_1_11_at_0_2 (x : BitVec 1) (y : BitVec 11) :
    BitVec.extractLsb' (n := 12) 0 2 (x ++ y) = y.extractLsb' 0 2 := by
  rw [append_lo (by decide)]

@[simp] theorem split_3_9_at_6_2 (x : BitVec 3) (y : BitVec 9) :
    BitVec.extractLsb' (n := 12) 6 2 (x ++ y) = y.extractLsb' 6 2 := by
  rw [append_lo (by decide)]

@[simp] theorem split_3_9_at_0_6 (x : BitVec 3) (y : BitVec 9) :
    BitVec.extractLsb' (n := 12) 0 6 (x ++ y) = y.extractLsb' 0 6 := by
  rw [append_lo (by decide)]

@[simp] theorem split_3_9_at_11_1 (x : BitVec 3) (y : BitVec 9) :
    BitVec.extractLsb' (n := 12) 11 1 (x ++ y) = x.extractLsb' 2 1 := by
  rw [append_hi (by decide)]

@[simp] theorem split_3_9_at_0_9 (x : BitVec 3) (y : BitVec 9) :
    BitVec.extractLsb' (n := 12) 0 9 (x ++ y) = y := by
  rw [append_lo (by decide)]
  exact BitVec.extractLsb'_eq_self

@[simp] theorem split_3_9_at_4_5 (x : BitVec 3) (y : BitVec 9) :
    BitVec.extractLsb' (n := 12) 4 5 (x ++ y) = y.extractLsb' 4 5 := by
  rw [append_lo (by decide)]

@[simp] theorem split_3_9_at_2_2 (x : BitVec 3) (y : BitVec 9) :
    BitVec.extractLsb' (n := 12) 2 2 (x ++ y) = y.extractLsb' 2 2 := by
  rw [append_lo (by decide)]

@[simp] theorem split_3_9_at_0_2 (x : BitVec 3) (y : BitVec 9) :
    BitVec.extractLsb' (n := 12) 0 2 (x ++ y) = y.extractLsb' 0 2 := by
  rw [append_lo (by decide)]

@[simp] theorem split_3_9_at_9_3 (x : BitVec 3) (y : BitVec 9) :
    BitVec.extractLsb' (n := 12) 9 3 (x ++ y) = x := by
  rw [append_hi (by decide)]
  exact BitVec.extractLsb'_eq_self

@[simp] theorem split_3_5_2_2_at_6_2 (x : BitVec 3) (y : BitVec 5) (z : BitVec 2) (t : BitVec 2) :
    BitVec.extractLsb' (n := 12) 6 2 (x ++ y ++ z ++ t) = y.extractLsb' 2 2 := by
  rw [append_hi (by decide), append_hi (by decide), append_lo (by decide)]

@[simp] theorem split_3_5_2_2_at_11_1 (x : BitVec 3) (y : BitVec 5) (z : BitVec 2) (t : BitVec 2) :
    BitVec.extractLsb' (n := 12) 11 1 (x ++ y ++ z ++ t) = x.extractLsb' 2 1 := by
  rw [append_hi (by decide), append_hi (by decide), append_hi (by decide)]

@[simp] theorem split_3_5_2_2_at_4_5 (x : BitVec 3) (y : BitVec 5) (z : BitVec 2) (t : BitVec 2) :
    BitVec.extractLsb' (n := 12) 4 5 (x ++ y ++ z ++ t) = y := by
  rw [append_hi (by decide), append_hi (by decide), append_lo (by decide)]
  exact BitVec.extractLsb'_eq_self

@[simp] theorem split_3_5_2_2_at_2_2 (x : BitVec 3) (y : BitVec 5) (z : BitVec 2) (t : BitVec 2) :
    BitVec.extractLsb' (n := 12) 2 2 (x ++ y ++ z ++ t) = z := by
  rw [append_hi (by decide), append_lo (by decide)]
  exact BitVec.extractLsb'_eq_self

@[simp] theorem split_3_5_2_2_at_0_2 (x : BitVec 3) (y : BitVec 5) (z : BitVec 2) (t : BitVec 2) :
    BitVec.extractLsb' (n := 12) 0 2 (x ++ y ++ z ++ t) = t := by
  rw [append_lo (by decide)]
  exact BitVec.extractLsb'_eq_self

@[simp] theorem split_3_5_2_2_at_9_3 (x : BitVec 3) (y : BitVec 5) (z : BitVec 2) (t : BitVec 2) :
    BitVec.extractLsb' (n := 12) 9 3 (x ++ y ++ z ++ t) = x := by
  rw [append_hi (by decide), append_hi (by decide), append_hi (by decide)]
  exact BitVec.extractLsb'_eq_self

@[simp] theorem split_20_2_at_4_18 (x : BitVec 20) (y : BitVec 2) :
    BitVec.extractLsb' (n := 22) 4 18 (x ++ y) = x.extractLsb' 2 18 := by
  rw [append_hi (by decide)]

@[simp] theorem split_20_2_at_2_2 (x : BitVec 20) (y : BitVec 2) :
    BitVec.extractLsb' (n := 22) 2 2 (x ++ y) = x.extractLsb' 0 2 := by
  rw [append_hi (by decide)]

@[simp] theorem split_20_2_at_0_2 (x : BitVec 20) (y : BitVec 2) :
    BitVec.extractLsb' (n := 22) 0 2 (x ++ y) = y := by
  rw [append_lo (by decide)]
  exact BitVec.extractLsb'_eq_self

@[simp] theorem split_20_2_at_16_6 (x : BitVec 20) (y : BitVec 2) :
    BitVec.extractLsb' (n := 22) 16 6 (x ++ y) = x.extractLsb' 14 6 := by
  rw [append_hi (by decide)]

@[simp] theorem split_20_2_at_10_6 (x : BitVec 20) (y : BitVec 2) :
    BitVec.extractLsb' (n := 22) 10 6 (x ++ y) = x.extractLsb' 8 6 := by
  rw [append_hi (by decide)]

@[simp] theorem split_20_2_at_5_5 (x : BitVec 20) (y : BitVec 2) :
    BitVec.extractLsb' (n := 22) 5 5 (x ++ y) = x.extractLsb' 3 5 := by
  rw [append_hi (by decide)]

@[simp] theorem split_20_2_at_17_5 (x : BitVec 20) (y : BitVec 2) :
    BitVec.extractLsb' (n := 22) 17 5 (x ++ y) = x.extractLsb' 15 5 := by
  rw [append_hi (by decide)]

@[simp] theorem split_20_2_at_12_5 (x : BitVec 20) (y : BitVec 2) :
    BitVec.extractLsb' (n := 22) 12 5 (x ++ y) = x.extractLsb' 10 5 := by
  rw [append_hi (by decide)]

@[simp] theorem split_20_2_at_20_2 (x : BitVec 20) (y : BitVec 2) :
    BitVec.extractLsb' (n := 22) 20 2 (x ++ y) = x.extractLsb' 18 2 := by
  rw [append_hi (by decide)]

@[simp] theorem split_20_2_at_16_4 (x : BitVec 20) (y : BitVec 2) :
    BitVec.extractLsb' (n := 22) 16 4 (x ++ y) = x.extractLsb' 14 4 := by
  rw [append_hi (by decide)]

@[simp] theorem split_20_2_at_12_4 (x : BitVec 20) (y : BitVec 2) :
    BitVec.extractLsb' (n := 22) 12 4 (x ++ y) = x.extractLsb' 10 4 := by
  rw [append_hi (by decide)]

@[simp] theorem split_20_2_at_8_4 (x : BitVec 20) (y : BitVec 2) :
    BitVec.extractLsb' (n := 22) 8 4 (x ++ y) = x.extractLsb' 6 4 := by
  rw [append_hi (by decide)]

@[simp] theorem split_20_2_at_5_3 (x : BitVec 20) (y : BitVec 2) :
    BitVec.extractLsb' (n := 22) 5 3 (x ++ y) = x.extractLsb' 3 3 := by
  rw [append_hi (by decide)]

@[simp] theorem split_20_2_at_4_1 (x : BitVec 20) (y : BitVec 2) :
    BitVec.extractLsb' (n := 22) 4 1 (x ++ y) = x.extractLsb' 2 1 := by
  rw [append_hi (by decide)]

@[simp] theorem split_18_4_at_4_18 (x : BitVec 18) (y : BitVec 4) :
    BitVec.extractLsb' (n := 22) 4 18 (x ++ y) = x := by
  rw [append_hi (by decide)]
  exact BitVec.extractLsb'_eq_self

@[simp] theorem split_18_4_at_2_2 (x : BitVec 18) (y : BitVec 4) :
    BitVec.extractLsb' (n := 22) 2 2 (x ++ y) = y.extractLsb' 2 2 := by
  rw [append_lo (by decide)]

@[simp] theorem split_18_4_at_0_2 (x : BitVec 18) (y : BitVec 4) :
    BitVec.extractLsb' (n := 22) 0 2 (x ++ y) = y.extractLsb' 0 2 := by
  rw [append_lo (by decide)]

@[simp] theorem split_18_4_at_16_6 (x : BitVec 18) (y : BitVec 4) :
    BitVec.extractLsb' (n := 22) 16 6 (x ++ y) = x.extractLsb' 12 6 := by
  rw [append_hi (by decide)]

@[simp] theorem split_18_4_at_10_6 (x : BitVec 18) (y : BitVec 4) :
    BitVec.extractLsb' (n := 22) 10 6 (x ++ y) = x.extractLsb' 6 6 := by
  rw [append_hi (by decide)]

@[simp] theorem split_18_4_at_5_5 (x : BitVec 18) (y : BitVec 4) :
    BitVec.extractLsb' (n := 22) 5 5 (x ++ y) = x.extractLsb' 1 5 := by
  rw [append_hi (by decide)]

@[simp] theorem split_18_4_at_17_5 (x : BitVec 18) (y : BitVec 4) :
    BitVec.extractLsb' (n := 22) 17 5 (x ++ y) = x.extractLsb' 13 5 := by
  rw [append_hi (by decide)]

@[simp] theorem split_18_4_at_12_5 (x : BitVec 18) (y : BitVec 4) :
    BitVec.extractLsb' (n := 22) 12 5 (x ++ y) = x.extractLsb' 8 5 := by
  rw [append_hi (by decide)]

@[simp] theorem split_18_4_at_0_4 (x : BitVec 18) (y : BitVec 4) :
    BitVec.extractLsb' (n := 22) 0 4 (x ++ y) = y := by
  rw [append_lo (by decide)]
  exact BitVec.extractLsb'_eq_self

@[simp] theorem split_18_4_at_20_2 (x : BitVec 18) (y : BitVec 4) :
    BitVec.extractLsb' (n := 22) 20 2 (x ++ y) = x.extractLsb' 16 2 := by
  rw [append_hi (by decide)]

@[simp] theorem split_18_4_at_16_4 (x : BitVec 18) (y : BitVec 4) :
    BitVec.extractLsb' (n := 22) 16 4 (x ++ y) = x.extractLsb' 12 4 := by
  rw [append_hi (by decide)]

@[simp] theorem split_18_4_at_12_4 (x : BitVec 18) (y : BitVec 4) :
    BitVec.extractLsb' (n := 22) 12 4 (x ++ y) = x.extractLsb' 8 4 := by
  rw [append_hi (by decide)]

@[simp] theorem split_18_4_at_8_4 (x : BitVec 18) (y : BitVec 4) :
    BitVec.extractLsb' (n := 22) 8 4 (x ++ y) = x.extractLsb' 4 4 := by
  rw [append_hi (by decide)]

@[simp] theorem split_18_4_at_5_3 (x : BitVec 18) (y : BitVec 4) :
    BitVec.extractLsb' (n := 22) 5 3 (x ++ y) = x.extractLsb' 1 3 := by
  rw [append_hi (by decide)]

@[simp] theorem split_18_4_at_4_1 (x : BitVec 18) (y : BitVec 4) :
    BitVec.extractLsb' (n := 22) 4 1 (x ++ y) = x.extractLsb' 0 1 := by
  rw [append_hi (by decide)]

@[simp] theorem split_6_6_5_5_at_2_2 (x : BitVec 6) (y : BitVec 6) (z : BitVec 5) (t : BitVec 5) :
    BitVec.extractLsb' (n := 22) 2 2 (x ++ y ++ z ++ t) = t.extractLsb' 2 2 := by
  rw [append_lo (by decide)]

@[simp] theorem split_6_6_5_5_at_0_2 (x : BitVec 6) (y : BitVec 6) (z : BitVec 5) (t : BitVec 5) :
    BitVec.extractLsb' (n := 22) 0 2 (x ++ y ++ z ++ t) = t.extractLsb' 0 2 := by
  rw [append_lo (by decide)]

@[simp] theorem split_6_6_5_5_at_16_6 (x : BitVec 6) (y : BitVec 6) (z : BitVec 5) (t : BitVec 5) :
    BitVec.extractLsb' (n := 22) 16 6 (x ++ y ++ z ++ t) = x := by
  rw [append_hi (by decide), append_hi (by decide), append_hi (by decide)]
  exact BitVec.extractLsb'_eq_self

@[simp] theorem split_6_6_5_5_at_10_6 (x : BitVec 6) (y : BitVec 6) (z : BitVec 5) (t : BitVec 5) :
    BitVec.extractLsb' (n := 22) 10 6 (x ++ y ++ z ++ t) = y := by
  rw [append_hi (by decide), append_hi (by decide), append_lo (by decide)]
  exact BitVec.extractLsb'_eq_self

@[simp] theorem split_6_6_5_5_at_5_5 (x : BitVec 6) (y : BitVec 6) (z : BitVec 5) (t : BitVec 5) :
    BitVec.extractLsb' (n := 22) 5 5 (x ++ y ++ z ++ t) = z := by
  rw [append_hi (by decide), append_lo (by decide)]
  exact BitVec.extractLsb'_eq_self

@[simp] theorem split_6_6_5_5_at_0_5 (x : BitVec 6) (y : BitVec 6) (z : BitVec 5) (t : BitVec 5) :
    BitVec.extractLsb' (n := 22) 0 5 (x ++ y ++ z ++ t) = t := by
  rw [append_lo (by decide)]
  exact BitVec.extractLsb'_eq_self

@[simp] theorem split_6_6_5_5_at_17_5 (x : BitVec 6) (y : BitVec 6) (z : BitVec 5) (t : BitVec 5) :
    BitVec.extractLsb' (n := 22) 17 5 (x ++ y ++ z ++ t) = x.extractLsb' 1 5 := by
  rw [append_hi (by decide), append_hi (by decide), append_hi (by decide)]

@[simp] theorem split_6_6_5_5_at_0_4 (x : BitVec 6) (y : BitVec 6) (z : BitVec 5) (t : BitVec 5) :
    BitVec.extractLsb' (n := 22) 0 4 (x ++ y ++ z ++ t) = t.extractLsb' 0 4 := by
  rw [append_lo (by decide)]

@[simp] theorem split_6_6_5_5_at_20_2 (x : BitVec 6) (y : BitVec 6) (z : BitVec 5) (t : BitVec 5) :
    BitVec.extractLsb' (n := 22) 20 2 (x ++ y ++ z ++ t) = x.extractLsb' 4 2 := by
  rw [append_hi (by decide), append_hi (by decide), append_hi (by decide)]

@[simp] theorem split_6_6_5_5_at_16_4 (x : BitVec 6) (y : BitVec 6) (z : BitVec 5) (t : BitVec 5) :
    BitVec.extractLsb' (n := 22) 16 4 (x ++ y ++ z ++ t) = x.extractLsb' 0 4 := by
  rw [append_hi (by decide), append_hi (by decide), append_hi (by decide)]

@[simp] theorem split_6_6_5_5_at_12_4 (x : BitVec 6) (y : BitVec 6) (z : BitVec 5) (t : BitVec 5) :
    BitVec.extractLsb' (n := 22) 12 4 (x ++ y ++ z ++ t) = y.extractLsb' 2 4 := by
  rw [append_hi (by decide), append_hi (by decide), append_lo (by decide)]

@[simp] theorem split_6_6_5_5_at_5_3 (x : BitVec 6) (y : BitVec 6) (z : BitVec 5) (t : BitVec 5) :
    BitVec.extractLsb' (n := 22) 5 3 (x ++ y ++ z ++ t) = z.extractLsb' 0 3 := by
  rw [append_hi (by decide), append_lo (by decide)]

@[simp] theorem split_6_6_5_5_at_4_1 (x : BitVec 6) (y : BitVec 6) (z : BitVec 5) (t : BitVec 5) :
    BitVec.extractLsb' (n := 22) 4 1 (x ++ y ++ z ++ t) = t.extractLsb' 4 1 := by
  rw [append_lo (by decide)]

@[simp] theorem split_5_5_12_at_2_2 (x : BitVec 5) (y : BitVec 5) (z : BitVec 12) :
    BitVec.extractLsb' (n := 22) 2 2 (x ++ y ++ z) = z.extractLsb' 2 2 := by
  rw [append_lo (by decide)]

@[simp] theorem split_5_5_12_at_0_2 (x : BitVec 5) (y : BitVec 5) (z : BitVec 12) :
    BitVec.extractLsb' (n := 22) 0 2 (x ++ y ++ z) = z.extractLsb' 0 2 := by
  rw [append_lo (by decide)]

@[simp] theorem split_5_5_12_at_5_5 (x : BitVec 5) (y : BitVec 5) (z : BitVec 12) :
    BitVec.extractLsb' (n := 22) 5 5 (x ++ y ++ z) = z.extractLsb' 5 5 := by
  rw [append_lo (by decide)]

@[simp] theorem split_5_5_12_at_0_5 (x : BitVec 5) (y : BitVec 5) (z : BitVec 12) :
    BitVec.extractLsb' (n := 22) 0 5 (x ++ y ++ z) = z.extractLsb' 0 5 := by
  rw [append_lo (by decide)]

@[simp] theorem split_5_5_12_at_17_5 (x : BitVec 5) (y : BitVec 5) (z : BitVec 12) :
    BitVec.extractLsb' (n := 22) 17 5 (x ++ y ++ z) = x := by
  rw [append_hi (by decide), append_hi (by decide)]
  exact BitVec.extractLsb'_eq_self

@[simp] theorem split_5_5_12_at_0_12 (x : BitVec 5) (y : BitVec 5) (z : BitVec 12) :
    BitVec.extractLsb' (n := 22) 0 12 (x ++ y ++ z) = z := by
  rw [append_lo (by decide)]
  exact BitVec.extractLsb'_eq_self

@[simp] theorem split_5_5_12_at_12_5 (x : BitVec 5) (y : BitVec 5) (z : BitVec 12) :
    BitVec.extractLsb' (n := 22) 12 5 (x ++ y ++ z) = y := by
  rw [append_hi (by decide), append_lo (by decide)]
  exact BitVec.extractLsb'_eq_self

@[simp] theorem split_5_5_12_at_0_4 (x : BitVec 5) (y : BitVec 5) (z : BitVec 12) :
    BitVec.extractLsb' (n := 22) 0 4 (x ++ y ++ z) = z.extractLsb' 0 4 := by
  rw [append_lo (by decide)]

@[simp] theorem split_5_5_12_at_20_2 (x : BitVec 5) (y : BitVec 5) (z : BitVec 12) :
    BitVec.extractLsb' (n := 22) 20 2 (x ++ y ++ z) = x.extractLsb' 3 2 := by
  rw [append_hi (by decide), append_hi (by decide)]

@[simp] theorem split_5_5_12_at_12_4 (x : BitVec 5) (y : BitVec 5) (z : BitVec 12) :
    BitVec.extractLsb' (n := 22) 12 4 (x ++ y ++ z) = y.extractLsb' 0 4 := by
  rw [append_hi (by decide), append_lo (by decide)]

@[simp] theorem split_5_5_12_at_8_4 (x : BitVec 5) (y : BitVec 5) (z : BitVec 12) :
    BitVec.extractLsb' (n := 22) 8 4 (x ++ y ++ z) = z.extractLsb' 8 4 := by
  rw [append_lo (by decide)]

@[simp] theorem split_5_5_12_at_5_3 (x : BitVec 5) (y : BitVec 5) (z : BitVec 12) :
    BitVec.extractLsb' (n := 22) 5 3 (x ++ y ++ z) = z.extractLsb' 5 3 := by
  rw [append_lo (by decide)]

@[simp] theorem split_5_5_12_at_4_1 (x : BitVec 5) (y : BitVec 5) (z : BitVec 12) :
    BitVec.extractLsb' (n := 22) 4 1 (x ++ y ++ z) = z.extractLsb' 4 1 := by
  rw [append_lo (by decide)]

@[simp] theorem split_2_4_4_4_3_1_4_at_2_2 (x : BitVec 2) (y : BitVec 4) (z : BitVec 4) (t : BitVec 4) (u : BitVec 3) (v : BitVec 1) (m : BitVec 4) :
    BitVec.extractLsb' (n := 22) 2 2 (x ++ y ++ z ++ t ++ u ++ v ++ m) = m.extractLsb' 2 2 := by
  rw [append_lo (by decide)]

@[simp] theorem split_2_4_4_4_3_1_4_at_0_2 (x : BitVec 2) (y : BitVec 4) (z : BitVec 4) (t : BitVec 4) (u : BitVec 3) (v : BitVec 1) (m : BitVec 4) :
    BitVec.extractLsb' (n := 22) 0 2 (x ++ y ++ z ++ t ++ u ++ v ++ m) = m.extractLsb' 0 2 := by
  rw [append_lo (by decide)]

@[simp] theorem split_2_4_4_4_3_1_4_at_0_4 (x : BitVec 2) (y : BitVec 4) (z : BitVec 4) (t : BitVec 4) (u : BitVec 3) (v : BitVec 1) (m : BitVec 4) :
    BitVec.extractLsb' (n := 22) 0 4 (x ++ y ++ z ++ t ++ u ++ v ++ m) = m := by
  rw [append_lo (by decide)]
  exact BitVec.extractLsb'_eq_self

@[simp] theorem split_2_4_4_4_3_1_4_at_20_2 (x : BitVec 2) (y : BitVec 4) (z : BitVec 4) (t : BitVec 4) (u : BitVec 3) (v : BitVec 1) (m : BitVec 4) :
    BitVec.extractLsb' (n := 22) 20 2 (x ++ y ++ z ++ t ++ u ++ v ++ m) = x := by
  rw [append_hi (by decide), append_hi (by decide), append_hi (by decide), append_hi (by decide), append_hi (by decide), append_hi (by decide)]
  exact BitVec.extractLsb'_eq_self

@[simp] theorem split_2_4_4_4_3_1_4_at_16_4 (x : BitVec 2) (y : BitVec 4) (z : BitVec 4) (t : BitVec 4) (u : BitVec 3) (v : BitVec 1) (m : BitVec 4) :
    BitVec.extractLsb' (n := 22) 16 4 (x ++ y ++ z ++ t ++ u ++ v ++ m) = y := by
  rw [append_hi (by decide), append_hi (by decide), append_hi (by decide), append_hi (by decide), append_hi (by decide), append_lo (by decide)]
  exact BitVec.extractLsb'_eq_self

@[simp] theorem split_2_4_4_4_3_1_4_at_12_4 (x : BitVec 2) (y : BitVec 4) (z : BitVec 4) (t : BitVec 4) (u : BitVec 3) (v : BitVec 1) (m : BitVec 4) :
    BitVec.extractLsb' (n := 22) 12 4 (x ++ y ++ z ++ t ++ u ++ v ++ m) = z := by
  rw [append_hi (by decide), append_hi (by decide), append_hi (by decide), append_hi (by decide), append_lo (by decide)]
  exact BitVec.extractLsb'_eq_self

@[simp] theorem split_2_4_4_4_3_1_4_at_8_4 (x : BitVec 2) (y : BitVec 4) (z : BitVec 4) (t : BitVec 4) (u : BitVec 3) (v : BitVec 1) (m : BitVec 4) :
    BitVec.extractLsb' (n := 22) 8 4 (x ++ y ++ z ++ t ++ u ++ v ++ m) = t := by
  rw [append_hi (by decide), append_hi (by decide), append_hi (by decide), append_lo (by decide)]
  exact BitVec.extractLsb'_eq_self

@[simp] theorem split_2_4_4_4_3_1_4_at_5_3 (x : BitVec 2) (y : BitVec 4) (z : BitVec 4) (t : BitVec 4) (u : BitVec 3) (v : BitVec 1) (m : BitVec 4) :
    BitVec.extractLsb' (n := 22) 5 3 (x ++ y ++ z ++ t ++ u ++ v ++ m) = u := by
  rw [append_hi (by decide), append_hi (by decide), append_lo (by decide)]
  exact BitVec.extractLsb'_eq_self

@[simp] theorem split_2_4_4_4_3_1_4_at_4_1 (x : BitVec 2) (y : BitVec 4) (z : BitVec 4) (t : BitVec 4) (u : BitVec 3) (v : BitVec 1) (m : BitVec 4) :
    BitVec.extractLsb' (n := 22) 4 1 (x ++ y ++ z ++ t ++ u ++ v ++ m) = v := by
  rw [append_hi (by decide), append_lo (by decide)]
  exact BitVec.extractLsb'_eq_self

@[simp] theorem split_8_2_at_0_2 (x : BitVec 8) (y : BitVec 2) :
    BitVec.extractLsb' (n := 10) 0 2 (x ++ y) = y := by
  rw [append_lo (by decide)]
  exact BitVec.extractLsb'_eq_self

@[simp] theorem split_8_2_at_2_8 (x : BitVec 8) (y : BitVec 2) :
    BitVec.extractLsb' (n := 10) 2 8 (x ++ y) = x := by
  rw [append_hi (by decide)]
  exact BitVec.extractLsb'_eq_self

@[simp] theorem split_1_4_at_4_1 (x : BitVec 1) (y : BitVec 4) :
    BitVec.extractLsb' (n := 5) 4 1 (x ++ y) = x := by
  rw [append_hi (by decide)]
  exact BitVec.extractLsb'_eq_self

@[simp] theorem split_1_4_at_0_4 (x : BitVec 1) (y : BitVec 4) :
    BitVec.extractLsb' (n := 5) 0 4 (x ++ y) = y := by
  rw [append_lo (by decide)]
  exact BitVec.extractLsb'_eq_self

/-! ### Register numbers in a 5-bit field -/

@[simp] theorem okP_asP (p : PReg) : okP (asP p) = true := by revert p; decide
@[simp] theorem toP_asP (p : PReg) : toP (asP p) = p := by revert p; decide
@[simp] theorem okK_asK (k : KReg) : okK (asK k) = true := by revert k; decide
@[simp] theorem toK_asK (k : KReg) : toK (asK k) = k := by revert k; decide
@[simp] theorem okA_asA (r : AReg) : okA (asA r) = true := by revert r; decide
@[simp] theorem toA_asA (r : AReg) : toA (asA r) = r := by revert r; decide

/-! ### A check that holds -/

@[simp] theorem need_true (r : Reject) (i : Except Reject Instr) : need true r i = i := rfl

theorem need_of {c : Bool} {r : Reject} {i j : Except Reject Instr} (hc : c = true) (h : i = j) : need c r i = j := by
  rw [hc]; exact h

/-! ### The decoder on a word of each format -/

theorem decode_wA {op : BitVec 6} (h : formatOf op = .guarded) (g : Guard) (d a b : BitVec 5) (fn : BitVec 7) :
    decode (wA op g d a b fn) = need (g != 8) .guard (decGuarded op g d a b fn (fImm12 (wA op g d a b fn))) := by
  simp [decode, h]

theorem decode_wI {op : BitVec 6} (h : formatOf op = .guarded) (g : Guard) (d a : BitVec 5) (imm : BitVec 12) :
    decode (wI op g d a imm) =
      need (g != 8) .guard (decGuarded op g d a (fB (wI op g d a imm)) (fFn (wI op g d a imm)) imm) := by
  simp [decode, h]

theorem decode_wIC (g : Guard) (p : BitVec 3) (cc : BitVec 4) (a : BitVec 5) (imm : BitVec 10) :
    decode (wIC 0x07 g p cc a imm) =
      need (g != 8) .guard (need (decide (cc.toNat < 10)) .condition (.ok (.cmpi g p cc a imm))) := by
  simp [decode, show formatOf 0x07#6 = .ic from rfl]

theorem decode_wBR (cc : BitVec 4) (a b : BitVec 5) (off : BitVec 12) :
    decode (wBR 0x16 cc a b off) = need (decide (cc.toNat < 10)) .condition (.ok (.bCc cc a b off)) := by
  simp [decode, show formatOf 0x16#6 = .br from rfl]

theorem decode_wBI (cc : BitVec 4) (a b : BitVec 5) (off : BitVec 12) :
    decode (wBR 0x17 cc a b off) = need (decide (cc.toNat < 10)) .condition (.ok (.biCc cc a b off)) := by
  simp [decode, show formatOf 0x17#6 = .bi from rfl]

theorem decode_wE {op : BitVec 6} (h : formatOf op = .engine) (g : Guard) (o : BitVec 3) (acq : BitVec 1)
    (sc : BitVec 2) (t a b : BitVec 5) (rel : BitVec 1) :
    decode (wE op g o acq sc t a b rel) = need (g != 8) .guard (decEngine op g o acq sc t a b rel) := by
  simp [decode, h]

theorem decode_fenceP (sub : BitVec 4) (p : BitVec 22) : decode (wP 0x1E sub p) = decFence sub p := by
  simp [decode, show formatOf 0x1E#6 = .fenceP from rfl]

theorem decode_prefixP (sub : BitVec 4) (p : BitVec 22) : decode (wP 0x3D sub p) = decPrefix sub p := by
  simp [decode, show formatOf 0x3D#6 = .prefixP from rfl]

theorem decode_wSYS (sub : BitVec 6) (a b : BitVec 5) (imm : BitVec 10) :
    decode (wSYS sub a b imm) = decSystem sub a b imm := by
  simp [decode, show formatOf 0x3E#6 = .sys from rfl]

end Sys2Proof
end

