-- ==== Sys2Proof/Laws/Memory.lean ====
section
/-! SUPPORT. Memory as a list of cells: a byte read after a write, and the canonical form that every operation keeps. -/

namespace Sys2Proof.Machine

/-! ### Keys that rise -/

theorem risingFrom_le {α : Type} {lo lo' : Nat} {l : List (Nat × α)} (h : risingFrom lo l = true) (hl : lo' ≤ lo) :
    risingFrom lo' l = true := by
  cases l with
  | nil => rfl
  | cons c r =>
    obtain ⟨j, y⟩ := c
    simp only [risingFrom, Bool.and_eq_true, decide_eq_true_eq] at h ⊢
    exact ⟨by omega, h.2⟩

theorem lookupKey_below {α : Type} {lo k : Nat} {l : List (Nat × α)} (h : risingFrom lo l = true) (hk : k < lo) :
    lookupKey l k = none := by
  cases l with
  | nil => rfl
  | cons c r =>
    obtain ⟨j, y⟩ := c
    simp only [risingFrom, Bool.and_eq_true, decide_eq_true_eq] at h
    simp only [lookupKey]
    rw [if_neg (by omega), if_pos (by omega)]

theorem rising_putKey {α : Type} {lo k : Nat} {x : α} {l : List (Nat × α)} (h : risingFrom lo l = true) (hk : lo ≤ k) :
    risingFrom lo (putKey l k x) = true := by
  induction l generalizing lo with
  | nil => simp [putKey, risingFrom, hk]
  | cons c r ih =>
    obtain ⟨j, y⟩ := c
    simp only [risingFrom, Bool.and_eq_true, decide_eq_true_eq] at h
    simp only [putKey]
    split
    · rename_i e
      subst e
      simp [risingFrom, h.1, h.2]
    · split
      · simp only [risingFrom, Bool.and_eq_true, decide_eq_true_eq]
        exact ⟨hk, by omega, h.2⟩
      · simp only [risingFrom, Bool.and_eq_true, decide_eq_true_eq]
        exact ⟨h.1, ih h.2 (by omega)⟩

theorem rising_dropKey {α : Type} {lo k : Nat} {l : List (Nat × α)} (h : risingFrom lo l = true) :
    risingFrom lo (dropKey l k) = true := by
  induction l generalizing lo with
  | nil => rfl
  | cons c r ih =>
    obtain ⟨j, y⟩ := c
    simp only [risingFrom, Bool.and_eq_true, decide_eq_true_eq] at h
    simp only [dropKey]
    split
    · exact risingFrom_le h.2 (by omega)
    · split
      · simp [risingFrom, h.1, h.2]
      · simp only [risingFrom, Bool.and_eq_true, decide_eq_true_eq]
        exact ⟨h.1, ih h.2⟩

theorem all_putKey {α : Type} {p : Nat × α → Bool} {k : Nat} {x : α} {l : List (Nat × α)} (h : l.all p = true)
    (hx : p (k, x) = true) : (putKey l k x).all p = true := by
  induction l with
  | nil => simp [putKey, hx]
  | cons c r ih =>
    obtain ⟨j, y⟩ := c
    simp only [List.all_cons, Bool.and_eq_true] at h
    simp only [putKey]
    split
    · simp [hx, h.2]
    · split
      · simp [hx, h.1, h.2]
      · simp [h.1, ih h.2]

theorem all_dropKey {α : Type} {p : Nat × α → Bool} {k : Nat} {l : List (Nat × α)} (h : l.all p = true) :
    (dropKey l k).all p = true := by
  induction l with
  | nil => rfl
  | cons c r ih =>
    obtain ⟨j, y⟩ := c
    simp only [List.all_cons, Bool.and_eq_true] at h
    simp only [dropKey]
    split
    · exact h.2
    · split
      · simp [h.1, h.2]
      · simp [h.1, ih h.2]

theorem rising_filter {α : Type} {lo : Nat} {p : Nat × α → Bool} {l : List (Nat × α)} (h : risingFrom lo l = true) :
    risingFrom lo (l.filter p) = true := by
  induction l generalizing lo with
  | nil => rfl
  | cons c r ih =>
    obtain ⟨j, y⟩ := c
    simp only [risingFrom, Bool.and_eq_true, decide_eq_true_eq] at h
    by_cases hp : p (j, y) = true
    · simp [hp, risingFrom, h.1, ih h.2]
    · simp only [List.filter_cons, hp]
      exact risingFrom_le (ih h.2) (by omega)

/-! ### The canonical form -/

theorem wf_nil : Memory.wf [] = true := rfl

theorem wf_put {m : List Host.Cell} (k : Nat) (b : Byte) (h : Memory.wf m = true) : Memory.wf (Memory.put m k b) = true := by
  simp only [Memory.wf, Bool.and_eq_true] at h ⊢
  unfold Memory.put
  split
  · exact ⟨rising_dropKey h.1, all_dropKey h.2⟩
  · rename_i hb
    exact ⟨rising_putKey h.1 (by omega), all_putKey h.2 (by simpa using hb)⟩

theorem wf_putList {m : List Host.Cell} (k : Nat) (l : List Byte) (h : Memory.wf m = true) :
    Memory.wf (Memory.putList m k l) = true := by
  induction l generalizing m k with
  | nil => exact h
  | cons b r ih => exact ih (k + 1) (wf_put k b h)

theorem wf_filter {m : List Host.Cell} (p : Host.Cell → Bool) (h : Memory.wf m = true) :
    Memory.wf (m.filter p) = true := by
  simp only [Memory.wf, Bool.and_eq_true, List.all_eq_true] at h ⊢
  exact ⟨rising_filter h.1, fun c hc => h.2 c (List.mem_of_mem_filter hc)⟩

/-! ### A byte read after a write -/

theorem lookupKey_dropKey_ne {α : Type} {l : List (Nat × α)} {lo k i : Nat} (h : i ≠ k) (hr : risingFrom lo l = true) :
    lookupKey (dropKey l k) i = lookupKey l i := by
  induction l generalizing lo with
  | nil => rfl
  | cons c r ih =>
    obtain ⟨j, y⟩ := c
    simp only [risingFrom, Bool.and_eq_true, decide_eq_true_eq] at hr
    simp only [dropKey]
    split
    · rename_i e
      subst e
      simp only [lookupKey, if_neg (Ne.symm h)]
      split
      · exact lookupKey_below hr.2 (by omega)
      · rfl
    · split
      · rfl
      · simp only [lookupKey, ih hr.2]

theorem lookupKey_dropKey_self {α : Type} {l : List (Nat × α)} {lo k : Nat} (hr : risingFrom lo l = true) :
    lookupKey (dropKey l k) k = none := by
  induction l generalizing lo with
  | nil => rfl
  | cons c r ih =>
    obtain ⟨j, y⟩ := c
    simp only [risingFrom, Bool.and_eq_true, decide_eq_true_eq] at hr
    simp only [dropKey]
    split
    · rename_i e
      subst e
      exact lookupKey_below hr.2 (by omega)
    · rename_i e
      split
      · rename_i e2
        simp only [lookupKey, if_neg e, if_pos e2]
      · rename_i e2
        simp only [lookupKey, if_neg e, if_neg e2]
        exact ih hr.2

/-- The byte written is the byte read, and every other byte reads as before. -/
theorem get_put {m : List Host.Cell} (k i : Nat) (b : Byte) (h : Memory.wf m = true) :
    Memory.get (Memory.put m k b) i = if i = k then b else Memory.get m i := by
  simp only [Memory.wf, Bool.and_eq_true] at h
  unfold Memory.get Memory.put
  by_cases hi : i = k
  · subst hi
    split
    · rename_i hb
      rw [lookupKey_dropKey_self h.1, hb]
      simp
    · simp
  · rw [if_neg hi]
    split
    · rw [lookupKey_dropKey_ne hi h.1]
    · rw [lookupKey_putKey_ne _ _ _ _ hi]

/-- A list of bytes written from k on. -/
theorem get_putList {m : List Host.Cell} (k i : Nat) (l : List Byte) (h : Memory.wf m = true) :
    Memory.get (Memory.putList m k l) i = if k ≤ i ∧ i < k + l.length then (l[i - k]?).getD 0 else Memory.get m i := by
  induction l generalizing m k with
  | nil =>
    rw [if_neg (by simp)]
    rfl
  | cons b r ih =>
    rw [Memory.putList, ih (k + 1) (wf_put k b h), get_put k i b h]
    by_cases h1 : k + 1 ≤ i ∧ i < k + 1 + r.length
    · rw [if_pos h1, if_pos (by simp only [List.length_cons]; omega)]
      have e : i - k = i - (k + 1) + 1 := by omega
      rw [e, List.getElem?_cons_succ]
    · rw [if_neg h1]
      by_cases h2 : i = k
      · subst h2
        simp
      · rw [if_neg h2, if_neg (by simp only [List.length_cons]; omega)]

/-! ### The operations over memory keep it -/

theorem wf_rekey {s : State} (ver : Option Nat) (key : Nat) (h : Memory.wf s.mem = true) :
    Memory.wf (s.rekey ver key).mem = true := by
  unfold State.rekey
  split
  · exact h
  · dsimp only
    split
    · split
      · exact h
      · exact wf_putList _ _ h
    · split
      · exact wf_putList _ _ h
      · exact h

theorem wf_foldl_put {α : Type} (f : List Host.Cell → α → List Host.Cell)
    (hf : ∀ m x, Memory.wf m = true → Memory.wf (f m x) = true) (l : List α) {m : List Host.Cell}
    (h : Memory.wf m = true) : Memory.wf (l.foldl f m) = true := by
  induction l generalizing m with
  | nil => exact h
  | cons x r ih => exact ih (hf m x h)

theorem wf_writeUnit {s : State} (ver : Option Nat) (key : Nat) (mask : BitVec 8) (data : BitVec 64) (poison : Bool)
    (h : Memory.wf s.mem = true) : Memory.wf (s.writeUnit ver key mask data poison).mem = true := by
  unfold State.writeUnit
  split
  · exact h
  · refine wf_foldl_put _ (fun m i hm => ?_) _ (wf_rekey ver key h)
    split
    · exact wf_put _ _ hm
    · exact hm

theorem wf_writeOut {s : State} (host : Bool) (ver : Option Nat) (key : Nat) (mask : BitVec 8) (data : BitVec 64)
    (poison : Bool) (h : Memory.wf s.mem = true) : Memory.wf (s.writeOut host ver key mask data poison).mem = true := by
  unfold State.writeOut
  split
  · exact h
  · exact wf_writeUnit ver key mask data poison h

theorem wf_writeSpad {t : Tile} (segs : List (Option Seg)) (o : Nat) (bs : List (Nat × Byte × Bool))
    (h : Memory.wf t.spad = true) : Memory.wf (t.writeSpad segs o bs).spad = true := by
  unfold Tile.writeSpad
  exact wf_foldl_put _ (fun m c hm => wf_put _ _ hm) _ h

theorem inv_reset : State.reset.Inv = true := by decide

end Sys2Proof.Machine
end

