-- ==== Sys2Proof/Laws/PerInstr.lean ====
section
/-! SUPPORT. Family F, for every instruction: a well-formed instruction that has a word is what the decoder reads from it
(05 R82-R98). One lemma for each constructor. -/

namespace Sys2Proof

/-- Decoding undoes encoding at one instruction. -/
def Laws.F.Statement (i : Instr) : Prop := i.wf = true → ∀ w, encode i = some w → decode w = .ok i

theorem Laws.F.intro {i : Instr} {w0 : BitVec 32} (he : encode i = some w0) (hd : i.wf = true → decode w0 = .ok i) :
    Laws.F.Statement i := by
  intro h w hw
  rw [he] at hw
  cases hw
  exact hd h

theorem Laws.F.no_word {i : Instr} (he : encode i = none) : Laws.F.Statement i := by
  intro _ w hw
  rw [he] at hw
  cases hw

theorem Instr.guard_ok {i : Instr} (h : i.wf = true) : (i.guard != 8) = true := by
  simp only [Instr.wf, Bool.and_eq_true] at h
  exact h.1

theorem Instr.fields_ok {i : Instr} (h : i.wf = true) : i.fieldsOk = true := by
  simp only [Instr.wf, Bool.and_eq_true] at h
  exact h.2

theorem Laws.F.add (g : Guard) (d a b : SReg) : Laws.F.Statement (.add g d a b) :=
  Laws.F.intro rfl fun h => by
    exact (decode_wA rfl _ _ _ _ _).trans (need_of (Instr.guard_ok h) rfl)

theorem Laws.F.sub (g : Guard) (d a b : SReg) : Laws.F.Statement (.sub g d a b) :=
  Laws.F.intro rfl fun h => by
    exact (decode_wA rfl _ _ _ _ _).trans (need_of (Instr.guard_ok h) rfl)

theorem Laws.F.mul (g : Guard) (d a b : SReg) : Laws.F.Statement (.mul g d a b) :=
  Laws.F.intro rfl fun h => by
    exact (decode_wA rfl _ _ _ _ _).trans (need_of (Instr.guard_ok h) rfl)

theorem Laws.F.mulh (g : Guard) (d a b : SReg) : Laws.F.Statement (.mulh g d a b) :=
  Laws.F.intro rfl fun h => by
    exact (decode_wA rfl _ _ _ _ _).trans (need_of (Instr.guard_ok h) rfl)

theorem Laws.F.mulhz (g : Guard) (d a b : SReg) : Laws.F.Statement (.mulhz g d a b) :=
  Laws.F.intro rfl fun h => by
    exact (decode_wA rfl _ _ _ _ _).trans (need_of (Instr.guard_ok h) rfl)

theorem Laws.F.div (g : Guard) (d a b : SReg) : Laws.F.Statement (.div g d a b) :=
  Laws.F.intro rfl fun h => by
    exact (decode_wA rfl _ _ _ _ _).trans (need_of (Instr.guard_ok h) rfl)

theorem Laws.F.divz (g : Guard) (d a b : SReg) : Laws.F.Statement (.divz g d a b) :=
  Laws.F.intro rfl fun h => by
    exact (decode_wA rfl _ _ _ _ _).trans (need_of (Instr.guard_ok h) rfl)

theorem Laws.F.rem (g : Guard) (d a b : SReg) : Laws.F.Statement (.rem g d a b) :=
  Laws.F.intro rfl fun h => by
    exact (decode_wA rfl _ _ _ _ _).trans (need_of (Instr.guard_ok h) rfl)

theorem Laws.F.remz (g : Guard) (d a b : SReg) : Laws.F.Statement (.remz g d a b) :=
  Laws.F.intro rfl fun h => by
    exact (decode_wA rfl _ _ _ _ _).trans (need_of (Instr.guard_ok h) rfl)

theorem Laws.F.and (g : Guard) (d a b : SReg) : Laws.F.Statement (.and g d a b) :=
  Laws.F.intro rfl fun h => by
    exact (decode_wA rfl _ _ _ _ _).trans (need_of (Instr.guard_ok h) rfl)

theorem Laws.F.or (g : Guard) (d a b : SReg) : Laws.F.Statement (.or g d a b) :=
  Laws.F.intro rfl fun h => by
    exact (decode_wA rfl _ _ _ _ _).trans (need_of (Instr.guard_ok h) rfl)

theorem Laws.F.xor (g : Guard) (d a b : SReg) : Laws.F.Statement (.xor g d a b) :=
  Laws.F.intro rfl fun h => by
    exact (decode_wA rfl _ _ _ _ _).trans (need_of (Instr.guard_ok h) rfl)

theorem Laws.F.andn (g : Guard) (d a b : SReg) : Laws.F.Statement (.andn g d a b) :=
  Laws.F.intro rfl fun h => by
    exact (decode_wA rfl _ _ _ _ _).trans (need_of (Instr.guard_ok h) rfl)

theorem Laws.F.orn (g : Guard) (d a b : SReg) : Laws.F.Statement (.orn g d a b) :=
  Laws.F.intro rfl fun h => by
    exact (decode_wA rfl _ _ _ _ _).trans (need_of (Instr.guard_ok h) rfl)

theorem Laws.F.shl (g : Guard) (d a b : SReg) : Laws.F.Statement (.shl g d a b) :=
  Laws.F.intro rfl fun h => by
    exact (decode_wA rfl _ _ _ _ _).trans (need_of (Instr.guard_ok h) rfl)

theorem Laws.F.shr (g : Guard) (d a b : SReg) : Laws.F.Statement (.shr g d a b) :=
  Laws.F.intro rfl fun h => by
    exact (decode_wA rfl _ _ _ _ _).trans (need_of (Instr.guard_ok h) rfl)

theorem Laws.F.sra (g : Guard) (d a b : SReg) : Laws.F.Statement (.sra g d a b) :=
  Laws.F.intro rfl fun h => by
    exact (decode_wA rfl _ _ _ _ _).trans (need_of (Instr.guard_ok h) rfl)

theorem Laws.F.rol (g : Guard) (d a b : SReg) : Laws.F.Statement (.rol g d a b) :=
  Laws.F.intro rfl fun h => by
    exact (decode_wA rfl _ _ _ _ _).trans (need_of (Instr.guard_ok h) rfl)

theorem Laws.F.clz (g : Guard) (d a : SReg) : Laws.F.Statement (.clz g d a) :=
  Laws.F.intro rfl fun h => by
    exact (decode_wA rfl _ _ _ _ _).trans (need_of (Instr.guard_ok h) rfl)

theorem Laws.F.ctz (g : Guard) (d a : SReg) : Laws.F.Statement (.ctz g d a) :=
  Laws.F.intro rfl fun h => by
    exact (decode_wA rfl _ _ _ _ _).trans (need_of (Instr.guard_ok h) rfl)

theorem Laws.F.popc (g : Guard) (d a : SReg) : Laws.F.Statement (.popc g d a) :=
  Laws.F.intro rfl fun h => by
    exact (decode_wA rfl _ _ _ _ _).trans (need_of (Instr.guard_ok h) rfl)

theorem Laws.F.bswap (g : Guard) (d a : SReg) : Laws.F.Statement (.bswap g d a) :=
  Laws.F.intro rfl fun h => by
    exact (decode_wA rfl _ _ _ _ _).trans (need_of (Instr.guard_ok h) rfl)

theorem Laws.F.min (g : Guard) (d a b : SReg) : Laws.F.Statement (.min g d a b) :=
  Laws.F.intro rfl fun h => by
    exact (decode_wA rfl _ _ _ _ _).trans (need_of (Instr.guard_ok h) rfl)

theorem Laws.F.max (g : Guard) (d a b : SReg) : Laws.F.Statement (.max g d a b) :=
  Laws.F.intro rfl fun h => by
    exact (decode_wA rfl _ _ _ _ _).trans (need_of (Instr.guard_ok h) rfl)

theorem Laws.F.minz (g : Guard) (d a b : SReg) : Laws.F.Statement (.minz g d a b) :=
  Laws.F.intro rfl fun h => by
    exact (decode_wA rfl _ _ _ _ _).trans (need_of (Instr.guard_ok h) rfl)

theorem Laws.F.maxz (g : Guard) (d a b : SReg) : Laws.F.Statement (.maxz g d a b) :=
  Laws.F.intro rfl fun h => by
    exact (decode_wA rfl _ _ _ _ _).trans (need_of (Instr.guard_ok h) rfl)

theorem Laws.F.sextB (g : Guard) (d a : SReg) : Laws.F.Statement (.sextB g d a) :=
  Laws.F.intro rfl fun h => by
    exact (decode_wA rfl _ _ _ _ _).trans (need_of (Instr.guard_ok h) rfl)

theorem Laws.F.sextH (g : Guard) (d a : SReg) : Laws.F.Statement (.sextH g d a) :=
  Laws.F.intro rfl fun h => by
    exact (decode_wA rfl _ _ _ _ _).trans (need_of (Instr.guard_ok h) rfl)

theorem Laws.F.sextW (g : Guard) (d a : SReg) : Laws.F.Statement (.sextW g d a) :=
  Laws.F.intro rfl fun h => by
    exact (decode_wA rfl _ _ _ _ _).trans (need_of (Instr.guard_ok h) rfl)

theorem Laws.F.zextB (g : Guard) (d a : SReg) : Laws.F.Statement (.zextB g d a) :=
  Laws.F.intro rfl fun h => by
    exact (decode_wA rfl _ _ _ _ _).trans (need_of (Instr.guard_ok h) rfl)

theorem Laws.F.zextH (g : Guard) (d a : SReg) : Laws.F.Statement (.zextH g d a) :=
  Laws.F.intro rfl fun h => by
    exact (decode_wA rfl _ _ _ _ _).trans (need_of (Instr.guard_ok h) rfl)

theorem Laws.F.zextW (g : Guard) (d a : SReg) : Laws.F.Statement (.zextW g d a) :=
  Laws.F.intro rfl fun h => by
    exact (decode_wA rfl _ _ _ _ _).trans (need_of (Instr.guard_ok h) rfl)

theorem Laws.F.sel (g : Guard) (d a b : SReg) (n : PReg) : Laws.F.Statement (.sel g d a b n) :=
  Laws.F.intro rfl fun h => by
    refine (decode_wA rfl _ _ _ _ _).trans (need_of (Instr.guard_ok h) ?_)
    simp only [decGuarded, decAlu]
    simp

theorem Laws.F.cmp (g : Guard) (d : PReg) (a b : SReg) (cc : BitVec 4) : Laws.F.Statement (.cmp g d a b cc) :=
  Laws.F.intro rfl fun h => by
    refine (decode_wA rfl _ _ _ _ _).trans (need_of (Instr.guard_ok h) ?_)
    have hf := Instr.fields_ok h
    simp only [Instr.fieldsOk] at hf
    simp only [decGuarded, decAlu]
    try simp at hf
    simp [hf]

theorem Laws.F.addi (g : Guard) (d a : SReg) (imm : BitVec 12) : Laws.F.Statement (.addi g d a imm) :=
  Laws.F.intro rfl fun h => by
    exact (decode_wI rfl _ _ _ _).trans (need_of (Instr.guard_ok h) rfl)

theorem Laws.F.andi (g : Guard) (d a : SReg) (imm : BitVec 12) : Laws.F.Statement (.andi g d a imm) :=
  Laws.F.intro rfl fun h => by
    exact (decode_wI rfl _ _ _ _).trans (need_of (Instr.guard_ok h) rfl)

theorem Laws.F.ori (g : Guard) (d a : SReg) (imm : BitVec 12) : Laws.F.Statement (.ori g d a imm) :=
  Laws.F.intro rfl fun h => by
    exact (decode_wI rfl _ _ _ _).trans (need_of (Instr.guard_ok h) rfl)

theorem Laws.F.xori (g : Guard) (d a : SReg) (imm : BitVec 12) : Laws.F.Statement (.xori g d a imm) :=
  Laws.F.intro rfl fun h => by
    exact (decode_wI rfl _ _ _ _).trans (need_of (Instr.guard_ok h) rfl)

theorem Laws.F.shli (g : Guard) (d a : SReg) (n : BitVec 6) : Laws.F.Statement (.shli g d a n) :=
  Laws.F.intro rfl fun h => by
    refine (decode_wI rfl _ _ _ _).trans (need_of (Instr.guard_ok h) ?_)
    simp only [decGuarded, decShift]
    simp

theorem Laws.F.shri (g : Guard) (d a : SReg) (n : BitVec 6) : Laws.F.Statement (.shri g d a n) :=
  Laws.F.intro rfl fun h => by
    refine (decode_wI rfl _ _ _ _).trans (need_of (Instr.guard_ok h) ?_)
    simp only [decGuarded, decShift]
    simp

theorem Laws.F.srai (g : Guard) (d a : SReg) (n : BitVec 6) : Laws.F.Statement (.srai g d a n) :=
  Laws.F.intro rfl fun h => by
    refine (decode_wI rfl _ _ _ _).trans (need_of (Instr.guard_ok h) ?_)
    simp only [decGuarded, decShift]
    simp

theorem Laws.F.roli (g : Guard) (d a : SReg) (n : BitVec 6) : Laws.F.Statement (.roli g d a n) :=
  Laws.F.intro rfl fun h => by
    refine (decode_wI rfl _ _ _ _).trans (need_of (Instr.guard_ok h) ?_)
    simp only [decGuarded, decShift]
    simp

theorem Laws.F.cmpi (g : Guard) (d : PReg) (cc : BitVec 4) (a : SReg) (imm : BitVec 10) : Laws.F.Statement (.cmpi g d cc a imm) :=
  Laws.F.intro rfl fun h => by
    refine (decode_wIC _ _ _ _ _).trans (need_of (Instr.guard_ok h) ?_)
    have hf := Instr.fields_ok h
    simp only [Instr.fieldsOk] at hf
    try simp at hf
    simp [hf]

theorem Laws.F.lui (d : SReg) (imm : BitVec 21) : Laws.F.Statement (.lui d imm) :=
  Laws.F.intro rfl fun h => by
    simp [decode, show formatOf 0x08#6 = .jump from rfl]

theorem Laws.F.addpc (d : SReg) (imm : BitVec 21) : Laws.F.Statement (.addpc d imm) :=
  Laws.F.intro rfl fun h => by
    simp [decode, show formatOf 0x09#6 = .jump from rfl]

theorem Laws.F.ldB (g : Guard) (d a : SReg) (k : BitVec 12) : Laws.F.Statement (.ldB g d a k) :=
  Laws.F.intro rfl fun h => by
    exact (decode_wI rfl _ _ _ _).trans (need_of (Instr.guard_ok h) rfl)

theorem Laws.F.ldBz (g : Guard) (d a : SReg) (k : BitVec 12) : Laws.F.Statement (.ldBz g d a k) :=
  Laws.F.intro rfl fun h => by
    exact (decode_wI rfl _ _ _ _).trans (need_of (Instr.guard_ok h) rfl)

theorem Laws.F.ldH (g : Guard) (d a : SReg) (k : BitVec 12) : Laws.F.Statement (.ldH g d a k) :=
  Laws.F.intro rfl fun h => by
    exact (decode_wI rfl _ _ _ _).trans (need_of (Instr.guard_ok h) rfl)

theorem Laws.F.ldHz (g : Guard) (d a : SReg) (k : BitVec 12) : Laws.F.Statement (.ldHz g d a k) :=
  Laws.F.intro rfl fun h => by
    exact (decode_wI rfl _ _ _ _).trans (need_of (Instr.guard_ok h) rfl)

theorem Laws.F.ldW (g : Guard) (d a : SReg) (k : BitVec 12) : Laws.F.Statement (.ldW g d a k) :=
  Laws.F.intro rfl fun h => by
    exact (decode_wI rfl _ _ _ _).trans (need_of (Instr.guard_ok h) rfl)

theorem Laws.F.ldWz (g : Guard) (d a : SReg) (k : BitVec 12) : Laws.F.Statement (.ldWz g d a k) :=
  Laws.F.intro rfl fun h => by
    exact (decode_wI rfl _ _ _ _).trans (need_of (Instr.guard_ok h) rfl)

theorem Laws.F.ldD (g : Guard) (d a : SReg) (k : BitVec 12) : Laws.F.Statement (.ldD g d a k) :=
  Laws.F.intro rfl fun h => by
    exact (decode_wI rfl _ _ _ _).trans (need_of (Instr.guard_ok h) rfl)

theorem Laws.F.stB (g : Guard) (d a : SReg) (k : BitVec 12) : Laws.F.Statement (.stB g d a k) :=
  Laws.F.intro rfl fun h => by
    exact (decode_wI rfl _ _ _ _).trans (need_of (Instr.guard_ok h) rfl)

theorem Laws.F.stH (g : Guard) (d a : SReg) (k : BitVec 12) : Laws.F.Statement (.stH g d a k) :=
  Laws.F.intro rfl fun h => by
    exact (decode_wI rfl _ _ _ _).trans (need_of (Instr.guard_ok h) rfl)

theorem Laws.F.stW (g : Guard) (d a : SReg) (k : BitVec 12) : Laws.F.Statement (.stW g d a k) :=
  Laws.F.intro rfl fun h => by
    exact (decode_wI rfl _ _ _ _).trans (need_of (Instr.guard_ok h) rfl)

theorem Laws.F.stD (g : Guard) (d a : SReg) (k : BitVec 12) : Laws.F.Statement (.stD g d a k) :=
  Laws.F.intro rfl fun h => by
    exact (decode_wI rfl _ _ _ _).trans (need_of (Instr.guard_ok h) rfl)

theorem Laws.F.ldIndexed (g : Guard) (d a b : SReg) (size mod : BitVec 3) : Laws.F.Statement (.ldIndexed g d a b size mod) :=
  Laws.F.intro rfl fun h => by
    refine (decode_wA rfl _ _ _ _ _).trans (need_of (Instr.guard_ok h) ?_)
    have hf := Instr.fields_ok h
    simp only [Instr.fieldsOk] at hf
    simp only [decGuarded, decIndexed]
    try simp at hf
    simp [hf]

theorem Laws.F.stIndexed (g : Guard) (d a b : SReg) (size mod : BitVec 3) : Laws.F.Statement (.stIndexed g d a b size mod) :=
  Laws.F.intro rfl fun h => by
    refine (decode_wA rfl _ _ _ _ _).trans (need_of (Instr.guard_ok h) ?_)
    have hf := Instr.fields_ok h
    simp only [Instr.fieldsOk] at hf
    simp only [decGuarded, decIndexed]
    try simp at hf
    simp [hf]

theorem Laws.F.bCc (cc : BitVec 4) (a b : SReg) (off : BitVec 12) : Laws.F.Statement (.bCc cc a b off) :=
  Laws.F.intro rfl fun h => by
    refine (decode_wBR _ _ _ _).trans ?_
    have hf := Instr.fields_ok h
    simp only [Instr.fieldsOk] at hf
    try simp at hf
    simp [hf]

theorem Laws.F.biCc (cc : BitVec 4) (a : SReg) (imm : BitVec 5) (off : BitVec 12) : Laws.F.Statement (.biCc cc a imm off) :=
  Laws.F.intro rfl fun h => by
    refine (decode_wBI _ _ _ _).trans ?_
    have hf := Instr.fields_ok h
    simp only [Instr.fieldsOk] at hf
    try simp at hf
    simp [hf]

theorem Laws.F.j (imm : BitVec 21) : Laws.F.Statement (.j imm) :=
  Laws.F.intro rfl fun h => by
    simp [decode, show formatOf 0x18#6 = .jump from rfl]

theorem Laws.F.jal (d : SReg) (imm : BitVec 21) : Laws.F.Statement (.jal d imm) :=
  Laws.F.intro rfl fun h => by
    simp [decode, show formatOf 0x19#6 = .jump from rfl]

theorem Laws.F.jalr (g : Guard) (d a : SReg) (imm : BitVec 12) : Laws.F.Statement (.jalr g d a imm) :=
  Laws.F.intro rfl fun h => by
    exact (decode_wI rfl _ _ _ _).trans (need_of (Instr.guard_ok h) rfl)

theorem Laws.F.pand (g : Guard) (d a b : PReg) : Laws.F.Statement (.pand g d a b) :=
  Laws.F.intro rfl fun h => by
    refine (decode_wA rfl _ _ _ _ _).trans (need_of (Instr.guard_ok h) ?_)
    simp only [decGuarded, decPred]
    simp

theorem Laws.F.por (g : Guard) (d a b : PReg) : Laws.F.Statement (.por g d a b) :=
  Laws.F.intro rfl fun h => by
    refine (decode_wA rfl _ _ _ _ _).trans (need_of (Instr.guard_ok h) ?_)
    simp only [decGuarded, decPred]
    simp

theorem Laws.F.pxor (g : Guard) (d a b : PReg) : Laws.F.Statement (.pxor g d a b) :=
  Laws.F.intro rfl fun h => by
    refine (decode_wA rfl _ _ _ _ _).trans (need_of (Instr.guard_ok h) ?_)
    simp only [decGuarded, decPred]
    simp

theorem Laws.F.pnot (g : Guard) (d a : PReg) : Laws.F.Statement (.pnot g d a) :=
  Laws.F.intro rfl fun h => by
    refine (decode_wA rfl _ _ _ _ _).trans (need_of (Instr.guard_ok h) ?_)
    simp only [decGuarded, decPred]
    simp

theorem Laws.F.pmovPP (g : Guard) (d a : PReg) : Laws.F.Statement (.pmovPP g d a) :=
  Laws.F.intro rfl fun h => by
    refine (decode_wA rfl _ _ _ _ _).trans (need_of (Instr.guard_ok h) ?_)
    simp only [decGuarded, decPred]
    simp

theorem Laws.F.pmovPS (g : Guard) (d : PReg) (a : SReg) : Laws.F.Statement (.pmovPS g d a) :=
  Laws.F.intro rfl fun h => by
    refine (decode_wA rfl _ _ _ _ _).trans (need_of (Instr.guard_ok h) ?_)
    simp only [decGuarded, decPred]
    simp

theorem Laws.F.pmovSP (g : Guard) (d : SReg) (a : PReg) : Laws.F.Statement (.pmovSP g d a) :=
  Laws.F.intro rfl fun h => by
    refine (decode_wA rfl _ _ _ _ _).trans (need_of (Instr.guard_ok h) ?_)
    simp only [decGuarded, decPred]
    simp

theorem Laws.F.pcount (g : Guard) (d : SReg) (a : PReg) : Laws.F.Statement (.pcount g d a) :=
  Laws.F.intro rfl fun h => by
    refine (decode_wA rfl _ _ _ _ _).trans (need_of (Instr.guard_ok h) ?_)
    simp only [decGuarded, decPred]
    simp

theorem Laws.F.fadd (g : Guard) (d a b : SReg) (q : BitVec 1) : Laws.F.Statement (.fadd g d a b q) :=
  Laws.F.intro rfl fun h => by
    refine (decode_wA rfl _ _ _ _ _).trans (need_of (Instr.guard_ok h) ?_)
    simp only [decGuarded, decFp]
    simp

theorem Laws.F.fsub (g : Guard) (d a b : SReg) (q : BitVec 1) : Laws.F.Statement (.fsub g d a b q) :=
  Laws.F.intro rfl fun h => by
    refine (decode_wA rfl _ _ _ _ _).trans (need_of (Instr.guard_ok h) ?_)
    simp only [decGuarded, decFp]
    simp

theorem Laws.F.fmul (g : Guard) (d a b : SReg) (q : BitVec 1) : Laws.F.Statement (.fmul g d a b q) :=
  Laws.F.intro rfl fun h => by
    refine (decode_wA rfl _ _ _ _ _).trans (need_of (Instr.guard_ok h) ?_)
    simp only [decGuarded, decFp]
    simp

theorem Laws.F.fdiv (g : Guard) (d a b : SReg) (q : BitVec 1) : Laws.F.Statement (.fdiv g d a b q) :=
  Laws.F.intro rfl fun h => by
    refine (decode_wA rfl _ _ _ _ _).trans (need_of (Instr.guard_ok h) ?_)
    simp only [decGuarded, decFp]
    simp

theorem Laws.F.fsqrt (g : Guard) (d a : SReg) (q : BitVec 1) : Laws.F.Statement (.fsqrt g d a q) :=
  Laws.F.intro rfl fun h => by
    refine (decode_wA rfl _ _ _ _ _).trans (need_of (Instr.guard_ok h) ?_)
    simp only [decGuarded, decFp]
    simp

theorem Laws.F.fma (g : Guard) (d a b : SReg) (q : BitVec 1) : Laws.F.Statement (.fma g d a b q) :=
  Laws.F.intro rfl fun h => by
    refine (decode_wA rfl _ _ _ _ _).trans (need_of (Instr.guard_ok h) ?_)
    simp only [decGuarded, decFp]
    simp

theorem Laws.F.fmin (g : Guard) (d a b : SReg) (q : BitVec 1) : Laws.F.Statement (.fmin g d a b q) :=
  Laws.F.intro rfl fun h => by
    refine (decode_wA rfl _ _ _ _ _).trans (need_of (Instr.guard_ok h) ?_)
    simp only [decGuarded, decFp]
    simp

theorem Laws.F.fmax (g : Guard) (d a b : SReg) (q : BitVec 1) : Laws.F.Statement (.fmax g d a b q) :=
  Laws.F.intro rfl fun h => by
    refine (decode_wA rfl _ _ _ _ _).trans (need_of (Instr.guard_ok h) ?_)
    simp only [decGuarded, decFp]
    simp

theorem Laws.F.fclass (g : Guard) (d a : SReg) (q : BitVec 1) : Laws.F.Statement (.fclass g d a q) :=
  Laws.F.intro rfl fun h => by
    refine (decode_wA rfl _ _ _ _ _).trans (need_of (Instr.guard_ok h) ?_)
    simp only [decGuarded, decFp]
    simp

theorem Laws.F.fcmp (g : Guard) (d : PReg) (a b : SReg) (cc : BitVec 3) (q : BitVec 1) : Laws.F.Statement (.fcmp g d a b cc q) :=
  Laws.F.intro rfl fun h => by
    refine (decode_wA rfl _ _ _ _ _).trans (need_of (Instr.guard_ok h) ?_)
    have hf := Instr.fields_ok h
    simp only [Instr.fieldsOk] at hf
    simp only [decGuarded, decFp]
    try simp at hf
    simp [hf]

theorem Laws.F.fcvt (g : Guard) (d a : SReg) (src tgt : BitVec 4) : Laws.F.Statement (.fcvt g d a src tgt) :=
  Laws.F.intro rfl fun h => by
    refine (decode_wA rfl _ _ _ _ _).trans (need_of (Instr.guard_ok h) ?_)
    have hf := Instr.fields_ok h
    simp only [Instr.fieldsOk] at hf
    simp only [decGuarded, decFp]
    try simp at hf
    simp [hf]

theorem Laws.F.amoAdd (g : Guard) (d a b : SReg) (o : BitVec 3) : Laws.F.Statement (.amoAdd g d a b o) :=
  Laws.F.intro rfl fun h => by
    refine (decode_wA rfl _ _ _ _ _).trans (need_of (Instr.guard_ok h) ?_)
    have hf := Instr.fields_ok h
    simp only [Instr.fieldsOk] at hf
    simp only [decGuarded, decAtomic]
    try simp at hf
    simp [hf]

theorem Laws.F.amoAnd (g : Guard) (d a b : SReg) (o : BitVec 3) : Laws.F.Statement (.amoAnd g d a b o) :=
  Laws.F.intro rfl fun h => by
    refine (decode_wA rfl _ _ _ _ _).trans (need_of (Instr.guard_ok h) ?_)
    have hf := Instr.fields_ok h
    simp only [Instr.fieldsOk] at hf
    simp only [decGuarded, decAtomic]
    try simp at hf
    simp [hf]

theorem Laws.F.amoOr (g : Guard) (d a b : SReg) (o : BitVec 3) : Laws.F.Statement (.amoOr g d a b o) :=
  Laws.F.intro rfl fun h => by
    refine (decode_wA rfl _ _ _ _ _).trans (need_of (Instr.guard_ok h) ?_)
    have hf := Instr.fields_ok h
    simp only [Instr.fieldsOk] at hf
    simp only [decGuarded, decAtomic]
    try simp at hf
    simp [hf]

theorem Laws.F.amoXor (g : Guard) (d a b : SReg) (o : BitVec 3) : Laws.F.Statement (.amoXor g d a b o) :=
  Laws.F.intro rfl fun h => by
    refine (decode_wA rfl _ _ _ _ _).trans (need_of (Instr.guard_ok h) ?_)
    have hf := Instr.fields_ok h
    simp only [Instr.fieldsOk] at hf
    simp only [decGuarded, decAtomic]
    try simp at hf
    simp [hf]

theorem Laws.F.amoMin (g : Guard) (d a b : SReg) (o : BitVec 3) : Laws.F.Statement (.amoMin g d a b o) :=
  Laws.F.intro rfl fun h => by
    refine (decode_wA rfl _ _ _ _ _).trans (need_of (Instr.guard_ok h) ?_)
    have hf := Instr.fields_ok h
    simp only [Instr.fieldsOk] at hf
    simp only [decGuarded, decAtomic]
    try simp at hf
    simp [hf]

theorem Laws.F.amoMax (g : Guard) (d a b : SReg) (o : BitVec 3) : Laws.F.Statement (.amoMax g d a b o) :=
  Laws.F.intro rfl fun h => by
    refine (decode_wA rfl _ _ _ _ _).trans (need_of (Instr.guard_ok h) ?_)
    have hf := Instr.fields_ok h
    simp only [Instr.fieldsOk] at hf
    simp only [decGuarded, decAtomic]
    try simp at hf
    simp [hf]

theorem Laws.F.amoMinz (g : Guard) (d a b : SReg) (o : BitVec 3) : Laws.F.Statement (.amoMinz g d a b o) :=
  Laws.F.intro rfl fun h => by
    refine (decode_wA rfl _ _ _ _ _).trans (need_of (Instr.guard_ok h) ?_)
    have hf := Instr.fields_ok h
    simp only [Instr.fieldsOk] at hf
    simp only [decGuarded, decAtomic]
    try simp at hf
    simp [hf]

theorem Laws.F.amoMaxz (g : Guard) (d a b : SReg) (o : BitVec 3) : Laws.F.Statement (.amoMaxz g d a b o) :=
  Laws.F.intro rfl fun h => by
    refine (decode_wA rfl _ _ _ _ _).trans (need_of (Instr.guard_ok h) ?_)
    have hf := Instr.fields_ok h
    simp only [Instr.fieldsOk] at hf
    simp only [decGuarded, decAtomic]
    try simp at hf
    simp [hf]

theorem Laws.F.amoSwap (g : Guard) (d a b : SReg) (o : BitVec 3) : Laws.F.Statement (.amoSwap g d a b o) :=
  Laws.F.intro rfl fun h => by
    refine (decode_wA rfl _ _ _ _ _).trans (need_of (Instr.guard_ok h) ?_)
    have hf := Instr.fields_ok h
    simp only [Instr.fieldsOk] at hf
    simp only [decGuarded, decAtomic]
    try simp at hf
    simp [hf]

theorem Laws.F.cas (g : Guard) (d a b : SReg) (o : BitVec 3) : Laws.F.Statement (.cas g d a b o) :=
  Laws.F.intro rfl fun h => by
    refine (decode_wA rfl _ _ _ _ _).trans (need_of (Instr.guard_ok h) ?_)
    have hf := Instr.fields_ok h
    simp only [Instr.fieldsOk] at hf
    simp only [decGuarded, decAtomic]
    try simp at hf
    simp [hf]

theorem Laws.F.xaddF32 (g : Guard) (a b : SReg) (o : BitVec 3) : Laws.F.Statement (.xaddF32 g a b o) :=
  Laws.F.intro rfl fun h => by
    refine (decode_wA rfl _ _ _ _ _).trans (need_of (Instr.guard_ok h) ?_)
    have hf := Instr.fields_ok h
    simp only [Instr.fieldsOk] at hf
    simp only [decGuarded, decAtomic]
    try simp at hf
    simp [hf]

theorem Laws.F.xaddF64 (g : Guard) (a b : SReg) (o : BitVec 3) : Laws.F.Statement (.xaddF64 g a b o) :=
  Laws.F.intro rfl fun h => by
    refine (decode_wA rfl _ _ _ _ _).trans (need_of (Instr.guard_ok h) ?_)
    have hf := Instr.fields_ok h
    simp only [Instr.fieldsOk] at hf
    simp only [decGuarded, decAtomic]
    try simp at hf
    simp [hf]

theorem Laws.F.xmerge (g : Guard) (a b : SReg) (o : BitVec 3) : Laws.F.Statement (.xmerge g a b o) :=
  Laws.F.intro rfl fun h => by
    refine (decode_wA rfl _ _ _ _ _).trans (need_of (Instr.guard_ok h) ?_)
    have hf := Instr.fields_ok h
    simp only [Instr.fieldsOk] at hf
    simp only [decGuarded, decAtomic]
    try simp at hf
    simp [hf]

theorem Laws.F.fenceAcq (sc : BitVec 2) : Laws.F.Statement (.fenceAcq sc) :=
  Laws.F.intro rfl fun h => by
    refine (decode_fenceP _ _).trans ?_
    simp only [decFence]
    simp

theorem Laws.F.fenceRel (sc : BitVec 2) : Laws.F.Statement (.fenceRel sc) :=
  Laws.F.intro rfl fun h => by
    refine (decode_fenceP _ _).trans ?_
    simp only [decFence]
    simp

theorem Laws.F.fenceAr (sc : BitVec 2) : Laws.F.Statement (.fenceAr sc) :=
  Laws.F.intro rfl fun h => by
    refine (decode_fenceP _ _).trans ?_
    simp only [decFence]
    simp

theorem Laws.F.fenceP  : Laws.F.Statement (.fenceP) :=
  Laws.F.intro rfl fun h => by
    refine (decode_fenceP _ _).trans ?_
    simp only [decFence]
    simp

theorem Laws.F.waitc (l s : BitVec 6) (c m : BitVec 5) : Laws.F.Statement (.waitc l s c m) :=
  Laws.F.intro rfl fun h => by
    refine (decode_fenceP _ _).trans ?_
    have hf := Instr.fields_ok h
    simp only [Instr.fieldsOk] at hf
    simp only [decFence]
    try simp at hf
    simp [hf]

theorem Laws.F.pause (a : SReg) : Laws.F.Statement (.pause a) :=
  Laws.F.intro rfl fun h => by
    refine (decode_fenceP _ _).trans ?_
    simp only [decFence]
    simp

theorem Laws.F.srd (g : Guard) (d : SReg) (sel : BitVec 11) : Laws.F.Statement (.srd g d sel) :=
  Laws.F.intro rfl fun h => by
    refine (decode_wI rfl _ _ _ _).trans (need_of (Instr.guard_ok h) ?_)
    have hf := Instr.fields_ok h
    simp only [Instr.fieldsOk] at hf
    simp only [decGuarded, decSpecial]
    try simp at hf
    simp [hf]

theorem Laws.F.swr (g : Guard) (a : SReg) (sel : BitVec 11) : Laws.F.Statement (.swr g a sel) :=
  Laws.F.intro rfl fun h => by
    refine (decode_wI rfl _ _ _ _).trans (need_of (Instr.guard_ok h) ?_)
    have hf := Instr.fields_ok h
    simp only [Instr.fieldsOk] at hf
    simp only [decGuarded, decSpecial]
    simp
    split <;> simp_all [ownRow]

theorem Laws.F.vld (g : Guard) (d : VReg) (a : SReg) (k : BitVec 9) : Laws.F.Statement (.vld g d a k) :=
  Laws.F.intro rfl fun h => by
    refine (decode_wI rfl _ _ _ _).trans (need_of (Instr.guard_ok h) ?_)
    simp only [decGuarded, decVm]
    simp

theorem Laws.F.vst (g : Guard) (d : VReg) (a : SReg) (k : BitVec 9) : Laws.F.Statement (.vst g d a k) :=
  Laws.F.intro rfl fun h => by
    refine (decode_wI rfl _ _ _ _).trans (need_of (Instr.guard_ok h) ?_)
    simp only [decGuarded, decVm]
    simp

theorem Laws.F.vlds (g : Guard) (d : VReg) (a s : SReg) (w : BitVec 2) : Laws.F.Statement (.vlds g d a s w) :=
  Laws.F.intro rfl fun h => by
    refine (decode_wI rfl _ _ _ _).trans (need_of (Instr.guard_ok h) ?_)
    simp only [decGuarded, decVm]
    simp

theorem Laws.F.vldx (g : Guard) (d : VReg) (a : SReg) (x : VReg) (w : BitVec 2) : Laws.F.Statement (.vldx g d a x w) :=
  Laws.F.intro rfl fun h => by
    refine (decode_wI rfl _ _ _ _).trans (need_of (Instr.guard_ok h) ?_)
    simp only [decGuarded, decVm]
    simp

theorem Laws.F.vstx (g : Guard) (d : VReg) (a : SReg) (x : VReg) (w : BitVec 2) : Laws.F.Statement (.vstx g d a x w) :=
  Laws.F.intro rfl fun h => by
    refine (decode_wI rfl _ _ _ _).trans (need_of (Instr.guard_ok h) ?_)
    simp only [decGuarded, decVm]
    simp

theorem Laws.F.vldVol (g : Guard) (d : VReg) (a : SReg) (k : BitVec 9) : Laws.F.Statement (.vldVol g d a k) :=
  Laws.F.intro rfl fun h => by
    refine (decode_wI rfl _ _ _ _).trans (need_of (Instr.guard_ok h) ?_)
    simp only [decGuarded, decVm]
    simp

theorem Laws.F.vldFg (g : Guard) (d : VReg) (a : SReg) (k : BitVec 9) : Laws.F.Statement (.vldFg g d a k) :=
  Laws.F.intro rfl fun h => by
    refine (decode_wI rfl _ _ _ _).trans (need_of (Instr.guard_ok h) ?_)
    simp only [decGuarded, decVm]
    simp

theorem Laws.F.vaddInt (g : Guard) (d a b : VReg) (w : BitVec 2) : Laws.F.Statement (.vaddInt g d a b w) :=
  Laws.F.intro rfl fun h => by
    refine (decode_wA rfl _ _ _ _ _).trans (need_of (Instr.guard_ok h) ?_)
    simp only [decGuarded, decVint]
    simp

theorem Laws.F.vsubInt (g : Guard) (d a b : VReg) (w : BitVec 2) : Laws.F.Statement (.vsubInt g d a b w) :=
  Laws.F.intro rfl fun h => by
    refine (decode_wA rfl _ _ _ _ _).trans (need_of (Instr.guard_ok h) ?_)
    simp only [decGuarded, decVint]
    simp

theorem Laws.F.vmulInt (g : Guard) (d a b : VReg) (w : BitVec 2) : Laws.F.Statement (.vmulInt g d a b w) :=
  Laws.F.intro rfl fun h => by
    refine (decode_wA rfl _ _ _ _ _).trans (need_of (Instr.guard_ok h) ?_)
    simp only [decGuarded, decVint]
    simp

theorem Laws.F.vmulh (g : Guard) (d a b : VReg) (w : BitVec 2) : Laws.F.Statement (.vmulh g d a b w) :=
  Laws.F.intro rfl fun h => by
    refine (decode_wA rfl _ _ _ _ _).trans (need_of (Instr.guard_ok h) ?_)
    simp only [decGuarded, decVint]
    simp

theorem Laws.F.vmulhz (g : Guard) (d a b : VReg) (w : BitVec 2) : Laws.F.Statement (.vmulhz g d a b w) :=
  Laws.F.intro rfl fun h => by
    refine (decode_wA rfl _ _ _ _ _).trans (need_of (Instr.guard_ok h) ?_)
    simp only [decGuarded, decVint]
    simp

theorem Laws.F.vand (g : Guard) (d a b : VReg) (w : BitVec 2) : Laws.F.Statement (.vand g d a b w) :=
  Laws.F.intro rfl fun h => by
    refine (decode_wA rfl _ _ _ _ _).trans (need_of (Instr.guard_ok h) ?_)
    simp only [decGuarded, decVint]
    simp

theorem Laws.F.vor (g : Guard) (d a b : VReg) (w : BitVec 2) : Laws.F.Statement (.vor g d a b w) :=
  Laws.F.intro rfl fun h => by
    refine (decode_wA rfl _ _ _ _ _).trans (need_of (Instr.guard_ok h) ?_)
    simp only [decGuarded, decVint]
    simp

theorem Laws.F.vxor (g : Guard) (d a b : VReg) (w : BitVec 2) : Laws.F.Statement (.vxor g d a b w) :=
  Laws.F.intro rfl fun h => by
    refine (decode_wA rfl _ _ _ _ _).trans (need_of (Instr.guard_ok h) ?_)
    simp only [decGuarded, decVint]
    simp

theorem Laws.F.vshl (g : Guard) (d a b : VReg) (w : BitVec 2) : Laws.F.Statement (.vshl g d a b w) :=
  Laws.F.intro rfl fun h => by
    refine (decode_wA rfl _ _ _ _ _).trans (need_of (Instr.guard_ok h) ?_)
    simp only [decGuarded, decVint]
    simp

theorem Laws.F.vshr (g : Guard) (d a b : VReg) (w : BitVec 2) : Laws.F.Statement (.vshr g d a b w) :=
  Laws.F.intro rfl fun h => by
    refine (decode_wA rfl _ _ _ _ _).trans (need_of (Instr.guard_ok h) ?_)
    simp only [decGuarded, decVint]
    simp

theorem Laws.F.vsra (g : Guard) (d a b : VReg) (w : BitVec 2) : Laws.F.Statement (.vsra g d a b w) :=
  Laws.F.intro rfl fun h => by
    refine (decode_wA rfl _ _ _ _ _).trans (need_of (Instr.guard_ok h) ?_)
    simp only [decGuarded, decVint]
    simp

theorem Laws.F.vminInt (g : Guard) (d a b : VReg) (w : BitVec 2) : Laws.F.Statement (.vminInt g d a b w) :=
  Laws.F.intro rfl fun h => by
    refine (decode_wA rfl _ _ _ _ _).trans (need_of (Instr.guard_ok h) ?_)
    simp only [decGuarded, decVint]
    simp

theorem Laws.F.vmaxInt (g : Guard) (d a b : VReg) (w : BitVec 2) : Laws.F.Statement (.vmaxInt g d a b w) :=
  Laws.F.intro rfl fun h => by
    refine (decode_wA rfl _ _ _ _ _).trans (need_of (Instr.guard_ok h) ?_)
    simp only [decGuarded, decVint]
    simp

theorem Laws.F.vminz (g : Guard) (d a b : VReg) (w : BitVec 2) : Laws.F.Statement (.vminz g d a b w) :=
  Laws.F.intro rfl fun h => by
    refine (decode_wA rfl _ _ _ _ _).trans (need_of (Instr.guard_ok h) ?_)
    simp only [decGuarded, decVint]
    simp

theorem Laws.F.vmaxz (g : Guard) (d a b : VReg) (w : BitVec 2) : Laws.F.Statement (.vmaxz g d a b w) :=
  Laws.F.intro rfl fun h => by
    refine (decode_wA rfl _ _ _ _ _).trans (need_of (Instr.guard_ok h) ?_)
    simp only [decGuarded, decVint]
    simp

theorem Laws.F.vcmpInt (g : Guard) (d : PReg) (a b : VReg) (cc : BitVec 4) (w : BitVec 2) : Laws.F.Statement (.vcmpInt g d a b cc w) :=
  Laws.F.intro rfl fun h => by
    refine (decode_wA rfl _ _ _ _ _).trans (need_of (Instr.guard_ok h) ?_)
    have hf := Instr.fields_ok h
    simp only [Instr.fieldsOk] at hf
    simp only [decGuarded, decVint]
    try simp at hf
    simp [hf]

theorem Laws.F.vaddFp (g : Guard) (d a b : VReg) (t : BitVec 2) : Laws.F.Statement (.vaddFp g d a b t) :=
  Laws.F.intro rfl fun h => by
    refine (decode_wA rfl _ _ _ _ _).trans (need_of (Instr.guard_ok h) ?_)
    simp only [decGuarded, decVfp]
    simp

theorem Laws.F.vsubFp (g : Guard) (d a b : VReg) (t : BitVec 2) : Laws.F.Statement (.vsubFp g d a b t) :=
  Laws.F.intro rfl fun h => by
    refine (decode_wA rfl _ _ _ _ _).trans (need_of (Instr.guard_ok h) ?_)
    simp only [decGuarded, decVfp]
    simp

theorem Laws.F.vmulFp (g : Guard) (d a b : VReg) (t : BitVec 2) : Laws.F.Statement (.vmulFp g d a b t) :=
  Laws.F.intro rfl fun h => by
    refine (decode_wA rfl _ _ _ _ _).trans (need_of (Instr.guard_ok h) ?_)
    simp only [decGuarded, decVfp]
    simp

theorem Laws.F.vdiv (g : Guard) (d a b : VReg) (t : BitVec 2) : Laws.F.Statement (.vdiv g d a b t) :=
  Laws.F.intro rfl fun h => by
    refine (decode_wA rfl _ _ _ _ _).trans (need_of (Instr.guard_ok h) ?_)
    simp only [decGuarded, decVfp]
    simp

theorem Laws.F.vsqrt (g : Guard) (d a : VReg) (t : BitVec 2) : Laws.F.Statement (.vsqrt g d a t) :=
  Laws.F.intro rfl fun h => by
    refine (decode_wA rfl _ _ _ _ _).trans (need_of (Instr.guard_ok h) ?_)
    simp only [decGuarded, decVfp]
    simp

theorem Laws.F.vfma (g : Guard) (d a b : VReg) (t : BitVec 2) : Laws.F.Statement (.vfma g d a b t) :=
  Laws.F.intro rfl fun h => by
    refine (decode_wA rfl _ _ _ _ _).trans (need_of (Instr.guard_ok h) ?_)
    simp only [decGuarded, decVfp]
    simp

theorem Laws.F.vminFp (g : Guard) (d a b : VReg) (t : BitVec 2) : Laws.F.Statement (.vminFp g d a b t) :=
  Laws.F.intro rfl fun h => by
    refine (decode_wA rfl _ _ _ _ _).trans (need_of (Instr.guard_ok h) ?_)
    simp only [decGuarded, decVfp]
    simp

theorem Laws.F.vmaxFp (g : Guard) (d a b : VReg) (t : BitVec 2) : Laws.F.Statement (.vmaxFp g d a b t) :=
  Laws.F.intro rfl fun h => by
    refine (decode_wA rfl _ _ _ _ _).trans (need_of (Instr.guard_ok h) ?_)
    simp only [decGuarded, decVfp]
    simp

theorem Laws.F.vfrsqe (g : Guard) (d a : VReg) (t : BitVec 2) : Laws.F.Statement (.vfrsqe g d a t) :=
  Laws.F.intro rfl fun h => by
    refine (decode_wA rfl _ _ _ _ _).trans (need_of (Instr.guard_ok h) ?_)
    simp only [decGuarded, decVfp]
    simp

theorem Laws.F.vabs (g : Guard) (d a : VReg) (t : BitVec 2) : Laws.F.Statement (.vabs g d a t) :=
  Laws.F.intro rfl fun h => by
    refine (decode_wA rfl _ _ _ _ _).trans (need_of (Instr.guard_ok h) ?_)
    simp only [decGuarded, decVfp]
    simp

theorem Laws.F.vcmpFp (g : Guard) (d : PReg) (a b : VReg) (cc : BitVec 3) (t : BitVec 2) : Laws.F.Statement (.vcmpFp g d a b cc t) :=
  Laws.F.intro rfl fun h => by
    refine (decode_wA rfl _ _ _ _ _).trans (need_of (Instr.guard_ok h) ?_)
    have hf := Instr.fields_ok h
    simp only [Instr.fieldsOk] at hf
    simp only [decGuarded, decVfp]
    have hc : cc = 0 ∨ cc = 1 ∨ cc = 2 ∨ cc = 3 ∨ cc = 4 ∨ cc = 5 := by
      clear h
      revert cc
      decide
    rcases hc with rfl | rfl | rfl | rfl | rfl | rfl <;> simp

theorem Laws.F.vcvt (g : Guard) (d a : VReg) (src tgt : BitVec 4) : Laws.F.Statement (.vcvt g d a src tgt) :=
  Laws.F.intro rfl fun h => by
    refine (decode_wA rfl _ _ _ _ _).trans (need_of (Instr.guard_ok h) ?_)
    have hf := Instr.fields_ok h
    simp only [Instr.fieldsOk] at hf
    simp only [decGuarded, decVfp]
    try simp at hf
    simp [hf]

theorem Laws.F.vsel (g : Guard) (d a b : VReg) (n : PReg) : Laws.F.Statement (.vsel g d a b n) :=
  Laws.F.intro rfl fun h => by
    refine (decode_wA rfl _ _ _ _ _).trans (need_of (Instr.guard_ok h) ?_)
    simp only [decGuarded, decVmisc]
    simp

theorem Laws.F.vbcast (g : Guard) (d : VReg) (a : SReg) (w : BitVec 2) : Laws.F.Statement (.vbcast g d a w) :=
  Laws.F.intro rfl fun h => by
    refine (decode_wA rfl _ _ _ _ _).trans (need_of (Instr.guard_ok h) ?_)
    simp only [decGuarded, decVmisc]
    simp

theorem Laws.F.vperm (g : Guard) (d a b : VReg) (w : BitVec 2) : Laws.F.Statement (.vperm g d a b w) :=
  Laws.F.intro rfl fun h => by
    refine (decode_wA rfl _ _ _ _ _).trans (need_of (Instr.guard_ok h) ?_)
    simp only [decGuarded, decVmisc]
    simp

theorem Laws.F.vslide (g : Guard) (d a : VReg) (b : SReg) (w : BitVec 2) : Laws.F.Statement (.vslide g d a b w) :=
  Laws.F.intro rfl fun h => by
    refine (decode_wA rfl _ _ _ _ _).trans (need_of (Instr.guard_ok h) ?_)
    simp only [decGuarded, decVmisc]
    simp

theorem Laws.F.vredInt (g : Guard) (d : SReg) (a : VReg) (n : PReg) (op : BitVec 3) (w : BitVec 2) : Laws.F.Statement (.vredInt g d a n op w) :=
  Laws.F.intro rfl fun h => by
    refine (decode_wA rfl _ _ _ _ _).trans (need_of (Instr.guard_ok h) ?_)
    simp only [decGuarded, decVmisc]
    simp

theorem Laws.F.vredFp (g : Guard) (d : SReg) (a : VReg) (n : PReg) (op : BitVec 2) (t : BitVec 2) : Laws.F.Statement (.vredFp g d a n op t) :=
  Laws.F.intro rfl fun h => by
    refine (decode_wA rfl _ _ _ _ _).trans (need_of (Instr.guard_ok h) ?_)
    have hf := Instr.fields_ok h
    simp only [Instr.fieldsOk] at hf
    simp only [decGuarded, decVmisc]
    try simp at hf
    simp [hf]

theorem Laws.F.vscan (g : Guard) (d a : VReg) (n : PReg) (w : BitVec 2) : Laws.F.Statement (.vscan g d a n w) :=
  Laws.F.intro rfl fun h => by
    refine (decode_wA rfl _ _ _ _ _).trans (need_of (Instr.guard_ok h) ?_)
    simp only [decGuarded, decVmisc]
    simp

theorem Laws.F.vcompact (g : Guard) (d a : VReg) (n : PReg) (w : BitVec 2) : Laws.F.Statement (.vcompact g d a n w) :=
  Laws.F.intro rfl fun h => by
    refine (decode_wA rfl _ _ _ _ _).trans (need_of (Instr.guard_ok h) ?_)
    simp only [decGuarded, decVmisc]
    simp

theorem Laws.F.vext (g : Guard) (d : SReg) (a : VReg) (b : SReg) (w : BitVec 2) : Laws.F.Statement (.vext g d a b w) :=
  Laws.F.intro rfl fun h => by
    refine (decode_wA rfl _ _ _ _ _).trans (need_of (Instr.guard_ok h) ?_)
    simp only [decGuarded, decVmisc]
    simp

theorem Laws.F.vins (g : Guard) (d : VReg) (a b : SReg) (w : BitVec 2) : Laws.F.Statement (.vins g d a b w) :=
  Laws.F.intro rfl fun h => by
    refine (decode_wA rfl _ _ _ _ _).trans (need_of (Instr.guard_ok h) ?_)
    simp only [decGuarded, decVmisc]
    simp

theorem Laws.F.vdotI8 (g : Guard) (d a b : VReg) : Laws.F.Statement (.vdotI8 g d a b) :=
  Laws.F.intro rfl fun h => by
    exact (decode_wA rfl _ _ _ _ _).trans (need_of (Instr.guard_ok h) rfl)

theorem Laws.F.vdotF16 (g : Guard) (d a b : VReg) : Laws.F.Statement (.vdotF16 g d a b) :=
  Laws.F.intro rfl fun h => by
    exact (decode_wA rfl _ _ _ _ _).trans (need_of (Instr.guard_ok h) rfl)

theorem Laws.F.vdotBf16 (g : Guard) (d a b : VReg) : Laws.F.Statement (.vdotBf16 g d a b) :=
  Laws.F.intro rfl fun h => by
    exact (decode_wA rfl _ _ _ _ _).trans (need_of (Instr.guard_ok h) rfl)

theorem Laws.F.vdotE4m3 (g : Guard) (d a b : VReg) : Laws.F.Statement (.vdotE4m3 g d a b) :=
  Laws.F.intro rfl fun h => by
    exact (decode_wA rfl _ _ _ _ _).trans (need_of (Instr.guard_ok h) rfl)

theorem Laws.F.spawn (g : Guard) (pd : PReg) (a : SReg) : Laws.F.Statement (.spawn g pd a) :=
  Laws.F.intro rfl fun h => by
    refine (decode_wE rfl _ _ _ _ _ _ _ _).trans (need_of (Instr.guard_ok h) ?_)
    have hf := Instr.fields_ok h
    simp only [Instr.fieldsOk] at hf
    simp only [decEngine, decTask]
    try simp at hf
    simp [hf]

theorem Laws.F.spawnj (g : Guard) (pd : PReg) (a : SReg) : Laws.F.Statement (.spawnj g pd a) :=
  Laws.F.intro rfl fun h => by
    refine (decode_wE rfl _ _ _ _ _ _ _ _).trans (need_of (Instr.guard_ok h) ?_)
    have hf := Instr.fields_ok h
    simp only [Instr.fieldsOk] at hf
    simp only [decEngine, decTask]
    try simp at hf
    simp [hf]

theorem Laws.F.join (g : Guard) (a : SReg) : Laws.F.Statement (.join g a) :=
  Laws.F.intro rfl fun h => by
    exact (decode_wE rfl _ _ _ _ _ _ _ _).trans (need_of (Instr.guard_ok h) rfl)

theorem Laws.F.tend (g : Guard) : Laws.F.Statement (.tend g) :=
  Laws.F.intro rfl fun h => by
    exact (decode_wE rfl _ _ _ _ _ _ _ _).trans (need_of (Instr.guard_ok h) rfl)

theorem Laws.F.launch (g : Guard) (t a : SReg) : Laws.F.Statement (.launch g t a) :=
  Laws.F.intro rfl fun h => by
    exact (decode_wE rfl _ _ _ _ _ _ _ _).trans (need_of (Instr.guard_ok h) rfl)

theorem Laws.F.send (g : Guard) (sc : BitVec 2) (t a b : SReg) (rel : BitVec 1) : Laws.F.Statement (.send g sc t a b rel) :=
  Laws.F.intro rfl fun h => by
    refine (decode_wE rfl _ _ _ _ _ _ _ _).trans (need_of (Instr.guard_ok h) ?_)
    have hf := Instr.fields_ok h
    simp only [Instr.fieldsOk] at hf
    simp only [decEngine, decMessage]
    try simp at hf
    simp [hf]

theorem Laws.F.dqpush (g : Guard) (pd : PReg) (a : SReg) : Laws.F.Statement (.dqpush g pd a) :=
  Laws.F.intro rfl fun h => by
    refine (decode_wE rfl _ _ _ _ _ _ _ _).trans (need_of (Instr.guard_ok h) ?_)
    have hf := Instr.fields_ok h
    simp only [Instr.fieldsOk] at hf
    simp only [decEngine, decDeque]
    try simp at hf
    simp [hf]

theorem Laws.F.dqpop (g : Guard) (pd : PReg) (d : SReg) : Laws.F.Statement (.dqpop g pd d) :=
  Laws.F.intro rfl fun h => by
    refine (decode_wE rfl _ _ _ _ _ _ _ _).trans (need_of (Instr.guard_ok h) ?_)
    have hf := Instr.fields_ok h
    simp only [Instr.fieldsOk] at hf
    simp only [decEngine, decDeque]
    try simp at hf
    simp [hf]

theorem Laws.F.dqsplit (g : Guard) (pd : PReg) (d : SReg) : Laws.F.Statement (.dqsplit g pd d) :=
  Laws.F.intro rfl fun h => by
    refine (decode_wE rfl _ _ _ _ _ _ _ _).trans (need_of (Instr.guard_ok h) ?_)
    have hf := Instr.fields_ok h
    simp only [Instr.fieldsOk] at hf
    simp only [decEngine, decDeque]
    try simp at hf
    simp [hf]

theorem Laws.F.dqsteal (g : Guard) (pd : PReg) (d b : SReg) : Laws.F.Statement (.dqsteal g pd d b) :=
  Laws.F.intro rfl fun h => by
    refine (decode_wE rfl _ _ _ _ _ _ _ _).trans (need_of (Instr.guard_ok h) ?_)
    have hf := Instr.fields_ok h
    simp only [Instr.fieldsOk] at hf
    simp only [decEngine, decDeque]
    try simp at hf
    simp [hf]

theorem Laws.F.balloc (g : Guard) (sc : BitVec 2) (d : SReg) (pd : PReg) (b : SReg) : Laws.F.Statement (.balloc g sc d pd b) :=
  Laws.F.intro rfl fun h => by
    refine (decode_wE rfl _ _ _ _ _ _ _ _).trans (need_of (Instr.guard_ok h) ?_)
    simp only [decEngine, decBarrier]
    simp

theorem Laws.F.bexpect (g : Guard) (a b : SReg) : Laws.F.Statement (.bexpect g a b) :=
  Laws.F.intro rfl fun h => by
    exact (decode_wE rfl _ _ _ _ _ _ _ _).trans (need_of (Instr.guard_ok h) rfl)

theorem Laws.F.barrive (g : Guard) (d a : SReg) : Laws.F.Statement (.barrive g d a) :=
  Laws.F.intro rfl fun h => by
    exact (decode_wE rfl _ _ _ _ _ _ _ _).trans (need_of (Instr.guard_ok h) rfl)

theorem Laws.F.bwait (g : Guard) (pd : PReg) (a b : SReg) : Laws.F.Statement (.bwait g pd a b) :=
  Laws.F.intro rfl fun h => by
    refine (decode_wE rfl _ _ _ _ _ _ _ _).trans (need_of (Instr.guard_ok h) ?_)
    simp only [decEngine, decBarrier]
    simp

theorem Laws.F.bfree (g : Guard) (a : SReg) : Laws.F.Statement (.bfree g a) :=
  Laws.F.intro rfl fun h => by
    exact (decode_wE rfl _ _ _ _ _ _ _ _).trans (need_of (Instr.guard_ok h) rfl)

theorem Laws.F.copy (g : Guard) (acq : BitVec 1) (sc : BitVec 2) (t a b : SReg) (rel : BitVec 1) : Laws.F.Statement (.copy g acq sc t a b rel) :=
  Laws.F.intro rfl fun h => by
    refine (decode_wE rfl _ _ _ _ _ _ _ _).trans (need_of (Instr.guard_ok h) ?_)
    have hf := Instr.fields_ok h
    simp only [Instr.fieldsOk] at hf
    simp only [decEngine, decCopy]
    try simp at hf
    simp [hf]

theorem Laws.F.put (g : Guard) (acq : BitVec 1) (sc : BitVec 2) (t a b : SReg) (rel : BitVec 1) : Laws.F.Statement (.put g acq sc t a b rel) :=
  Laws.F.intro rfl fun h => by
    refine (decode_wE rfl _ _ _ _ _ _ _ _).trans (need_of (Instr.guard_ok h) ?_)
    have hf := Instr.fields_ok h
    simp only [Instr.fieldsOk] at hf
    simp only [decEngine, decCopy]
    try simp at hf
    simp [hf]

theorem Laws.F.putO (g : Guard) (acq : BitVec 1) (sc : BitVec 2) (t a b : SReg) (rel : BitVec 1) : Laws.F.Statement (.putO g acq sc t a b rel) :=
  Laws.F.intro rfl fun h => by
    refine (decode_wE rfl _ _ _ _ _ _ _ _).trans (need_of (Instr.guard_ok h) ?_)
    have hf := Instr.fields_ok h
    simp only [Instr.fieldsOk] at hf
    simp only [decEngine, decCopy]
    try simp at hf
    simp [hf]

theorem Laws.F.gather (g : Guard) (acq : BitVec 1) (sc : BitVec 2) (t a b : SReg) (rel : BitVec 1) : Laws.F.Statement (.gather g acq sc t a b rel) :=
  Laws.F.intro rfl fun h => by
    refine (decode_wE rfl _ _ _ _ _ _ _ _).trans (need_of (Instr.guard_ok h) ?_)
    have hf := Instr.fields_ok h
    simp only [Instr.fieldsOk] at hf
    simp only [decEngine, decCopy]
    try simp at hf
    simp [hf]

theorem Laws.F.copyw (g : Guard) (acq : BitVec 1) (sc : BitVec 2) (t a b : SReg) : Laws.F.Statement (.copyw g acq sc t a b) :=
  Laws.F.intro rfl fun h => by
    refine (decode_wE rfl _ _ _ _ _ _ _ _).trans (need_of (Instr.guard_ok h) ?_)
    have hf := Instr.fields_ok h
    simp only [Instr.fieldsOk] at hf
    simp only [decEngine, decCopy]
    try simp at hf
    simp [hf]

theorem Laws.F.venc (g : Guard) (acq : BitVec 1) (sc : BitVec 2) (t a : SReg) (rel : BitVec 1) : Laws.F.Statement (.venc g acq sc t a rel) :=
  Laws.F.intro rfl fun h => by
    refine (decode_wE rfl _ _ _ _ _ _ _ _).trans (need_of (Instr.guard_ok h) ?_)
    have hf := Instr.fields_ok h
    simp only [Instr.fieldsOk] at hf
    simp only [decEngine, decCopy]
    try simp at hf
    simp [hf]

theorem Laws.F.mma (g : Guard) (d : AReg) (a b : SReg) : Laws.F.Statement (.mma g d a b) :=
  Laws.F.intro rfl fun h => by
    refine (decode_wA rfl _ _ _ _ _).trans (need_of (Instr.guard_ok h) ?_)
    have hf := Instr.fields_ok h
    simp only [Instr.fieldsOk] at hf
    simp only [decGuarded, decMatrix]
    try simp at hf
    simp [hf]

theorem Laws.F.mmas (g : Guard) (d : AReg) (a b : SReg) : Laws.F.Statement (.mmas g d a b) :=
  Laws.F.intro rfl fun h => by
    refine (decode_wA rfl _ _ _ _ _).trans (need_of (Instr.guard_ok h) ?_)
    have hf := Instr.fields_ok h
    simp only [Instr.fieldsOk] at hf
    simp only [decGuarded, decMatrix]
    try simp at hf
    simp [hf]

theorem Laws.F.mmal (g : Guard) (d : AReg) (a b : SReg) : Laws.F.Statement (.mmal g d a b) :=
  Laws.F.intro rfl fun h => by
    refine (decode_wA rfl _ _ _ _ _).trans (need_of (Instr.guard_ok h) ?_)
    have hf := Instr.fields_ok h
    simp only [Instr.fieldsOk] at hf
    simp only [decGuarded, decMatrix]
    try simp at hf
    simp [hf]

theorem Laws.F.mzero (g : Guard) (d : AReg) : Laws.F.Statement (.mzero g d) :=
  Laws.F.intro rfl fun h => by
    refine (decode_wA rfl _ _ _ _ _).trans (need_of (Instr.guard_ok h) ?_)
    simp only [decGuarded, decMatrix]
    simp

theorem Laws.F.mld (g : Guard) (d : AReg) (a : SReg) : Laws.F.Statement (.mld g d a) :=
  Laws.F.intro rfl fun h => by
    refine (decode_wA rfl _ _ _ _ _).trans (need_of (Instr.guard_ok h) ?_)
    simp only [decGuarded, decMatrix]
    simp

theorem Laws.F.mst (g : Guard) (d : AReg) (a : SReg) : Laws.F.Statement (.mst g d a) :=
  Laws.F.intro rfl fun h => by
    refine (decode_wA rfl _ _ _ _ _).trans (need_of (Instr.guard_ok h) ?_)
    simp only [decGuarded, decMatrix]
    simp

theorem Laws.F.prune (g : Guard) (d a : VReg) : Laws.F.Statement (.prune g d a) :=
  Laws.F.intro rfl fun h => by
    exact (decode_wA rfl _ _ _ _ _).trans (need_of (Instr.guard_ok h) rfl)

theorem Laws.F.ctld (g : Guard) (a : SReg) : Laws.F.Statement (.ctld g a) :=
  Laws.F.intro rfl fun h => by
    refine (decode_wA rfl _ _ _ _ _).trans (need_of (Instr.guard_ok h) ?_)
    have hf := Instr.fields_ok h
    simp only [Instr.fieldsOk] at hf
    simp only [decGuarded, decMatrix]
    try simp at hf
    simp [hf]

theorem Laws.F.xrnd (g : Guard) (d a b : SReg) (mode : BitVec 2) (q : BitVec 1) : Laws.F.Statement (.xrnd g d a b mode q) :=
  Laws.F.intro rfl fun h => by
    refine (decode_wA rfl _ _ _ _ _).trans (need_of (Instr.guard_ok h) ?_)
    have hf := Instr.fields_ok h
    simp only [Instr.fieldsOk] at hf
    simp only [decGuarded, decExact]
    try simp at hf
    simp [hf]

theorem Laws.F.xclr (g : Guard) (a : SReg) : Laws.F.Statement (.xclr g a) :=
  Laws.F.intro rfl fun h => by
    exact (decode_wA rfl _ _ _ _ _).trans (need_of (Instr.guard_ok h) rfl)

theorem Laws.F.build (g : Guard) (acq : BitVec 1) (sc : BitVec 2) (t a : SReg) (rel : BitVec 1) : Laws.F.Statement (.build g acq sc t a rel) :=
  Laws.F.intro rfl fun h => by
    refine (decode_wE rfl _ _ _ _ _ _ _ _).trans (need_of (Instr.guard_ok h) ?_)
    have hf := Instr.fields_ok h
    simp only [Instr.fieldsOk] at hf
    simp only [decEngine, decTree]
    try simp at hf
    simp [hf]

theorem Laws.F.refit (g : Guard) (acq : BitVec 1) (sc : BitVec 2) (t a : SReg) (rel : BitVec 1) : Laws.F.Statement (.refit g acq sc t a rel) :=
  Laws.F.intro rfl fun h => by
    refine (decode_wE rfl _ _ _ _ _ _ _ _).trans (need_of (Instr.guard_ok h) ?_)
    have hf := Instr.fields_ok h
    simp only [Instr.fieldsOk] at hf
    simp only [decEngine, decTree]
    try simp at hf
    simp [hf]

theorem Laws.F.rebal (g : Guard) (acq : BitVec 1) (sc : BitVec 2) (t a b : SReg) (rel : BitVec 1) : Laws.F.Statement (.rebal g acq sc t a b rel) :=
  Laws.F.intro rfl fun h => by
    refine (decode_wE rfl _ _ _ _ _ _ _ _).trans (need_of (Instr.guard_ok h) ?_)
    have hf := Instr.fields_ok h
    simp only [Instr.fieldsOk] at hf
    simp only [decEngine, decTree]
    try simp at hf
    simp [hf]

theorem Laws.F.gpin (g : Guard) (t a : SReg) : Laws.F.Statement (.gpin g t a) :=
  Laws.F.intro rfl fun h => by
    exact (decode_wE rfl _ _ _ _ _ _ _ _).trans (need_of (Instr.guard_ok h) rfl)

theorem Laws.F.gunpin (g : Guard) (t a b : SReg) : Laws.F.Statement (.gunpin g t a b) :=
  Laws.F.intro rfl fun h => by
    exact (decode_wE rfl _ _ _ _ _ _ _ _).trans (need_of (Instr.guard_ok h) rfl)

theorem Laws.F.bquery (g : Guard) (t a b : SReg) : Laws.F.Statement (.bquery g t a b) :=
  Laws.F.intro rfl fun h => by
    exact (decode_wE rfl _ _ _ _ _ _ _ _).trans (need_of (Instr.guard_ok h) rfl)

theorem Laws.F.pairgo (g : Guard) (acq : BitVec 1) (sc : BitVec 2) (t a : SReg) (rel : BitVec 1) : Laws.F.Statement (.pairgo g acq sc t a rel) :=
  Laws.F.intro rfl fun h => by
    refine (decode_wE rfl _ _ _ _ _ _ _ _).trans (need_of (Instr.guard_ok h) ?_)
    have hf := Instr.fields_ok h
    simp only [Instr.fieldsOk] at hf
    simp only [decEngine, decRelay]
    try simp at hf
    simp [hf]

theorem Laws.F.raygo (g : Guard) (acq : BitVec 1) (sc : BitVec 2) (t a : SReg) (rel : BitVec 1) : Laws.F.Statement (.raygo g acq sc t a rel) :=
  Laws.F.intro rfl fun h => by
    refine (decode_wE rfl _ _ _ _ _ _ _ _).trans (need_of (Instr.guard_ok h) ?_)
    have hf := Instr.fields_ok h
    simp only [Instr.fieldsOk] at hf
    simp only [decEngine, decRelay]
    try simp at hf
    simp [hf]

theorem Laws.F.nld (g : Guard) (d : VReg) (a b : SReg) : Laws.F.Statement (.nld g d a b) :=
  Laws.F.intro rfl fun h => by
    exact (decode_wE rfl _ _ _ _ _ _ _ _).trans (need_of (Instr.guard_ok h) rfl)

theorem Laws.F.verdict (g : Guard) (a b : SReg) : Laws.F.Statement (.verdict g a b) :=
  Laws.F.intro rfl fun h => by
    exact (decode_wE rfl _ _ _ _ _ _ _ _).trans (need_of (Instr.guard_ok h) rfl)

theorem Laws.F.sgen (g : Guard) (d : KReg) (a b : SReg) : Laws.F.Statement (.sgen g d a b) :=
  Laws.F.intro rfl fun h => by
    refine (decode_wA rfl _ _ _ _ _).trans (need_of (Instr.guard_ok h) ?_)
    simp only [decGuarded, decPacer]
    simp

theorem Laws.F.sand (g : Guard) (d a b : KReg) : Laws.F.Statement (.sand g d a b) :=
  Laws.F.intro rfl fun h => by
    refine (decode_wA rfl _ _ _ _ _).trans (need_of (Instr.guard_ok h) ?_)
    simp only [decGuarded, decPacer]
    simp

theorem Laws.F.sxnor (g : Guard) (d a b : KReg) : Laws.F.Statement (.sxnor g d a b) :=
  Laws.F.intro rfl fun h => by
    refine (decode_wA rfl _ _ _ _ _).trans (need_of (Instr.guard_ok h) ?_)
    simp only [decGuarded, decPacer]
    simp

theorem Laws.F.sor (g : Guard) (d a b : KReg) : Laws.F.Statement (.sor g d a b) :=
  Laws.F.intro rfl fun h => by
    refine (decode_wA rfl _ _ _ _ _).trans (need_of (Instr.guard_ok h) ?_)
    simp only [decGuarded, decPacer]
    simp

theorem Laws.F.snot (g : Guard) (d a : KReg) : Laws.F.Statement (.snot g d a) :=
  Laws.F.intro rfl fun h => by
    refine (decode_wA rfl _ _ _ _ _).trans (need_of (Instr.guard_ok h) ?_)
    simp only [decGuarded, decPacer]
    simp

theorem Laws.F.scnt (g : Guard) (d : SReg) (a : KReg) : Laws.F.Statement (.scnt g d a) :=
  Laws.F.intro rfl fun h => by
    refine (decode_wA rfl _ _ _ _ _).trans (need_of (Instr.guard_ok h) ?_)
    simp only [decGuarded, decPacer]
    simp

theorem Laws.F.scntp (g : Guard) (d : SReg) (a : KReg) (b : SReg) : Laws.F.Statement (.scntp g d a b) :=
  Laws.F.intro rfl fun h => by
    refine (decode_wA rfl _ _ _ _ _).trans (need_of (Instr.guard_ok h) ?_)
    simp only [decGuarded, decPacer]
    simp

theorem Laws.F.scvt (g : Guard) (d a b : SReg) : Laws.F.Statement (.scvt g d a b) :=
  Laws.F.intro rfl fun h => by
    exact (decode_wA rfl _ _ _ _ _).trans (need_of (Instr.guard_ok h) rfl)

theorem Laws.F.sregen (g : Guard) (d a : KReg) (b : SReg) : Laws.F.Statement (.sregen g d a b) :=
  Laws.F.intro rfl fun h => by
    refine (decode_wA rfl _ _ _ _ _).trans (need_of (Instr.guard_ok h) ?_)
    simp only [decGuarded, decPacer]
    simp

theorem Laws.F.sdelay (g : Guard) (d a : KReg) (b : SReg) : Laws.F.Statement (.sdelay g d a b) :=
  Laws.F.intro rfl fun h => by
    refine (decode_wA rfl _ _ _ _ _).trans (need_of (Instr.guard_ok h) ?_)
    simp only [decGuarded, decPacer]
    simp

theorem Laws.F.sld (g : Guard) (d : KReg) (a : SReg) : Laws.F.Statement (.sld g d a) :=
  Laws.F.intro rfl fun h => by
    refine (decode_wA rfl _ _ _ _ _).trans (need_of (Instr.guard_ok h) ?_)
    simp only [decGuarded, decPacer]
    simp

theorem Laws.F.sst (g : Guard) (d : KReg) (a : SReg) : Laws.F.Statement (.sst g d a) :=
  Laws.F.intro rfl fun h => by
    refine (decode_wA rfl _ _ _ _ _).trans (need_of (Instr.guard_ok h) ?_)
    simp only [decGuarded, decPacer]
    simp

theorem Laws.F.smux (g : Guard) (d a b n : KReg) : Laws.F.Statement (.smux g d a b n) :=
  Laws.F.intro rfl fun h => by
    refine (decode_wA rfl _ _ _ _ _).trans (need_of (Instr.guard_ok h) ?_)
    simp only [decGuarded, decPacer]
    simp

theorem Laws.F.fmt (rm : BitVec 2) (af bf df : BitVec 4) (scm : BitVec 3) (acc : BitVec 1) : Laws.F.Statement (.fmt rm af bf df scm acc) :=
  Laws.F.intro rfl fun h => by
    refine (decode_prefixP _ _).trans ?_
    simp only [decPrefix]
    simp

theorem Laws.F.immx (hi : BitVec 22) : Laws.F.Statement (.immx hi) :=
  Laws.F.intro rfl fun h => by
    refine (decode_prefixP _ _).trans ?_
    simp only [decPrefix]
    simp

theorem Laws.F.hint (kind : BitVec 4) : Laws.F.Statement (.hint kind) :=
  Laws.F.intro rfl fun h => by
    refine (decode_prefixP _ _).trans ?_
    have hf := Instr.fields_ok h
    simp only [Instr.fieldsOk] at hf
    simp only [decPrefix]
    try simp at hf
    simp [hf]

theorem Laws.F.trap (imm : BitVec 10) : Laws.F.Statement (.trap imm) :=
  Laws.F.intro rfl fun h => by
    refine (decode_wSYS _ _ _ _).trans ?_
    simp only [decSystem]
    simp

theorem Laws.F.syscall (imm : BitVec 10) : Laws.F.Statement (.syscall imm) :=
  Laws.F.intro rfl fun h => by
    refine (decode_wSYS _ _ _ _).trans ?_
    simp only [decSystem]
    simp

theorem Laws.F.rfe  : Laws.F.Statement (.rfe) :=
  Laws.F.intro rfl fun h => by
    refine (decode_wSYS _ _ _ _).trans ?_
    simp only [decSystem]
    simp

theorem Laws.F.tlbinv (a b : SReg) (kind : BitVec 2) : Laws.F.Statement (.tlbinv a b kind) :=
  Laws.F.intro rfl fun h => by
    refine (decode_wSYS _ _ _ _).trans ?_
    have hf := Instr.fields_ok h
    simp only [Instr.fieldsOk] at hf
    simp only [decSystem]
    rw [Bool.and_eq_true] at hf
    show need _ .field (need _ .code (need _ .field _)) = _
    rw [split_8_2_at_2_8, split_8_2_at_0_2, hf.1, hf.2]
    rfl

theorem Laws.F.replay (a : SReg) : Laws.F.Statement (.replay a) :=
  Laws.F.intro rfl fun h => by
    refine (decode_wSYS _ _ _ _).trans ?_
    simp only [decSystem]
    simp

theorem Laws.F.lease (a d : SReg) (kind : BitVec 10) : Laws.F.Statement (.lease a d kind) :=
  Laws.F.intro rfl fun h => by
    refine (decode_wSYS _ _ _ _).trans ?_
    have hf := Instr.fields_ok h
    simp only [Instr.fieldsOk] at hf
    simp only [decSystem]
    try simp at hf
    simp [hf]

theorem Laws.F.opmark (a : SReg) (kind : BitVec 10) : Laws.F.Statement (.opmark a kind) :=
  Laws.F.intro rfl fun h => by
    refine (decode_wSYS _ _ _ _).trans ?_
    have hf := Instr.fields_ok h
    simp only [Instr.fieldsOk] at hf
    simp only [decSystem]
    try simp at hf
    simp [hf]

theorem Laws.F.idle (a : SReg) : Laws.F.Statement (.idle a) :=
  Laws.F.intro rfl fun h => by
    refine (decode_wSYS _ _ _ _).trans ?_
    simp only [decSystem]
    simp

theorem Laws.F.reservedEncoding (w : BitVec 32) : Laws.F.Statement (.reservedEncoding w) :=
  Laws.F.no_word rfl

theorem Laws.F.preempt (g : Guard) (a : SReg) : Laws.F.Statement (.preempt g a) :=
  Laws.F.intro rfl fun h => by
    refine (decode_wI rfl _ _ _ _).trans (need_of (Instr.guard_ok h) ?_)
    simp only [decGuarded, decSpecial]
    simp

theorem Laws.F.resume (g : Guard) (a : SReg) : Laws.F.Statement (.resume g a) :=
  Laws.F.intro rfl fun h => by
    refine (decode_wI rfl _ _ _ _).trans (need_of (Instr.guard_ok h) ?_)
    simp only [decGuarded, decSpecial]
    simp

theorem Laws.F.kill (g : Guard) (a : SReg) : Laws.F.Statement (.kill g a) :=
  Laws.F.intro rfl fun h => by
    refine (decode_wI rfl _ _ _ _).trans (need_of (Instr.guard_ok h) ?_)
    simp only [decGuarded, decSpecial]
    simp

theorem Laws.F.rcbsync (g : Guard) (a : SReg) : Laws.F.Statement (.rcbsync g a) :=
  Laws.F.intro rfl fun h => by
    refine (decode_wI rfl _ _ _ _).trans (need_of (Instr.guard_ok h) ?_)
    simp only [decGuarded, decSpecial]
    simp

theorem Laws.F.fateRequeue  : Laws.F.Statement (.fateRequeue) :=
  Laws.F.no_word rfl

theorem Laws.F.fateEnd  : Laws.F.Statement (.fateEnd) :=
  Laws.F.no_word rfl

theorem Laws.F.fateKill  : Laws.F.Statement (.fateKill) :=
  Laws.F.no_word rfl

theorem Laws.F.stackbase (g : Guard) (a : SReg) : Laws.F.Statement (.stackbase g a) :=
  Laws.F.intro rfl fun h => by
    refine (decode_wI rfl _ _ _ _).trans (need_of (Instr.guard_ok h) ?_)
    simp only [decGuarded, decSpecial]
    simp

theorem Laws.F.ptroot (g : Guard) (a : SReg) : Laws.F.Statement (.ptroot g a) :=
  Laws.F.intro rfl fun h => by
    refine (decode_wI rfl _ _ _ _).trans (need_of (Instr.guard_ok h) ?_)
    simp only [decGuarded, decSpecial]
    simp

theorem Laws.F.lastue (g : Guard) (a : SReg) : Laws.F.Statement (.lastue g a) :=
  Laws.F.intro rfl fun h => by
    refine (decode_wI rfl _ _ _ _).trans (need_of (Instr.guard_ok h) ?_)
    simp only [decGuarded, decSpecial]
    simp

theorem Laws.F.dispatch (sid : Nat) : Laws.F.Statement (.dispatch sid) :=
  Laws.F.no_word rfl

theorem Laws.F.pauseEnd (sid : Nat) : Laws.F.Statement (.pauseEnd sid) :=
  Laws.F.no_word rfl

theorem Laws.F.loadCompletion (sid idx : Nat) : Laws.F.Statement (.loadCompletion sid idx) :=
  Laws.F.no_word rfl

theorem Laws.F.storeDrain (sid : Nat) : Laws.F.Statement (.storeDrain sid) :=
  Laws.F.no_word rfl

theorem Laws.F.homeAtomic (idx : Nat) : Laws.F.Statement (.homeAtomic idx) :=
  Laws.F.no_word rfl

theorem Laws.F.messageArrival (idx : Nat) : Laws.F.Statement (.messageArrival idx) :=
  Laws.F.no_word rfl

theorem Laws.F.putArrival (tile idx : Nat) : Laws.F.Statement (.putArrival tile idx) :=
  Laws.F.no_word rfl

theorem Laws.F.putAck (tile idx : Nat) : Laws.F.Statement (.putAck tile idx) :=
  Laws.F.no_word rfl

theorem Laws.F.copyCompletion (tile idx : Nat) : Laws.F.Statement (.copyCompletion tile idx) :=
  Laws.F.no_word rfl

theorem Laws.F.vencCompletion (die idx : Nat) : Laws.F.Statement (.vencCompletion die idx) :=
  Laws.F.no_word rfl

theorem Laws.F.barrierWatchdog (die idx : Nat) : Laws.F.Statement (.barrierWatchdog die idx) :=
  Laws.F.no_word rfl

theorem Laws.F.runWatchdog (sid : Nat) : Laws.F.Statement (.runWatchdog sid) :=
  Laws.F.no_word rfl

theorem Laws.F.remoteHomeMigration (sid : Nat) : Laws.F.Statement (.remoteHomeMigration sid) :=
  Laws.F.no_word rfl

theorem Laws.F.matrixAccept (sid : Nat) : Laws.F.Statement (.matrixAccept sid) :=
  Laws.F.no_word rfl

theorem Laws.F.matrixComplete (core : Nat) : Laws.F.Statement (.matrixComplete core) :=
  Laws.F.no_word rfl

theorem Laws.F.builderLock (die idx : Nat) : Laws.F.Statement (.builderLock die idx) :=
  Laws.F.no_word rfl

theorem Laws.F.builderStep (die idx : Nat) : Laws.F.Statement (.builderStep die idx) :=
  Laws.F.no_word rfl

theorem Laws.F.publish (die idx : Nat) : Laws.F.Statement (.publish die idx) :=
  Laws.F.no_word rfl

theorem Laws.F.relayCommandTake (tile : Nat) : Laws.F.Statement (.relayCommandTake tile) :=
  Laws.F.no_word rfl

theorem Laws.F.pairTest (tile : Nat) : Laws.F.Statement (.pairTest tile) :=
  Laws.F.no_word rfl

theorem Laws.F.relaySteal (tile : Nat) : Laws.F.Statement (.relaySteal tile) :=
  Laws.F.no_word rfl

theorem Laws.F.rayStep (tile idx : Nat) : Laws.F.Statement (.rayStep tile idx) :=
  Laws.F.no_word rfl

theorem Laws.F.relayQueuePlace (tile : Nat) : Laws.F.Statement (.relayQueuePlace tile) :=
  Laws.F.no_word rfl

theorem Laws.F.traversalEnd (tile : Nat) : Laws.F.Statement (.traversalEnd tile) :=
  Laws.F.no_word rfl

theorem Laws.F.tilesPlaced (rid : Nat) (tiles : List Nat) : Laws.F.Statement (.tilesPlaced rid tiles) :=
  Laws.F.no_word rfl

theorem Laws.F.preemptDrained (rid : Nat) : Laws.F.Statement (.preemptDrained rid) :=
  Laws.F.no_word rfl

theorem Laws.F.drainLimit (rid : Nat) : Laws.F.Statement (.drainLimit rid) :=
  Laws.F.no_word rfl

theorem Laws.F.regionEnd (rid : Nat) : Laws.F.Statement (.regionEnd rid) :=
  Laws.F.no_word rfl

theorem Laws.F.quotaWindow  : Laws.F.Statement (.quotaWindow) :=
  Laws.F.no_word rfl

theorem Laws.F.leaseExpiry (rid : Nat) : Laws.F.Statement (.leaseExpiry rid) :=
  Laws.F.no_word rfl

theorem Laws.F.mrd (pid queue len : Nat) (tag : BitVec 32) (addr : Word) : Laws.F.Statement (.mrd pid queue len tag addr) :=
  Laws.F.no_word rfl

theorem Laws.F.mwr (pid queue : Nat) (tag : BitVec 32) (addr : Word) (data : List Byte) : Laws.F.Statement (.mwr pid queue tag addr data) :=
  Laws.F.no_word rfl

theorem Laws.F.fence (pid queue : Nat) (tag : BitVec 32) : Laws.F.Statement (.fence pid queue tag) :=
  Laws.F.no_word rfl

theorem Laws.F.notifyLaunch (pid queue : Nat) (tag : BitVec 32) (payload : List Byte) : Laws.F.Statement (.notifyLaunch pid queue tag payload) :=
  Laws.F.no_word rfl

theorem Laws.F.notifyFabricLaunch (pid queue : Nat) (tag : BitVec 32) (payload : List Byte) : Laws.F.Statement (.notifyFabricLaunch pid queue tag payload) :=
  Laws.F.no_word rfl

theorem Laws.F.fabricLaunchPacket (pid port : Nat) (id : LaunchId) (place count : Nat) (packet : FabricPacket) :
    Laws.F.Statement (.fabricLaunchPacket pid port id place count packet) :=
  Laws.F.no_word rfl

theorem Laws.F.startBarrier (id : LaunchId) : Laws.F.Statement (.startBarrier id) :=
  Laws.F.no_word rfl

theorem Laws.F.packageUnreachable (id : LaunchId) (place : Nat) : Laws.F.Statement (.packageUnreachable id place) :=
  Laws.F.no_word rfl

theorem Laws.F.linkDown  : Laws.F.Statement (.linkDown) :=
  Laws.F.no_word rfl

theorem Laws.F.linkTrained  : Laws.F.Statement (.linkTrained) :=
  Laws.F.no_word rfl

theorem Laws.F.keygen (pid k : Nat) : Laws.F.Statement (.keygen pid k) :=
  Laws.F.no_word rfl

theorem Laws.F.keyclr (pid k : Nat) : Laws.F.Statement (.keyclr pid k) :=
  Laws.F.no_word rfl

theorem Laws.F.defset (pid : Nat) (field : RcbField) (value : Nat) : Laws.F.Statement (.defset pid field value) :=
  Laws.F.no_word rfl

theorem Laws.F.lattol (pid ns : Nat) : Laws.F.Statement (.lattol pid ns) :=
  Laws.F.no_word rfl

theorem Laws.F.attestation (pid : Nat) (nonce : List Byte) : Laws.F.Statement (.attestation pid nonce) :=
  Laws.F.no_word rfl

theorem Laws.F.partitioningChange (parts : List PartCfg) : Laws.F.Statement (.partitioningChange parts) :=
  Laws.F.no_word rfl

theorem Laws.F.governorPeriod (shares : Governed) : Laws.F.Statement (.governorPeriod shares) :=
  Laws.F.no_word rfl

theorem Laws.F.sensorSample (die : Nat) (readings : List Int) (currents : List Nat) : Laws.F.Statement (.sensorSample die readings currents) :=
  Laws.F.no_word rfl

theorem Laws.F.timingError (core : Nat) : Laws.F.Statement (.timingError core) :=
  Laws.F.no_word rfl

theorem Laws.F.stretchEnd (core : Nat) : Laws.F.Statement (.stretchEnd core) :=
  Laws.F.no_word rfl

theorem Laws.F.tileIdle (tile : Nat) : Laws.F.Statement (.tileIdle tile) :=
  Laws.F.no_word rfl

theorem Laws.F.tileWake (tile : Nat) : Laws.F.Statement (.tileWake tile) :=
  Laws.F.no_word rfl

theorem Laws.F.softError (e : SoftErr) : Laws.F.Statement (.softError e) :=
  Laws.F.no_word rfl

theorem Laws.F.packageReset  : Laws.F.Statement (.packageReset) :=
  Laws.F.no_word rfl

theorem Laws.F.bootStage (image : List Byte) (verified : Bool) : Laws.F.Statement (.bootStage image verified) :=
  Laws.F.no_word rfl

theorem Laws.F.configurationRecord (r : ConfigRecord) (verified : Bool) : Laws.F.Statement (.configurationRecord r verified) :=
  Laws.F.no_word rfl

theorem Laws.F.coreReset (core : Nat) : Laws.F.Statement (.coreReset core) :=
  Laws.F.no_word rfl

theorem Laws.F.packageRefused (id : LaunchId) (place : Nat) : Laws.F.Statement (.packageRefused id place) :=
  Laws.F.no_word rfl

end Sys2Proof
end

