-- ==== Sys2Proof/Tests/Slice0.lean ====
section
/-! SUPPORT. The model's own tests: words decoded as the spec lays them out, an ill-formed instruction for each check, small
results worked out from the rules, and for each statement a state and operands that meet its hypotheses. -/

namespace Sys2Proof.Tests

open Sys2Proof Sys2Proof.Machine

set_option maxRecDepth 100000
set_option Elab.async false
set_option exponentiation.threshold 40000

/-! ### Words written out from the encodings of chapter 05 -/

theorem test_decode_integer :
    decode 0x0414B600 = .ok (.add 0 10 11 12) ∧ decode 0x081406A0 = .ok (.addi 0 10 0 0x6A0) ∧
    decode 0x1816B020 = .ok (.shli 0 11 11 32) ∧ decode 0x1C112800 = .ok (.cmpi 0 2 2 10 0) ∧
    decode 0b001000_01010_000000000000000000011 = .ok (.lui 10 3) :=
  ⟨rfl, rfl, rfl, rfl, rfl⟩

theorem test_decode_control :
    decode 0x59164FFE = .ok (.bCc 4 11 4 0xFFE) ∧ decode 0x68001000 = .ok (.jalr 0 0 1 0) ∧
    decode 0x78000005 = .ok (.fenceAcq 1) ∧ decode 0b011110_0010_100000_000000_10000_00001 = .ok (.waitc 32 0 16 1) ∧
    decode 0b011110_0011_00000_01010_000000000000 = .ok (.pause 10) :=
  ⟨rfl, rfl, rfl, rfl, rfl⟩

theorem test_decode_memory :
    decode 0x42945010 = .ok (.ldD 0xA 10 5 0x10) ∧ decode 0x54145035 = .ok (.ldIndexed 0 10 5 0 6 5) ∧
    decode 0x7414B648 = .ok (.cas 0 10 11 12 0) :=
  ⟨rfl, rfl, rfl⟩

theorem test_decode_float :
    decode 0x7014B601 = .ok (.fadd 0 10 11 12 1) ∧ decode 0x7014B0C4 = .ok (.fcvt 0 10 11 1 4) :=
  ⟨rfl, rfl⟩

theorem test_decode_special :
    decode 0b011111_0000_01010_00000_000000110000 = .ok (.srd 0 10 0x030) ∧
    decode 0b011111_0000_00000_01010_110000000101 = .ok (.swr 0 10 0x405) ∧
    decode 0b111110_000000_00000_00000_0000000111 = .ok (.trap 7) ∧ decode 0xF9000000 = .ok .rfe ∧
    decode 0xF9152C02 = .ok (.tlbinv 10 11 2) ∧ decode 0xF9352C00 = .ok (.lease 10 11 0) :=
  ⟨rfl, rfl, rfl, rfl, rfl, rfl⟩

theorem test_decode_predicate :
    decode 0b011011_0000_00010_00011_00100_0000000 = .ok (.pand 0 2 3 4) ∧
    decode 0b011011_0000_01010_00011_00000_0000111 = .ok (.pcount 0 10 3) :=
  ⟨rfl, rfl⟩

theorem test_decode_vector :
    decode 0x88800001 = .ok (.vaddFp 2 0 0 0 1) ∧ decode 0x8000A000 = .ok (.vld 0 0 10 0) ∧
    decode 0x8008A658 = .ok (.vldx 0 4 10 5 2) ∧ decode 0x880610F2 = .ok (.vcvt 0 3 1 1 2) ∧
    decode 0x8404114A = .ok (.vcmpInt 0 2 1 2 2 2) ∧ decode 0x8C1411C1 = .ok (.vredFp 0 10 1 3 0 1) :=
  ⟨rfl, rfl, rfl, rfl, rfl, rfl⟩

theorem test_decode_tasks :
    decode 0x90081B00 = .ok (.spawnj 0 3 12) ∧ decode 0x90180000 = .ok (.tend 0) ∧
    decode 0x9020A280 = .ok (.launch 0 20 10) ∧ decode 0x9401A299 = .ok (.send 0 1 20 10 12 1) ∧
    decode 0b100110_0000_001000_00010_01010_00000_0 = .ok (.dqpop 0 2 10) ∧
    decode 0x9C01A094 = .ok (.balloc 0 1 20 2 10) :=
  ⟨rfl, rfl, rfl, rfl, rfl, rfl⟩

theorem test_decode_engines :
    decode 0xA001A2D5 = .ok (.copy 0 0 1 20 11 10 1) ∧ decode 0b101001_0000_00001_01010_01110_0000000 = .ok (.mma 0 1 10 14) ∧
    decode 0b101001_0000_00011_00100_00000_0000110 = .ok (.prune 0 3 4) ∧
    decode 0b101010_0000_01010_01011_01100_0000100 = .ok (.xrnd 0 10 11 12 2 0) ∧
    decode 0b101010_0000_00000_01010_00000_0001000 = .ok (.xclr 0 10) :=
  ⟨rfl, rfl, rfl, rfl, rfl⟩

theorem test_decode_trees :
    decode 0b101011_0000_000101_10100_01010_00000_1 = .ok (.build 0 1 1 20 10 1) ∧
    decode 0b101011_0000_100000_10100_01010_01011_0 = .ok (.gunpin 0 20 10 11) ∧
    decode 0b101100_0000_001000_10100_01010_00000_0 = .ok (.raygo 0 0 0 20 10 0) ∧
    decode 0b101100_0000_010000_00101_01010_01011_0 = .ok (.nld 0 5 10 11) :=
  ⟨rfl, rfl, rfl, rfl⟩

theorem test_decode_streams :
    decode 0xB402A580 = .ok (.sgen 0 1 10 11) ∧ decode 0xB4081113 = .ok (.smux 0 4 1 2 3) ∧
    decode 0xB41A1706 = .ok (.scntp 0 13 1 14) :=
  ⟨rfl, rfl, rfl⟩

theorem test_decode_prefixes :
    decode 0xF4400018 = .ok (.immx 0x18) ∧
    decode 0b111101_0000_11_0001_0010_0011_010_1_0000 = .ok (.fmt 3 1 2 3 2 1) :=
  ⟨rfl, rfl⟩

/-- Majors 0x00 and 0x3F are illegal; so are guard 8, a condition above 9, a register field's reserved bits. -/
theorem test_decode_refuses :
    (decode 0).isOk = false ∧ (decode 0xFFFFFFFF).isOk = false ∧ (decode 0x0614B600).isOk = false ∧
    (decode 0x1C152800).isOk = false ∧ (decode 0b011011_0000_10000_00011_00100_0000000).isOk = false :=
  ⟨rfl, rfl, rfl, rfl, rfl⟩

/-! ### One ill-formed instruction for each check -/

theorem test_wf_guard : (Instr.add 8 1 2 3).wf = false ∧ (Instr.add 9 1 2 3).wf = true := by decide
theorem test_wf_conditions :
    (Instr.cmp 0 1 2 3 10).wf = false ∧ (Instr.cmpi 0 1 10 2 3).wf = false ∧ (Instr.bCc 10 1 2 0).wf = false ∧
    (Instr.biCc 10 1 2 0).wf = false ∧ (Instr.vcmpInt 0 1 2 3 10 0).wf = false ∧ (Instr.fcmp 0 1 2 3 6 0).wf = false ∧
    (Instr.vcmpFp 0 1 2 3 6 0).wf = false := by decide
theorem test_wf_memory :
    (Instr.ldIndexed 0 1 2 3 7 0).wf = false ∧ (Instr.ldIndexed 0 1 2 3 0 3).wf = false ∧
    (Instr.stIndexed 0 1 2 3 1 0).wf = false ∧ (Instr.stIndexed 0 1 2 3 0 1).wf = false ∧
    (Instr.amoAdd 0 1 2 3 7).wf = false ∧ (Instr.xmerge 0 1 2 7).wf = false := by decide
theorem test_wf_formats :
    (Instr.fcvt 0 1 2 8 9).wf = false ∧ (Instr.fcvt 0 1 2 7 1).wf = false ∧ (Instr.vcvt 0 1 2 7 9).wf = false ∧
    (Instr.vredFp 0 1 2 3 3 0).wf = false := by decide
theorem test_wf_selectors :
    (Instr.srd 0 1 0x002).wf = false ∧ (Instr.swr 0 1 0x002).wf = false ∧ (Instr.swr 0 1 0x430).wf = false ∧
    (Instr.swr 0 1 0x431).wf = true := by decide
theorem test_wf_waitc :
    (Instr.waitc 33 0 0 0).wf = false ∧ (Instr.waitc 0 33 0 0).wf = false ∧ (Instr.waitc 0 0 17 0).wf = false ∧
    (Instr.waitc 0 0 0 17).wf = false ∧ (Instr.waitc 32 32 16 16).wf = true := by decide
theorem test_wf_register_groups :
    (Instr.spawn 0 1 29).wf = false ∧ (Instr.spawnj 0 1 29).wf = false ∧ (Instr.send 0 0 1 31 2 0).wf = false ∧
    (Instr.send 0 0 1 2 27 0).wf = false ∧ (Instr.dqpush 0 1 31).wf = false ∧ (Instr.dqpop 0 1 31).wf = false ∧
    (Instr.dqsteal 0 1 31 2).wf = false ∧ (Instr.ctld 0 31).wf = false ∧ (Instr.mma 0 1 30 2).wf = false ∧
    (Instr.xrnd 0 5 6 5 0 0).wf = false := by decide
theorem test_wf_scopes :
    (Instr.copy 0 0 1 2 3 4 0).wf = false ∧ (Instr.copyw 0 0 1 2 3 4).wf = false ∧ (Instr.send 0 1 2 3 4 0).wf = false ∧
    (Instr.build 0 0 1 2 3 0).wf = false := by decide
theorem test_wf_system :
    (Instr.hint 0).wf = false ∧ (Instr.hint 6).wf = false ∧ (Instr.tlbinv 0 0 3).wf = false ∧ (Instr.tlbinv 1 0 0).wf = false ∧
    (Instr.tlbinv 1 1 1).wf = false ∧ (Instr.lease 1 2 3).wf = false ∧ (Instr.opmark 1 2).wf = false := by decide
theorem test_wf_outside :
    (Instr.notifyLaunch 0 0 0 []).wf = false ∧ (Instr.notifyFabricLaunch 0 0 0 []).wf = false ∧
    (Instr.fabricLaunchPacket 0 16 ⟨some 7, 1⟩ 0 1 ⟨true, List.replicate 128 0⟩).wf = false ∧
    (Instr.fabricLaunchPacket 0 0 ⟨none, 1⟩ 0 1 ⟨true, List.replicate 128 0⟩).wf = false ∧
    (Instr.fabricLaunchPacket 0 0 ⟨some 7, 1⟩ 1 1 ⟨true, List.replicate 128 0⟩).wf = false ∧
    (Instr.fabricLaunchPacket 0 0 ⟨some 7, 1⟩ 0 1 ⟨true, []⟩).wf = false ∧ (Instr.attestation 0 []).wf = false ∧
    (Instr.sensorSample 0 [] []).wf = false := by decide

/-! ### Small states -/

/-- A user task in strand 0, its region and its code as `State.withFetchWord` places them. -/
def tS : State := State.reset.makePlace

/-- The strand with some registers written. -/
def regs (s : State) (l : List (SReg × Word)) : State := s.onMe (fun t => l.foldl (fun t x => t.wr x.1 x.2 false) t)

/-- The same as a supervisor's, as an irrevocable task's, under a prefix. -/
def superS (s : State) : State := s.onMe (fun t => { t with svsts := 1 })
def trappedS (s : State) : State := s.onMe (fun t => { t with svsts := 0x801 })
def irrevS (s : State) : State := s.onMe (fun t => { t with sts := t.sts ||| 1 })
def pfxS (s : State) (x : Word) : State := s.onMe (fun t => { t with pfxr := x })

/-- s10 addresses memory, s11 and s12 hold operands. -/
def tR : State := regs tS [(10, 0x40000), (11, 7), (12, 3)]

def valS (o : Host.Outcome State Fault Refusal) (r : SReg) : Option Word :=
  match o with | .next t => some (t.me.rd r) | _ => none
def valP (o : Host.Outcome State Fault Refusal) (r : PReg) : Option Word :=
  match o with | .next t => some (t.me.rdP r) | _ => none
def valV (o : Host.Outcome State Fault Refusal) (r : VReg) : Option Vec :=
  match o with | .next t => some (t.me.rdV r) | _ => none
def look {α : Type} (o : Host.Outcome State Fault Refusal) (f : State → α) : Option α :=
  match o with | .next t => some (f t) | _ => none

/-! ### The scalar statements -/

theorem hyp_IntegerOperations : ∃ s, State.acts s .none 0 [10, 11, 12] = true ∧ s.cleanP [0] = true := ⟨tR, by decide, by decide⟩
theorem hyp_OneSourceOperations : ∃ s, State.acts s .none 0 [10, 11] = true := ⟨tR, by decide⟩
theorem hyp_IntegerCompares :
    ∃ s, State.acts s .none 0 [10, 11] = true ∧ s.acts .imm 0 [10] = true ∧ s.clean [10, 11] = true := ⟨tR, by decide, by decide, by decide⟩
theorem hyp_ImmediateForms :
    ∃ s, State.acts s .imm 0 [10, 11] = true ∧ s.acts .none 0 [10, 11] = true ∧ s.me.pfxr.getLsbD 61 = false :=
  ⟨tR, by decide, by decide, by decide⟩
theorem hyp_ImmediateForms_widened : ∃ s, State.acts s .imm 0 [10, 11] = true ∧ s.me.pfxr.getLsbD 61 = true :=
  ⟨pfxS tR 0x2000000006000000, by decide, by decide⟩
theorem hyp_PredicateOperations :
    ∃ s, State.acts s .none 0 [] = true ∧ s.acts .none 0 [11] = true ∧ s.clean [11] = true := ⟨tR, by decide, by decide, by decide⟩
theorem hyp_BranchesAndJumps :
    ∃ s, State.acts s .branch 0 [10, 11] = true ∧ s.clean [10, 11] = true ∧ s.acts .imm 0 [10, 11] = true ∧
      (s.me.rd 10 + s.me.imm (1 : BitVec 12) * 4).toNat % 4 = 0 ∧ (s.me.rd 11 + s.me.imm (1 : BitVec 12) * 4).toNat % 4 ≠ 0 :=
  ⟨tR, by decide, by decide, by decide, by decide, by decide⟩
theorem hyp_ScalarFloat : ∃ s, rmOnly (State.me s).pfxr = true ∧ s.acts .mode 0 [10, 11, 12] = true :=
  ⟨pfxS tR 0x1000000000100000, by decide, by decide⟩

/-- 7 − 3, 3 − 7, −2^63 / −1, 7 rem 0; the high halves of products. -/
theorem test_integer :
    valS (exec (.sub 0 10 11 12) tR) 10 = some 4 ∧ valS (exec (.sub 0 10 12 11) tR) 10 = some (-4) ∧
    valS (exec (.div 0 10 11 12) (regs tS [(11, 0x8000000000000000), (12, -1)])) 10 = some 0x8000000000000000 ∧
    valS (exec (.rem 0 10 11 0) tR) 10 = some 7 ∧ valS (exec (.mulhz 0 10 11 12) (regs tS [(11, -1), (12, 2)])) 10 = some 1 ∧
    valS (exec (.mulh 0 10 11 12) (regs tS [(11, -1), (12, 2)])) 10 = some (-1) := ⟨rfl, rfl, rfl, rfl, rfl, rfl⟩

/-- A shift takes the low six bits of its count; a source that is the destination is read first. -/
theorem test_shift : valS (exec (.shl 0 11 11 12) (regs tS [(11, 1), (12, 65)])) 11 = some 2 := rfl

/-- 05: 0x18 × 4,096 + 0x6A0 is 100,000, and the group with 0x3FFFE7 gives −100,000. -/
theorem test_immx :
    valS (exec (.addi 0 10 0 0x6A0) (pfxS tS 0x2000000006000000)) 10 = some 100000 ∧
    valS (exec (.addi 0 10 0 0x960) (pfxS tS 0x20000FFFF9C00000)) 10 = some (-100000) := ⟨rfl, rfl⟩

theorem test_compare : valP (exec (.cmpi 0 2 2 10 0) (regs tS [(10, -1)])) 2 = some (-1) ∧
    valP (exec (.cmp 0 2 11 12 9) tR) 2 = some (-1) ∧ valP (exec (.cmp 0 2 12 11 9) tR) 2 = some 0 := ⟨rfl, rfl, rfl⟩

/-- A guard that is false leaves the destination and goes on to the next word. -/
theorem test_guard : valS (exec (.add 1 10 11 12) tR) 10 = some 0x40000 ∧
    look (exec (.add 1 10 11 12) tR) (·.me.pc) = some 0x30000004 := ⟨rfl, rfl⟩

/-- A branch goes back two words from its own address; `jal` leaves the address after it. -/
theorem test_branch :
    look (exec (.bCc 2 12 11 0xFFE) tR) (·.me.pc) = some 0x2FFFFFF8 ∧
    look (exec (.bCc 2 11 12 0xFFE) tR) (·.me.pc) = some 0x30000004 ∧
    valS (exec (.jal 1 3) tR) 1 = some 0x30000004 ∧ look (exec (.jal 1 3) tR) (·.me.pc) = some 0x3000000C := ⟨rfl, rfl, rfl, rfl⟩

/-! ### Memory, atomics, waits -/

theorem hyp_ScalarLoads : State.acts tR .immLoad 0 [10, 11] = true ∧ tR.acts .load 0 [10, 11, 12] = true ∧
    tR.clean [10, 11, 12] = true ∧ tR.hasRoom = true := by decide
theorem hyp_ScalarLoads_read : ∃ (u : State) (bs : List (Byte × Bool)) (key : Option Nat),
    tR.reading (tR.me.rd 10) (List.range 8) .plain = .ok (u, bs, key) := ⟨_, _, _, rfl⟩
theorem hyp_ScalarLoads_acquire : ∃ (u : State) (bs : List (Byte × Bool)) (key : Option Nat),
    tR.reading (tR.me.rd 10) (List.range 8) (.acq 1) = .ok (u, bs, key) ∧ u.debugging = false := ⟨_, _, _, rfl, rfl⟩
/-- A debug region's line that a release at tile scope tagged misses for an acquire at pkg scope; the trap is the region's choice. -/
def tDebug (traps : Bool) : State := { tR.onRegion 2 (fun r => { r with debug := true, scopetrap := traps }) with
  lineScope := [(0x40000 / 64, (0, 100))] }
theorem hyp_ScalarLoads_miss : ∀ traps ∈ [false, true], (tDebug traps).debugging = true ∧ scopeMiss (tDebug traps) 0 2 0x40000 = true ∧
    ((tDebug traps).region (tDebug traps).me.rid).map Region.scopetrap = some traps := by decide
theorem hyp_ScalarStores : ∃ (u : State),
    tR.acts .imm 0 [10, 11] = true ∧ tR.acts .none 0 [10, 11, 12] = true ∧ tR.putsOut tR.cur = false ∧
    tR.storing (tR.me.rd 10) ((List.range 8).map (fun i => (i, byteAt (tR.me.rd 11) i, tR.me.markS 11))) none = .ok u :=
  ⟨_, rfl, rfl, rfl, rfl⟩
theorem hyp_ScalarStores_release : ∃ (u : State),
    tR.storing (tR.me.rd 10) ((List.range 8).map (fun i => (i, byteAt (tR.me.rd 11) i, tR.me.markS 11))) (some 1) = .ok u :=
  ⟨_, rfl⟩

/-- The windows at their edges: across the end of the global window, outside every window, across the end of the stack,
beyond it; a misaligned `.rel`. -/
theorem test_windows :
    look (exec (.ldD 0 11 10 0) (regs tS [(10, 0x00FFFFFFFFFFFFFC)])) (fun t => (t.me.ecause, t.me.edetail)) =
      some (0x0A, 0x00FFFFFFFFFFFFFC) ∧
    look (exec (.ldD 0 11 10 0) (regs tS [(10, 0x0100000000000000)])) (·.me.ecause) = some 8 ∧
    look (exec (.stD 0 11 10 0) (regs tS [(10, 0xFFFFFFF80003FFFC)])) (·.me.ecause) = some 9 ∧
    look (exec (.stB 0 11 10 0) (regs tS [(10, 0xFFFFFFF800040000)])) (·.me.ecause) = some 9 ∧
    look (exec (.stIndexed 0 11 10 0 4 5) (regs tS [(10, 0x40002)])) (·.me.ecause) = some 6 := ⟨rfl, rfl, rfl, rfl, rfl⟩

theorem hyp_Windows_stack : paExists (tR.me.stackbase.toNat + 7) = true ∧ stackReach tR (tR.me.stackbase.toNat + 7) = true ∧
    stackReach tR (3 * 2 ^ 36) = false ∧ paExists (3 * 2 ^ 36) = true ∧ paExists (2 ^ 41) = false := by decide
theorem hyp_Windows_global : ∃ u m, tR.xlatMine .read ((List.range 8).map (fun i => 0x40000 + i)) = (u, Except.ok m) ∧
    (tR.core 0).l1 = [] := ⟨_, _, rfl, rfl⟩
def lineOne : L1Line := { data := 1, marks := 0 }
theorem hyp_Windows_lines : lookupKey ((tR.onCore 0 (fun k => { k with l1 := [(0x1000, lineOne)] })).core 0).l1 (0x40000 / 64) = some lineOne ∧
    lookupKey (tR.core 0).l1 (0x40000 / 64) = none ∧ tR.matrixOut tR.cur = 0 := by decide
theorem hyp_Windows_segments : segAt [some { base := 0, size := 64, swz := 0 }] 8 = some { base := 0, size := 64, swz := 0 } := by decide
/-- 03 R48: BASE 0x10000, SIZE 0x4000, SWZ 3: the byte at 0x0A08 lands at 0x10A20. -/
def segSw : Seg := { base := 0x10000, size := 0x4000, swz := 3 }
theorem test_swizzle : spadByte [some segSw] 0x10A08 0 = some 0x10A20 ∧ spadByte [some segSw] 0x14000 0 = none := by decide
theorem hyp_Windows_swizzled : segAt [some segSw, none] 0x10A08 = some segSw ∧ 1 ≤ segSw.swz ∧ segSw.span = 2 ^ 14 ∧ segSw.size ≤ 2 ^ 14 ∧
    2 ^ 14 < 2 * segSw.size ∧ (0x10A08 - segSw.base + 0) % segSw.span < segSw.size ∧ segAt [some segSw] 0x14000 = none ∧
    (let g : Seg := { base := 0, size := 96, swz := 0 }
     segAt [some g] 100 = some g ∧ g.size ≤ 100 % g.span) := by decide
/-- A scratchpad store of the byte at offset 8 that is not performed yet. -/
def spad8 : SpadStore := { off := 8, elem := 0, bytes := [(0, 7, false)], issued := 0 }
def tOut : State := tR.onMe (fun t => { t with spadOut := [spad8] })
theorem hyp_Windows_outstanding : (∃ x ∈ tOut.me.spadOut, ∃ y ∈ x.bytes, ∃ p q, spadByte (((tOut.region tOut.me.rid).map Region.segs).getD []) x.off y.1 =
      some p ∧ ∃ i < 8, spadByte (((tOut.region tOut.me.rid).map Region.segs).getD []) 8 i = some q ∧ p / 8 % 64 = q / 8 % 64) ∧
    tR.me.spadOut = [] := ⟨⟨spad8, .head _, (0, 7, false), .head _, 8, 8, by decide +kernel, 0, by decide, by decide +kernel, rfl⟩, rfl⟩
theorem hyp_Windows_ahead : tR.me.task.isSome = true ∧ tR.me.wait = .no ∧ tR.homeBusy 0 = false ∧
    (match ({ tR with cur := 0 } : State).xlats (.core (coreOf 0)) (tR.pidOfRegion tR.me.rid) (some tR.me.rid) tR.me.super .read [0x40003] [] with
      | (_, .ok _) => true | _ => false) = true ∧
    (match ({ tR with cur := 0 } : State).xlats (.core (coreOf 0)) (tR.pidOfRegion tR.me.rid) (some tR.me.rid) tR.me.super .read [0x40000000] [] with
      | (_, .error _) => true | _ => false) = true := by decide +kernel
/-- The unit at 0x40000 was read before the store of 9 to it, the other unit of the two after it. -/
theorem test_units_apart :
    let s := tR.readAhead 0 0x40000 false
    let w : State := { s with mem := Memory.putList s.mem 0x40000 [9, 9, 9, 9, 9, 9, 9, 9, 9] }
    (match (w.takeUp 0).reading 0x40000 (List.range 9) .plain with
      | .ok (_, l, _) => l.map Prod.fst | .error _ => []) = [0, 0, 0, 0, 0, 0, 0, 0, 9] := by decide +kernel
/-- The scratchpad unit at offset 0 was read before 9 came into it and into the next one. -/
theorem test_scratchpad_units_apart :
    let s := tR.readAhead 0 0xFFFFFFF000000000 false
    let w : State := s.onTile 0 (fun t => { t with spad := Memory.putList t.spad 0 [9, 9, 9, 9, 9, 9, 9, 9, 9] })
    (match (w.takeUp 0).reading 0xFFFFFFF000000000 (List.range 9) .plain with
      | .ok (_, l, _) => l.map Prod.fst | .error _ => []) = [0, 0, 0, 0, 0, 0, 0, 0, 9] := by decide +kernel
theorem hyp_Windows_spadAhead : (0xFFFFFFF000000003 : Nat) = 0xFFFFFFF000000000 + 3 ∧ spadByte (((tR.region tR.me.rid).map Region.segs).getD []) 3 0 = some 3 ∧
    tR.matrixOut 0 = 0 ∧ tR.bankBusy 0 3 [0] = false ∧ tOut.bankBusy 0 8 [0] = true ∧
    spadByte [some ({ base := 0, size := 96, swz := 0 } : Seg)] 100 0 = none ∧
    (match ((tR.readAhead 0 0xFFFFFFF000000000 false).takeUp 0).me.seenSpad .vol 3 with
      | some r => r.bytes.length == 8 | none => false) = true := by decide +kernel
theorem hyp_Windows_plain : ∃ m, tR.xlatMine .read ((List.range 8).map (fun i => 0x40000 + i)) = m ∧
    (match m.2 with | .ok l => (tR.me.seenUnit .plain (placeOf l 0x40000)).isNone && (bufByte tR.me.buf 0x40000).isNone | .error _ => false) = true := ⟨_, rfl, by decide +kernel⟩
theorem hyp_ScalarStores_waits : tOut.writesOut tOut.cur = true ∧ tR.writesOut tR.cur = false ∧ tOut.hasRoom = true ∧
    tOut.acts .none 0 [10, 11, 12] = true ∧ tOut.bankBusy tOut.cur 8 (List.range 8) = true := by decide +kernel
theorem hyp_StoreBuffer_scratchpad : (tOut.strand 0).spadOut[0]? = some spad8 ∧ (tOut.strand 0).spadOut.take 0 = [] ∧
    Memory.wf (tOut.tile (tileOf 0)).spad = true ∧ (tOut.strand 0).spadOut[1]? = none := by decide +kernel
theorem hyp_StoreBuffer_bank : ((tR.onMe (fun t => { t with spadOut := [spad8, spad8] })).strand 0).spadOut[1]? = some spad8 ∧
    ((tR.onMe (fun t => { t with spadOut := [spad8, spad8] })).strand 0).spadOut.take 1 = [spad8] := by decide
/-- A unit of the next element of one `vstx` waits for the first. -/
def tScat : State := tR.onMe (fun t => { t with spadOut := [spad8, { spad8 with off := 64, elem := 1 }] })
theorem hyp_StoreBuffer_elements : (tScat.strand 0).spadOut[1]? = some { spad8 with off := 64, elem := 1 } ∧
    (tScat.spadStore 0 1).me.spadOut = tScat.me.spadOut ∧ (spadUnits 1 0 6 [(0, 7, false), (1, 8, false), (2, 9, false)]).map SpadStore.bytes =
      [[(0, 7, false), (1, 8, false)], [(2, 9, false)]] := by decide +kernel
theorem test_scratchpad_store :
    look (exec (.stB 0 11 10 0) (regs tR [(10, 0xFFFFFFF000000010)])) (fun t => ((t.tile 0).spad, t.me.spadOut.length)) = some ([], 1) ∧
    ((tOut.spadStore 0 0).tile 0).spad = [(8, 7)] ∧ (tOut.spadStore 0 0).me.spadOut = [] := by decide +kernel

/-- A store waits in the buffer and a load reads it there; in the stack window it is in memory at once. -/
theorem test_store :
    look (exec (.stD 0 11 10 0) tR) (fun t => (t.me.buf.map (·.data), Memory.get t.mem 0x40000)) = some ([7], 0) ∧
    look (exec (.stH 0 11 10 0) (regs tR [(10, 0xFFFFFFF800000010)])) (fun t => Memory.getN t.mem (t.me.stackbase.toNat + 16) 2) =
      some [7, 0] := ⟨rfl, rfl⟩
/-- `.b` is sign-extended; the destination is pending until the load completes. -/
theorem test_load :
    let s := { tR with mem := Memory.put tR.mem (tR.me.stackbase.toNat + 16) 0x80 }
    look (exec (.ldB 0 11 10 16) (regs s [(10, 0xFFFFFFF800000000)])) (fun t => (t.me.loads, bitOf t.me.pendS 11)) =
      some ([{ writes := [.s 11 0xFFFFFFFFFFFFFF80 false] }], true) := by rfl

theorem hyp_StoreFrame : tR.Inv = true ∧ tR.me.super = false ∧ tR.me.irrev = false ∧ tR.me.buf = [] := by decide
theorem hyp_StoreBuffer : Memory.wf tR.mem = true ∧ bitOf (0x0F : BitVec 8) (3 % 8) = true := by decide
def unit0 : BufUnit :=
  { key := 0x40008, va := 0x40008, size := 62, slot := none, host := false, mask := 0xFF, data := 9, poison := false, scope := none, issued := 0 }
/-- An irrevocable task with a unit in its buffer, one in supervisor mode, and one whose buffer is full: a byte is stored, and a byte that
none of the units covers is named. -/
def fullBuf : List BufUnit := (List.range 512).map (fun i => { unit0 with key := 0x60FF8 - 8 * i, va := 0x60FF8 - 8 * i })
def tBuf (super : BitVec 64) (l : List BufUnit) : State := irrevS (tR.onMe (fun t => { t with svsts := super, buf := l }))
theorem hyp_StoreFrame_buffered : ∀ x ∈ [(0, [unit0]), (1, [unit0]), (0, fullBuf)],
    (tBuf x.1 x.2).Inv = true ∧
    (match (tBuf x.1 x.2).xlatMine .write [0x40000] with
      | (w, .ok m) =>
        let units := w.storeUnits 0x40000 [(0, 7, false)] m none (tBuf x.1 x.2).me.nextIssued
        (w.me.buf ++ units).all (fun y => decide (¬ (y.key ≤ 0x50000 ∧ 0x50000 < y.key + 8 ∧ bitOf y.mask (0x50000 - y.key) = true)) &&
          decide (y.key / 64 ≠ 0x50000 / 64)) && units.length == 1 && w.me.irrev
      | _ => false) = true ∧
    (match (tBuf x.1 x.2).storing 0x40000 [(0, 7, false)] none with
      | .ok u => (u.me.buf.length == if x.1 = 1 || x.2.length = 512 then 0 else 2) | _ => false) = true := by decide +kernel
theorem hyp_StoreFrame_stack : stackReach tR (tR.me.stackbase.toNat + 7) = true ∧
    (match (tR.onMe (fun t => { t with stackbase := 0x3000000000 })).storing 0xFFFFFFF800000000 [(0, 7, false)] none with
      | .ok u => (u.die 3).dropped == 1 | _ => false) = true := by decide +kernel

/-- A `.rel` store enters behind a unit that it would else merge with, and a store after `fence.rel` does too (06 R124, R130). -/
theorem test_release_closes :
    let s := tR.onMe (fun t => { t with buf := [{ unit0 with key := 0x40000, va := 0x40000 }] })
    look (exec (.stIndexed 0 11 10 0 3 4) s) (fun t => (t.me.buf.map (·.data), t.me.closed)) = some ([9, 7], 1) ∧
    look (exec (.stD 0 11 10 0) s) (fun t => (t.me.buf.map (·.data), t.me.closed)) = some ([7], 0) ∧
    look (exec (.fenceRel 1) s) (·.me.closed) = some 1 := by decide +kernel
theorem hyp_StoreFrame_closed :
    (let t := (tR.onMe (fun t => { t with buf := [unit0], closed := 1 })).me; (t.irrev, t.super, decide (t.closed ≤ t.buf.length))) = (false, false, true) ∧
    (heldUnits [unit0, unit0]).length = 1 ∧ (bufByte [unit0] 0x40008).isSome = true ∧ 512 < (heldUnits ({ unit0 with key := 0x40000 } :: fullBuf)).length := by decide +kernel

/-- A load on its way, a buffered unit of an irrevocable task. -/
def tL : State := irrevS (tR.onMe (fun t => { t with
  loads := [{ writes := [.s 11 5 false] }], pendS := 0x800
  buf := [{ key := 0x40000, va := 0x40000, size := 62, slot := none, host := false, mask := 0xFF, data := 9, poison := false, scope := none, issued := 0 }] }))
theorem hyp_CompletionsAndDrains : takeAt (tL.strand 0).loads 0 = some ({ writes := [.s 11 5 false] }, []) ∧
    takeAt (tL.strand 0).loads 1 = none ∧ (∃ u, (tL.strand 0).buf = [u]) ∧ (tL.strand 0).restartable = false ∧ (tR.strand 0).buf = [] :=
  ⟨rfl, rfl, ⟨_, rfl⟩, rfl, rfl⟩
theorem test_completion : valS (exec (.loadCompletion 0 0) tL) 11 = some 5 ∧
    look (exec (.storeDrain 0) tL) (fun t => (Memory.getN t.mem 0x40000 2, t.me.buf)) = some ([9, 0], []) := ⟨rfl, rfl⟩

theorem hyp_AtomicsLeave : tR.hasRoom = true ∧ tR.putsOut tR.cur = false ∧ tR.clean [10, 11] = true ∧
    tR.acts .none 0 [10, 11, 12] = true ∧ tR.acts .mode 0 [11, 10, 12] = true := by decide
theorem hyp_AtomicsLeave_unit : ∃ (u : State) (p : Xlat), tR.homePlace (tR.me.rd 10) 8 .atomic = .ok (u, p) ∧ u.me.dual = none ∧
    u.debugging = false := ⟨_, _, rfl, rfl, rfl⟩
theorem hyp_AtomicsLeave_slot : ∃ (u : State) (p : Xlat), tR.homePlace (tR.me.rd 10) 64 .exactRead = .ok (u, p) := ⟨_, _, rfl⟩
/-- s16 addresses the tile's scratchpad, s17 a place that is not aligned. -/
def tSp : State := regs tR [(16, 0xFFFFFFF000000040), (17, 0xFFFFFFF000000044)]
/-- Slots where they may lie, misaligned, and outside the window; a dual run. -/
def tSlot : State := (regs tR [(16, 0x40000), (17, 0x40020), (18, 0x100000000000000), (19, 0x40040)]).onMe (fun t => { t with dual := some 0 })
theorem hyp_AtomicsLeave_traps : tSlot.hasRoom = true ∧ tSlot.clean [16, 19] = true ∧ tSlot.acts .none 0 [12, 16, 19] = true ∧
    tSlot.acts .mode 0 [12, 16, 19] = true ∧ bitOf tSlot.me.pfxr 60 = false ∧ tSlot.writesOut tSlot.cur = false ∧
    2 ^ 56 ≤ (tSlot.me.rd 18).toNat ∧ (tSlot.me.rd 17).toNat % 64 ≠ 0 ∧ (tSlot.me.rd 16).toNat % 64 = 0 ∧
    (match tSlot.homePlace 0x40000 64 .atomic with
      | .ok (u, _) => u.me.dual.isSome && (match u.xlatMine .exactRead [0x40040] with | (v, .ok _) => v.me.dual.isSome | _ => false)
      | .error _ => false) = true ∧
    (match tSlot.homePlace 0x40000 8 .atomic with | .ok (u, _) => u.me.dual.isSome | .error _ => false) = true := by decide +kernel
theorem test_slot_traps :
    let s := tSlot.onMe (fun t => { t with dual := none })
    look (exec (.xmerge 0 16 17 0) s) (fun t => (t.me.ecause, t.me.edetail)) = some (6, 0x40020) ∧
    look (exec (.xclr 0 18) s) (fun t => (t.me.ecause, t.me.edetail)) = some (0x0B, 0x100000000000000) := by decide +kernel
theorem hyp_AtomicsLeave_scratchpad : tSp.hasRoom = true ∧ tSp.clean [16, 17] = true ∧ tSp.acts .none 0 [12, 16, 11] = true ∧
    (tSp.me.rd 16).toNat = 0xFFFFFFF000000000 + 0x40 ∧ (tSp.me.rd 17).toNat % 8 ≠ 0 ∧ tSp.matrixOut tSp.cur = 0 ∧ tSp.me.dual = none ∧
    (tSp.onMe (fun t => { t with dual := some 0 })).me.dual.isSome = true := by decide
/-- The old value is on its way, the new one is in the scratchpad, and L1 is empty after an acquire at die scope. -/
theorem test_scratchpad_atomic :
    look (exec (.amoSwap 0 12 16 11 1) (tSp.onCore 0 (fun k => { k with l1 := [(0x1000, lineOne)] })))
      (fun t => (t.me.loads, Memory.getN (t.tile 0).spad 0x40 2, (t.core 0).l1)) =
      some ([{ writes := [.s 12 0 false] }], [7, 0], []) := by rfl
theorem hyp_AtomicsLeave_merge : ∃ (u : State) (p : Xlat) (v : State) (m : List (Nat × Xlat)),
    tR.homePlace (tR.me.rd 10) 64 .atomic = .ok (u, p) ∧ u.xlatMine .exactRead [(tR.me.rd 10).toNat] = (v, .ok m) ∧ v.me.dual = none :=
  ⟨_, _, _, _, rfl, rfl, rfl⟩

def addOp : HomeOp :=
  { kind := .amo 0, sid := 0, taskNo := tR.me.taskNo, key := 0x40000, slot := none, pid := 0, va := 0x40000, size := 8, also := none
    x := 5, xMark := false, d := 11, e := 0, acq := 0, rel := none }
theorem hyp_HomeAtomic : takeAt [addOp] 0 = some (addOp, []) ∧ (tR.strand addOp.sid).taskNo = addOp.taskNo ∧ Memory.wf tR.mem = true ∧
    addOp.key % 8 = 0 ∧ addOp.key % 64 = 0 ∧ tR.memPoison.Pairwise (· < ·) ∧ takeAt tR.homeQ 0 = none := by decide
/-- An `xmerge` whose other slot is not its own, and an acquiring operation on which its strand stays. -/
theorem hyp_HomeAtomic_two : ∃ k v, ({ addOp with kind := .xmerge 0x40040 none } : HomeOp).kind = .xmerge k v ∧ k ≠ addOp.key := ⟨_, _, rfl, by decide⟩
theorem hyp_HomeAtomic_held : (tDebug true |>.onMe (fun t => { t with wait := .acquire })).me.wait = .acquire ∧
    (inDebug (tDebug true) 0 && scopeMiss (tDebug true) 0 2 addOp.key) = true ∧ scopeMiss tR 0 2 addOp.key = false := by decide
/-- A fetch-and-add of 5 to 9. -/
theorem test_atomic :
    look (exec (.homeAtomic 0) { tR with homeQ := [addOp], mem := Memory.put tR.mem 0x40000 9 })
      (fun t => (Memory.get t.mem 0x40000, t.me.loads)) = some (14, [{ writes := [.s 11 9 false] }]) := by rfl

/-- Between two FP16 values; past the largest; √2; an integer part; a step of l6. -/
theorem hyp_ExactSums_rounding : 0x3C00 < FFmt.f16.maxFinite ∧ (FFmt.f16.decode 0x3C00).rat ≤ 4097 / 4096 ∧
    (4097 / 4096 : ℚ) < (FFmt.f16.decode (0x3C00 + 1)).rat ∧ (FFmt.f16.decode FFmt.f16.maxFinite).rat ≤ 70000 := by decide +kernel
theorem hyp_ExactSums_floats : FFmt.f16.decode 0x4000 = .fin false 2 ∧ FFmt.f16.decode 0x8000 = .fin true 0 ∧
    FFmt.f16.decode 0x7C00 = .inf false ∧ FFmt.f16.decode 0x7C01 = .nan := by decide +kernel
theorem hyp_ExactSums_roots : 0x3DA8 < FFmt.f16.maxFinite ∧ (FFmt.f16.decode 0x3DA8).rat * (FFmt.f16.decode 0x3DA8).rat ≤ 2 ∧
    (2 : ℚ) < (FFmt.f16.decode (0x3DA8 + 1)).rat * (FFmt.f16.decode (0x3DA8 + 1)).rat := by decide +kernel
theorem hyp_ExactSums_integers : FFmt.f16.decode 0xBE00 = .fin true (3 / 2) ∧ ((-2 : Int) : ℚ) ≤ -3 / 2 ∧ (-3 / 2 : ℚ) < (-2 : Int) + 1 := by
  decide +kernel
theorem hyp_ExactSums_l6 : l6Step 0 ≤ 9 / 8 ∧ (9 / 8 : ℚ) < l6Step 1 ∧ l6Step 15 ≤ 14 := by decide +kernel
/-- 04 R66: 0.3 in four formats, 500 in E4M3 and in E5M2; 04 R72: 3.0 in l6. -/
theorem test_conversions :
    convertElem .rne (.float .f32) (.float .f16) 0x3E99999A = 0x34CD ∧ convertElem .rne (.float .f32) (.float .bf16) 0x3E99999A = 0x3E9A ∧
    convertElem .rne (.float .f32) (.float .fp8) 0x3E99999A = 0x2A ∧ convertElem .rne (.float .f32) (.float .e5m2) 0x3E99999A = 0x35 ∧
    convertElem .rup (.float .f32) (.float .fp8) 0x43FA0000 = 0x7E ∧ convertElem .rne (.float .f32) (.float .e5m2) 0x43FA0000 = 0x60 ∧
    convertElem .rne (.float .f32) .l6 0x40400000 = 0x06 := by decide +kernel
theorem hyp_ExactSums_reciprocals : FFmt.f32.decode 0x40000000 = .fin false 2 ∧ 0x3F350000 % 2 ^ 12 = 0 ∧
    (FFmt.f32.decode 0x3F350000).rat * (FFmt.f32.decode 0x3F350000).rat * 2 ≤ 1 ∧
    1 < (FFmt.f32.decode (0x3F350000 + 2 ^ 12)).rat * (FFmt.f32.decode (0x3F350000 + 2 ^ 12)).rat * 2 := by decide +kernel
/-- −0 is the lesser zero; a NaN gives the canonical one; the class of the least subnormal; 300 saturates in i8. -/
theorem test_orders : FFmt.f16.min 0 0x8000 = 0x8000 ∧ FFmt.f16.max 0x8000 0 = 0 ∧ FFmt.f64.min 0 (FFmt.f64.nan + 1) = FFmt.f64.nan ∧
    FFmt.f32.classify 1 = 32 ∧ FFmt.bf16.cmp 0 0 0x8000 = true ∧
    convertElem .rne (.int false 16) (.int true 8) 300 = 127 ∧ convertElem .rne (.int true 8) (.int false 16) 0x80 = 0 := by decide +kernel

theorem hyp_ExactSums : slotFlags 0 = 0 ∧ (slotFlags (slotMake 0 8 1)).testBit 3 = true := by decide
theorem hyp_FencesAndWaits : tR.acts .none 0 [] = true ∧ tR.acts .none 0 [10] = true ∧ tR.clean [10] = true := by decide
theorem hyp_FencesAndWaits_busy : ({ tR with homeQ := [addOp] } : State).homeBusy tR.cur = true ∧ tR.homeBusy tR.cur = false := by decide
theorem test_waits : look (exec (.pause 10) tR) (·.me.wait) = some (.paused 0x40040) ∧
    look (exec (.waitc 0 0 0 0) tR) (·.me.pc) = some 0x30000004 ∧ look (exec (.waitc 0 0 0 0) tL) (·.me.wait) = some .stalled :=
  ⟨rfl, rfl, rfl⟩
theorem hyp_SpecialReads : tR.acts .none 0 [10] = true ∧ (0x409 : BitVec 11).toNat ≥ 0x400 ∧ tR.me.super = false ∧
    (superS tR).me.super = true ∧ (superS tR).acts .none 0 [10] = true := by decide
theorem hyp_SpecialReads_places : ∃ r p, tR.region tR.me.rid = some r ∧ tR.partition r.pid = some p := ⟨_, _, rfl, rfl⟩
theorem test_srd : valS (exec (.srd 0 10 0x409) (superS tR)) 10 = some 1 ∧
    look (exec (.srd 0 10 0x409) tR) (fun t => (t.me.ecause, t.me.pc, t.me.svsts)) = some (2, 0x30001000, 0x801) := ⟨rfl, rfl⟩

/-! ### Vector registers -/

/-- v1 holds 1, 2, 3 … in 32-bit elements, v2 all ones. -/
def tV : State := tR.onMe (fun t => (t.wrV 1 (mapElems 4 (fun i => i + 1)) 0).wrV 2 (BitVec.allOnes 512) 0)

theorem hyp_VectorInteger : tV.actsB .none 0 [] [3, 1, 2] = true := by decide
theorem hyp_VectorFloat : rmOnly tV.me.pfxr = true ∧ tV.actsB .mode 0 [] [3, 1, 2] = true := by decide
theorem hyp_VectorCompares : tV.actsB .none 0 [] [1, 2] = true ∧ tV.me.guardBytes 0 ≠ 0 ∧
    (∀ k < 16, elemMark (tV.me.markV 1) 4 k = false) := by decide
theorem hyp_VectorCompares_marked : ∃ k < 16, elemLive ((tV.onMe (fun t => t.wrV 1 0 1)).me.guardBytes 0) 4 k = true ∧
    elemMark ((tV.onMe (fun t => t.wrV 1 0 1)).me.markV 1) 4 k = true := ⟨0, by decide, by decide, by decide⟩
theorem hyp_VectorCompares_second : (∀ k < 16, elemMark ((tV.onMe (fun t => t.wrV 2 0 1)).me.markV 1) 4 k = false) ∧
    elemLive ((tV.onMe (fun t => t.wrV 2 0 1)).me.guardBytes 0) 4 0 = true ∧
    elemMark ((tV.onMe (fun t => t.wrV 2 0 1)).me.markV 2) 4 0 = true := by decide
theorem hyp_VectorConversions : tV.actsB .mode 0 [] [3, 1] = true ∧ tV.me.guardBytes 0 ≠ 0 ∧ elemFmt 7 = .c4 ∧ elemFmt 1 ≠ .c4 ∧
    (tV.core 0).tableOwner ≠ some tV.me.rid := by decide
theorem hyp_VectorConversions_table :
    ((tV.onCore 0 (fun k => { k with tableOwner := some tV.me.rid })).core (coreOf tV.cur)).tableOwner = some tV.me.rid := by decide
theorem hyp_VectorMovement : tV.cleanP [1] = true ∧ tV.actsB .none 0 [11] [3] = true ∧ tV.clean [12] = true ∧
    tV.actsV .none 0 [11, 12] [1] [] = true ∧ tV.actsB .none 0 [11, 12] [3] = true ∧ tV.me.guardBytes 0 = BitVec.allOnes 64 := by decide
theorem hyp_Reductions : tV.actsV .none 0 [11] [1] [] = true ∧ tV.cleanP [0] = true := by decide
theorem hyp_ScansAndPacks : tV.actsB .none 0 [] [3, 1] = true ∧ tV.cleanP [0] = true := by decide

/-- 4 + (−1) in a 32-bit element, no carry between elements; the lowest byte of p1 enables element 0 only. -/
theorem test_vadd : (valV (exec (.vaddInt 0 3 1 2 2) tV) 3).map (fun x => (elemOf x 4 0, elemOf x 4 3)) = some (0, 3) ∧
    (valV (exec (.vaddInt 1 1 1 2 2) (tV.onMe (fun t => t.wrP 1 0xF false))) 1).map (fun x => (elemOf x 4 0, elemOf x 4 1)) =
      some (0, 2) := ⟨rfl, rfl⟩
theorem test_vred : valS (exec (.vredInt 0 11 1 0 0 2) tV) 11 = some 136 ∧
    valS (exec (.vredInt 0 11 1 1 1 2) tV) 11 = some 0x7FFFFFFF := ⟨rfl, rfl⟩
/-- The first three elements, then the count; slide down by one leaves a zero above. -/
theorem test_vmove : (valV (exec (.vscan 0 3 1 0 2) tV) 3).map (fun x => (elemOf x 4 0, elemOf x 4 2)) = some (1, 6) ∧
    (valV (exec (.vslide 0 3 1 12 2) (regs tV [(12, 1)])) 3).map (fun x => (elemOf x 4 0, elemOf x 4 15)) = some (2, 0) ∧
    valS (exec (.vext 0 11 1 12 2) (regs tV [(12, 15)])) 11 = some 16 := ⟨rfl, rfl, rfl⟩

theorem hyp_VectorMemory : tV.clean [10, 12] = true ∧ tV.hasRoom = true ∧ tV.me.guardBytes 0 ≠ 0 ∧ tV.actsB .load 0 [10] [3, 1] = true ∧
    tV.actsB .load 0 [10, 12] [3] = true ∧ tV.actsB .none 0 [10] [1, 2] = true ∧
    indexMarked tV.me (tV.me.guardBytes 0) 1 4 = false := by decide
theorem hyp_VectorMemory_whole : ∃ (u v : State) (bs cs : List (Byte × Bool)) (key key' : Option Nat) (w : State),
    tV.reading 0x40000 (enabledBytes (tV.me.guardBytes 0)) .plain = .ok (u, bs, key) ∧
    tV.reading 0x40000 (enabledBytes (tV.me.guardBytes 0)) .vol = .ok (v, cs, key') ∧
    tV.storing 0x40000 (storeList tV.me 1 0 (enabledBytes (tV.me.guardBytes 0))) none = .ok w := ⟨_, _, _, _, _, _, _, rfl, rfl, rfl⟩
theorem hyp_VectorMemory_checked : ∃ u : State, State.checking .read (tV.me.guardBytes 0) 4
    (liveElems (tV.me.guardBytes 0) 4 (fun i => 0x40000 + BitVec.ofNat 64 i * 8)) tV.me.heldUnits tV = .ok u ∧
    indexMarked (tV.onMe (fun t => t.wrV 1 0 1)).me (tV.me.guardBytes 0) 1 4 = true := ⟨_, rfl, by decide⟩
theorem hyp_VectorMemory_elements : ∃ (u v w : State) (l : List (Nat × Byte × Bool)),
    let els := liveElems (tV.me.guardBytes 0) 4 (fun i => 0x40000 + BitVec.ofNat 64 i * 8)
    State.gathering (tV.me.guardBytes 0) 4 els tV = .ok (u, l) ∧ State.checking .write (tV.me.guardBytes 0) 4 els tV.me.heldUnits tV = .ok v ∧
    State.scattering tV.me.nextIssued 2 (tV.me.guardBytes 0) 4 false els v = .ok w := ⟨_, _, _, _, rfl, rfl, rfl⟩

/-- A `vstx` of 64-bit elements: element 1 lies at 0x40000, the others in the scratchpad. -/
def tMix : State := regs (tV.onMe (fun t => t.wrV 1 (mapElems 8 (fun i => if i = 1 then 0x200008000 else i)) 0)) [(16, 0xFFFFFFF000000000)]
theorem hyp_VectorMemory_mixed :
    (let els := liveElems (tMix.me.guardBytes 0) 8 (indexAddr tMix.me 16 1 8)
     ((els.map Prod.snd).take 3, els.length, (elemBytes (tMix.me.guardBytes 0) 8 0).head?)) =
      ([0xFFFFFFF000000000, 0x40000, 0xFFFFFFF000000010], 8, some 0) ∧ indexMarked tMix.me (tMix.me.guardBytes 0) 1 8 = false ∧
    tMix.storesOut tMix.cur = 0 ∧ 0 < (tMix.onMe (fun t => { t with spadOut := [spad8] })).storesOut 0 := by decide +kernel
theorem test_vstx_mixed :
    look (exec (.vstx 0 2 16 1 3) tMix) (fun t => (t.me.buf.length, t.me.spadOut.length, Memory.getN t.mem 0x40000 2,
      Memory.getN (t.tile 0).spad 15 2, t.me.irrev)) = some (0, 0, [0xFF, 0xFF], [0, 0xFF], true) ∧
    look (exec (.vstx 0 2 16 1 3) (tMix.onMe (fun t => { t with spadOut := [spad8] }))) (·.me.wait) = some .stalled := by decide +kernel
theorem hyp_VectorMemory_order :
    (match tMix.storingAs 1 0 0x40000 (storeList tMix.me 2 0 (elemBytes (tMix.me.guardBytes 0) 8 0)) none with | .ok _ => true | .error _ => false) = true ∧
    (match tMix.storingAs 1 0 0x100000000000000 (storeList tMix.me 2 0 (elemBytes (tMix.me.guardBytes 0) 8 0)) none with | .ok _ => false | .error _ => true) = true ∧
    (irrevS tMix).me.restartable = false := by decide +kernel

/-! ### Floating point -/

/-- 1.5 + 0.25 in FP32; 1 ÷ 3 toward zero and to nearest; the upper half of S[a] is not read. -/
theorem test_float :
    valS (exec (.fadd 0 10 11 12 1) (regs tS [(11, 0xFFFFFFFF3FC00000), (12, 0x3E800000)])) 10 = some 0x3FE00000 ∧
    valS (exec (.fdiv 0 10 11 12 1) (regs tS [(11, 0x3F800000), (12, 0x40400000)])) 10 = some 0x3EAAAAAB ∧
    valS (exec (.fdiv 0 10 11 12 1) (pfxS (regs tS [(11, 0x3F800000), (12, 0x40400000)]) 0x1000000000100000)) 10 = some 0x3EAAAAAA ∧
    valS (exec (.fsqrt 0 10 11 1) (regs tS [(11, 0x40000000)])) 10 = some 0x3FB504F3 := by decide +kernel
/-- An exact zero that is no sum, product or quotient is +0 (04 R64): the root of −0, and −0 converted to FP16. -/
theorem test_zero : valS (exec (.fsqrt 0 10 11 1) (regs tS [(11, 0x80000000)])) 10 = some 0 ∧
    valS (exec (.fcvt 0 10 11 1 2) (regs tS [(11, 0x80000000)])) 10 = some 0 := by decide +kernel
theorem test_fcvt : valS (exec (.fcvt 0 10 11 1 8) (regs tS [(11, 0xC3480000)])) 10 = some (-128) ∧
    valS (exec (.fcvt 0 10 11 1 4) (regs tS [(11, 0x3F800000)])) 10 = some 0x38 ∧
    valS (exec (.fclass 0 10 11 1) (regs tS [(11, 0x7FC00000)])) 10 = some 512 := ⟨rfl, rfl, rfl⟩

/-! ### Tasks, messages, the deque, barriers -/

/-- s16 to s19 hold a record that runs 0x30000100 in lane 0 with a join block at 0x41000; s20 is an index, s21 a bad record. -/
def tT : State := regs tR [(16, 0x30000100), (17, 11), (18, 0x41000), (19, 22), (20, 0), (21, 0x4000000000000000), (22, 8)]

theorem hyp_SpawnsAndJoins : tT.acts .none 0 [16, 17, 18, 19] = true ∧ malformed (tT.me.rd 16) = false ∧ tT.clean [16, 18] = true ∧
    tT.me.rd 18 ≠ 0 ∧ joinOk (tT.me.rd 18) = true ∧ joinFull tT.me (tT.me.rd 18).toNat = false ∧ malformed (tT.me.rd 21) = true ∧
    joinOk (tT.me.rd 22) = false ∧ tT.acts .none 0 [18] = true := by decide
theorem hyp_SpawnsAndJoins_lane : ∃ r l, tT.region tT.me.rid = some r ∧ r.lanes[0]? = some l := ⟨_, _, rfl, rfl⟩
theorem hyp_SpawnsAndJoins_full :
    joinFull { tT.me with joins := (List.range 16).map (fun i => (16 * i, 1)) } (tT.me.rd 18).toNat = true := by decide
theorem test_spawnj : valP (exec (.spawnj 0 3 16) tT) 3 = some (-1) ∧
    look (exec (.spawnj 0 3 16) tT) (fun t => (t.me.joins, t.me.records.map (fun x => (x.1.pc, x.1.regs.take 3, x.2)))) =
      some ([(0x41000, 1)], [(0x30000100, [11, 22, 0x41000], true)]) := ⟨rfl, rfl⟩
theorem test_join : look (exec (.join 0 18) tT) (·.me.joins) = some [(0x41000, -1)] ∧
    look (exec (.join 0 22) tT) (fun t => (t.me.ecause, t.me.edetail)) = some (0x11, 8) ∧
    look (exec (.spawn 0 3 21) tT) (·.me.ecause) = some 0x10 := ⟨rfl, rfl, rfl⟩

theorem hyp_TaskEnd : ∃ u, tT.acts .none 0 [] = true ∧ tT.loadsOut 0 + tT.storesOut 0 + tT.copiesOut 0 + tT.matrixOut 0 + tT.callsOut 0 +
      tT.launchesOut 0 = 0 ∧ tT.me.commitJoins = [] ∧ tT.me.task.map Task.lastAct ≠ some true ∧
    tT.me.dual = none ∧ tT.me.joins = [] ∧ tT.me.records = [] ∧ tT.me.deferred = [] ∧ tT.me.task.bind Task.ticket = none ∧
    tT.xlats (.core 0) (tT.pidOfRegion tT.me.rid) (some tT.me.rid) tT.me.super .atomic [] [] = (u, .ok []) :=
  ⟨_, rfl, rfl, rfl, by decide, rfl, rfl, rfl, rfl, rfl, rfl⟩
theorem hyp_TaskEnd_outstanding : 0 < tL.loadsOut 0 := by decide
/-- The first record of a launch: its join block is s5 (02 R29), not the argument in s4. -/
def firstTask : Task := { recordTask 0x30000100 1 0x41000 0x42000 false false false 0 with first := true }
theorem hyp_TaskEnd_first : firstTask.first = true ∧ firstTask.regs[2]? = some 0x41000 ∧ (0x41000 : Word) ≠ 0 ∧ joinOk (0x41000 : Word) = true ∧
    (tT.onMe (fun t => { t with task := some firstTask })).me.commitJoins = [(0x41000, -1)] := by decide
/-- A join block at 0x43000 whose counter is 1 and whose continuation runs 0x30000100 in lane 0. -/
def tJ : State := { tT with mem := Memory.putList tT.mem 0x43000 (natBytes 1 8 ++ natBytes 0x30000100 8) }
def core0 : Stepper := { agent := .core 0, super := false, sid := 0, command := none }
theorem hyp_TaskEnd_step : ∃ u v bs keys, tJ.readVirt core0.agent (tJ.pidOfRegion 2) (some 2) false 0x43000 8 = (u, .ok bs) ∧
    leWord (bs.map Prod.fst) = 1 ∧ u.writeFor core0.agent (tJ.pidOfRegion 2) (some 2) false (some (coreOf 0))
      ((List.range 8).map (fun i => (0x43000 + i, byteAt (0 : Word) i, false))) = (v, .ok keys) := ⟨_, _, _, _, rfl, rfl, rfl⟩
theorem hyp_TaskEnd_continuation : (match tJ.readVirt core0.agent (tJ.pidOfRegion 2) (some 2) false (0x43000 + 8) 40 with
      | (u, .ok l) => !malformed (BitVec.ofNat 64 (fieldAt (l.map Prod.fst) 0 8)) && (u.region 2).any (fun r =>
        r.lanes[0]?.any (fun y => !y.disabled && y.queue.length + y.reserved < 2 ^ y.c && y.chain == []))
      | _ => false) = true ∧ malformed (0x4000000000000000 : Word) = true := by decide +kernel
theorem hyp_TaskEnd_away : (match tT.readVirt core0.agent (tT.pidOfRegion 2) (some 2) false (0x40000000 + 8) 40 with
    | (_, .error _) => true | _ => false) = true ∧ (tT.regions.map Prod.fst).Pairwise (· < ·) := by decide +kernel
/-- The last join makes the continuation ready. -/
theorem test_last_join : ((tJ.joinStep core0 2 0x43000 0 false).region 2).map (fun r => r.lanes.map (fun l => l.queue.map (fun w => w.task.pc))) =
    ((tJ.region 2).map (fun r => setAt (r.lanes.map (fun _ => [])) 0 [0x30000100])) := by decide +kernel
theorem test_tend : look (exec (.tend 0) tT) (fun t => t.me.task) = some none ∧
    look (exec (.tend 0) tL) (fun t => t.me.wait) = some .stalled := ⟨rfl, rfl⟩

theorem hyp_Messages : tT.acts .none 0 [10, 20, 21, 16, 17, 18, 19, 20, 21] = true ∧ tT.clean [20, 21] = true ∧
    codeOk (tT.me.rd 16) = true ∧ codeOk (tT.me.rd 21) = false ∧ tT.enginesOut tT.cur < 16 ∧
    tT.me.dual = none ∧ tT.putsOut tT.cur = false ∧ tT.homeBusy tT.cur = false := by decide
def msg (dest : Word) : Flight :=
  { rid := 2, sid := 0, taskNo := tT.me.taskNo, token := 20, srcTile := 0, dest := dest, code := 0x30000100, payload := [1, 2, 3, 4, 5, 6]
    marks := 0 }
theorem hyp_Messages_arrive : ∃ r, takeAt [msg 0] 0 = some (msg 0, []) ∧ tT.region (msg 0).rid = some r ∧
    r.tiles[(0 : Word).toNat]? = some 0 ∧ r.tiles[(1 : Word).toNat]? = none ∧
    r.mail.countP (fun x => x.tile == 0) < r.mailbox := ⟨_, rfl, rfl, rfl, rfl, by decide⟩
theorem hyp_Messages_full : ∃ r, (tT.onRegion 2 (fun r => { r with mailbox := 0 })).region 2 = some r ∧
    r.mailbox ≤ r.mail.countP (fun x => x.tile == 0) := ⟨_, rfl, by decide⟩
/-- A message to a region that is away waits on its way. -/
theorem hyp_Messages_away : ∃ r, takeAt [msg 0] 0 = some (msg 0, []) ∧ (tT.onRegion 2 (fun r => { r with state := .preempted })).region 2 = some r ∧
    r.state = .preempted := ⟨_, rfl, rfl, rfl⟩
theorem test_message : look (exec (.messageArrival 0) { tT with msgs := [msg 0] }) (fun t => (t.me.rd 20, (t.region 2).map (fun r => r.mail.length))) =
      some (0, some 1) ∧
    valS (exec (.messageArrival 0) { tT with msgs := [msg 1] }) 20 = some 2 := ⟨rfl, rfl⟩

def ent (rid : Nat) (lo hi : BitVec 32) : DqEntry := { rid := rid, hi := hi, lo := lo, aux := 3, tag := 4 }
def withDq (s : State) (l : List DqEntry) : State := s.onTile 0 (fun t => { t with deque := l })
theorem hyp_Deques : tT.me.dual = none ∧ tT.acts .none 0 [12, 13] = true ∧ dqFind (tT.tile 0).deque tT.me.rid false = none ∧
    dqFind ((withDq tT [ent 2 0 5, ent 9 0 1]).tile 0).deque 2 false = some 0 ∧ tT.me.restartable = true ∧ tT.me.undo.length < 4 ∧
    tT.acts .none 0 [12, 13, 20] = true ∧ tT.clean [20] = true ∧
    (tT.myRegion.bind (fun r => r.tiles[(tT.me.rd 20).toNat]?)) = some 0 ∧
    (tT.myRegion.bind (fun r => r.tiles[(tT.me.rd 22).toNat]?)) = none ∧
    (irrevS tT).me.restartable = false ∧ (tT.tile 0).deque.length + (tT.tile 0).dqReserved.length < 64 := by decide
theorem hyp_Deques_undo : 4 ≤ (List.replicate 4 (Undo.barrier 0)).length := by decide
theorem hyp_Deques_fullUndo : (let s := (withDq tT [ent 2 0 5]).onMe (fun t => { t with undo := List.replicate 4 (Undo.barrier 0) })
    (dqFind (s.tile 0).deque s.me.rid true, s.me.restartable, s.me.undo.length, look (exec (.dqsteal 0 1 12 20) s) (fun t => (t.me.rd 13, (t.tile 0).deque)))) =
      (some 0, true, 4, some (1, [ent 2 0 5])) := by decide +kernel
/-- The lower ⌊5/2⌋ of [0, 5) is taken by a split, the upper ⌈5/2⌉ by a steal. -/
theorem test_deque :
    look (exec (.dqsplit 0 1 12) (withDq tT [ent 2 0 5])) (fun t => (t.me.rd 12, (t.tile 0).deque)) = some (0x200000000, [ent 2 2 5]) ∧
    look (exec (.dqsteal 0 1 12 20) (withDq tT [ent 2 0 5])) (fun t => (t.me.rd 12, (t.tile 0).deque)) = some (0x500000002, [ent 2 0 2]) :=
  ⟨rfl, rfl⟩

def bar (count arrived : Nat) (broken : Bool) : Barrier :=
  { count := count, refs := count, arrived := arrived, pend := 0, ph := 6, scope := 1, broken := broken, serial := 1, rid := 2, spent := 0
    running := true }
/-- A barrier in place 0 of die 0, its handle in s23; s24 holds the phase 6. -/
def withBar (s : State) (b : Barrier) : State := regs (s.putBarrier 0 0 b) [(23, handleOf 1 0 0), (24, 6)]
theorem hyp_BarrierOperations : tT.acts .none 0 [23, 24] = true ∧ tT.acts .none 0 [12, 23] = true ∧ tT.clean [23, 24] = true ∧
    tT.barrierOf 2 (handleOf 1 0 0) = none ∧ tT.me.dual = none ∧ freePlace (tT.die 0).barriers 4096 0 = some 0 ∧
    0 < (tT.myRegion.map (fun r => r.bbudget - r.bused - r.barriersHeld)).getD 0 := by decide
theorem hyp_BarrierOperations_live :
    (withBar tT (bar 3 1 false)).barrierOf 2 (handleOf 1 0 0) = some (0, 0, bar 3 1 false) ∧ phasePassed 6 6 = false ∧
    phasePassed 7 6 = true ∧ (irrevS (withBar tT (bar 3 1 false))).me.restartable = false ∧
    (irrevS tT).putsOut 0 = false ∧ (irrevS tT).homeBusy 0 = false ∧ (irrevS tT).me.buf = [] := by decide
theorem hyp_BarrierPhases : (bar 3 1 false).arrived + 1 < (bar 3 1 false).count ∧ (bar 3 2 false).arrived + 1 = (bar 3 2 false).count ∧
    (bar 3 3 false).arrived = (bar 3 3 false).count ∧ (bar 1 0 false).refs = 1 ∧ 1 < (bar 3 1 false).refs ∧
    lookupKey (tT.die 0).barriers 0 = none := by decide
theorem hyp_BarrierPhases_broken : (withBar tT (bar 3 1 true)).barrierOf 2 (handleOf 1 0 0) = some (0, 0, bar 3 1 true) ∧
    (bar 3 1 true).broken = true ∧ (bar 3 1 false).pend + 8 < 2 ^ 27 ∧ (withBar tT (bar 3 1 false)).waitedOn (handleOf 1 0 0) = false := by decide
/-- 64 expected bytes hold the phase open after the last arrival; a credit of 64 ends it. -/
theorem test_credit :
    let s := withBar tT { bar 3 3 false with pend := 64 }
    let t := withBar tT { bar 3 2 false with pend := 64 }
    (lookupKey ((s.expect 2 (handleOf 1 0 0) (-64)).die 0).barriers 0).map (fun b => (b.ph, b.arrived, b.pend)) = some (7, 0, 0) ∧
    (lookupKey ((t.arrive 2 (handleOf 1 0 0)).die 0).barriers 0).map (fun b => (b.ph, b.arrived, b.pend)) = some (6, 3, 64) := by decide +kernel
/-- Strand 1 waits for phase 6 on the barrier, a saved strand too. -/
def tBw (b : Barrier) : State :=
  (withBar (tT.setStrand 1 { tT.me with wait := .barrier 3 (handleOf 1 0 0) 6 }) b).onRegion 2 (fun r =>
    { r with strandsSaved := [(1, { tT.me with wait := .barrier 3 (handleOf 1 0 0) 6 })] })
theorem hyp_BarrierPhases_waiters : ((tBw (bar 3 2 false)).strands.map Prod.fst).Pairwise (· < ·) ∧
    (tBw (bar 3 2 false)).barrierOf 2 (handleOf 1 0 0) = some (0, 0, bar 3 2 false) ∧
    ((tBw (bar 3 2 false)).strand 1).wait = .barrier 3 (handleOf 1 0 0) 6 ∧ phasePassed ((bar 3 2 false).ph + 1) 6 = true ∧
    phasePassed ((bar 3 2 false).ph + 1) 7 = false ∧ (∀ q p, tT.me.wait ≠ .barrier q (handleOf 1 0 0) p) ∧
    (bar 3 2 false).scope ≠ 0 ∧ (bar 3 2 false).pend = 0 ∧ 1 < (bar 3 1 false).refs ∧
    (bar 3 0 false).refs - 1 < (bar 3 0 false).count - (bar 3 0 false).arrived ∧
    ((tBw (bar 3 2 false)).region 2).map (fun r => r.strandsSaved.map Prod.fst) = some [1] := by
  refine ⟨by decide, by decide +kernel, by decide, by decide, by decide, fun q p => ?_, by decide, by decide, by decide, by decide, by decide⟩
  show Wait.no ≠ Wait.barrier q _ p
  exact fun h => nomatch h
/-- The last arrival lets both go on with P3 all ones; the free of one of three references with none. -/
theorem test_waiters :
    (let s := (tBw (bar 3 2 false)).arrive 2 (handleOf 1 0 0)
     ((s.strand 1).wait, (s.strand 1).rdP 3, (s.region 2).map (fun r => r.strandsSaved.map (fun x => x.2.wait)))) =
      (.no, -1, some [.released 3 true]) ∧
    (let s := (tBw (bar 3 0 false)).bfree 2 (handleOf 1 0 0)
     ((s.strand 1).wait, (s.strand 1).rdP 3, (s.region 2).map (fun r => r.strandsSaved.map (fun x => x.2.wait)))) =
      (.no, 0, some [.released 3 false]) := by decide +kernel
theorem hyp_BarrierPhases_watchdog : ∃ r, (withBar tT (bar 3 1 false)).region 2 = some r ∧ r.state = .running :=
  ⟨_, rfl, rfl⟩
/-- The last of three arrivals ends the phase; a wait on a phase not passed makes the strand wait. -/
theorem test_barrier :
    look (exec (.barrive 0 12 23) (irrevS (withBar tT (bar 3 2 false)))) (fun t => (t.me.rd 12, (lookupKey (t.die 0).barriers 0).map (fun b => (b.ph, b.arrived)))) =
      some (6, some (7, 0)) ∧
    look (exec (.bwait 0 1 23 24) (withBar tT (bar 3 2 false))) (·.me.wait) = some (.barrier 1 (handleOf 1 0 0) 6) ∧
    look (exec (.bwait 0 1 22 24) tT) (fun t => (t.me.ecause, t.me.edetail)) = some (0x15, 8) := ⟨rfl, rfl, rfl⟩
theorem test_balloc : look (exec (.balloc 0 1 12 2 22) tT) (fun t => (t.me.rdP 2, (lookupKey (t.die 0).barriers 0).map (·.count))) =
      some (-1, some 8) ∧ valS (exec (.balloc 0 1 12 2 20) tT) 12 = some 3 := ⟨rfl, rfl⟩

/-! ### Launches, the copy engine, the encoder -/

/-- Bytes put into device memory, where virtual addresses below 2^30 map. -/
def fill (s : State) (a : Nat) (l : List Byte) : State := { s with mem := Memory.putList s.mem a l }
def words8 (l : List Nat) : List Byte := l.flatMap (fun x => natBytes x 8)

theorem hyp_Launches : tT.acts .none 0 [20, 10] = true ∧ tT.clean [10] = true ∧ tT.me.dual = none ∧ tT.enginesOut tT.cur < 16 ∧
    (tT.me.rd 10).toNat % 64 = 0 ∧ (tT.me.rd 10).toNat + 127 < 2 ^ 56 ∧ (tT.me.rd 22).toNat % 64 ≠ 0 := by decide
theorem hyp_Launches_read : ∃ (v : State) (l : List (Byte × Bool)), (tT.irrevAct 0).readVirt (.core 0) (tT.pidOfRegion 2) (some 2) false 0x40000 128 = (v, .ok l) :=
  ⟨_, _, rfl⟩
/-- A packet of zeros asks for the parent's budgets and tiles; a bad priority is refused with code 1, too large a budget with 2. -/
theorem hyp_Launches_created : (tT.launchRegion .hw true 2 (List.replicate 128 0) .no none).2 = .placing 4 ∧
    (tT.launchRegion .hw true 2 (putField (List.replicate 128 0) 60 1 16) .no none).2 = .refused 1 ∧
    (tT.launchRegion .hw true 2 (putField (List.replicate 128 0) 56 2 17) .no none).2 = .refused 2 := by decide +kernel
theorem hyp_Launches_faults : (match (tT.irrevAct 0).readVirt (.core 0) (tT.pidOfRegion 2) (some 2) false 0x40000000 128 with
      | (_, .error _) => true | _ => false) = true ∧
    (match (tT.launchRegion .hw true 2 (putField (List.replicate 128 0) 112 8 0x40000000) .no none).2 with
      | .fault _ => true | _ => false) = true := by decide +kernel
theorem test_launch : look (exec (.launch 0 12 10) tT) (fun t => (bitOf t.me.pendS 12, t.me.irrev, (t.region 4).map (·.state))) =
      some (true, true, some .placing) ∧
    valS (exec (.launch 0 12 22) tT) 12 = some 3 := by decide +kernel

theorem hyp_EngineCommands : tT.enginesOut tT.cur < 16 ∧ tT.me.dual = none ∧ acqReady tT 0 = true ∧ acqReady tT 1 = true ∧
    tT.acts .none 0 [20, 10, 11] = true ∧ tT.clean [20, 10, 11] = true ∧ tT.matrixOut tT.cur = 0 ∧
    (tT.tile (tileOf tT.cur)).copies.length < 64 := by decide

def cmdOf (op : Nat) (dst src len : Word) : CopyCmd :=
  { op := op, sid := 0, taskNo := tT.me.taskNo, rid := 2, token := 20, super := false, dst := dst, src := src, len := len, acq := false, rel := false
    scope := 0, order := 5, status := none, parked := false, started := false, listed := [], srcs := [], moved := [], half := [], bad := [] }
def withCopy (s : State) (c : CopyCmd) : State := s.onTile 0 (fun t => { t with copies := [c] })
/-- A full engine: 64 commands of another strand of the tile. -/
def tFull : State := tT.onTile 0 (fun t => { t with copies := List.replicate 64 { cmdOf 0 0x40000 0x50000 8 with sid := 5 } })
theorem hyp_EngineCommands_full : tFull.enginesOut tFull.cur < 16 ∧ tFull.me.dual = none ∧ acqReady tFull 0 = true ∧
    tFull.acts .none 0 [20, 10, 11] = true ∧ tFull.clean [20, 10, 11] = true ∧ 64 ≤ (tFull.tile (tileOf tFull.cur)).copies.length := by
  decide +kernel
theorem test_engine : look (exec (.copy 0 0 0 20 10 11 0) tFull) (fun t => t.me.wait) = some .stalled ∧
    look (exec (.copy 0 0 0 20 10 11 0) tT) (fun t => (t.tile 0).copies.length) = some 1 := by decide +kernel
def c0 : CopyCmd := cmdOf 0 0x40000 0x50000 8
def c3 : CopyCmd := cmdOf 3 0x40000 0x50000 0x00030001
def c1 : CopyCmd := cmdOf 1 0xFFFFFFF100000000 0x50000 8
theorem hyp_CopySteps : ∃ r, ((withCopy tT c0).tile 0).copies[0]? = some c0 ∧ (withCopy tT c0).region 2 = some r ∧ c0.parked = false ∧
    r.state ≠ .preempted ∧ lowest [addrCode r 0x50000 8 true true true, lenCode c0, addrCode r 0x40000 8 true true false] = 0 ∧
    lowest [addrCode r (2 ^ 56) 8 true true true, lenCode c0, 0] = 1 ∧ lenCode (cmdOf 0 0 0 0x10000000) = 2 ∧ lenCode c3 = 0 :=
  ⟨_, rfl, rfl, rfl, by decide, by decide, by decide, by decide, by decide⟩
/-- A command that has begun; one whose source is on no page; a `copyw`; a put that is acknowledged. -/
def c0s : CopyCmd := { c0 with started := true }
def c9 : CopyCmd := { cmdOf 0 0x40000 0x40000000 8 with started := true }
def c4 : CopyCmd := cmdOf 4 0 0x50000 64
def c1a : CopyCmd := { c1 with status := some 0 }
theorem hyp_CopySteps_starts : ∃ r, tT.region 2 = some r ∧ startCode r c0 = 0 ∧ startCode r c4 = 0 ∧ creditOf c0 ≠ 0 ∧
    creditOf (cmdOf 0 0x40000 0x50000 0) = 0 ∧ putBlocked (withCopy tT c1) 0 0 c1 = false ∧
    putBlocked (tT.onTile 0 (fun t => { t with copies := [{ c1 with op := 2 }, { c1 with op := 2 }] })) 0 1 { c1 with op := 2 } = true ∧
    copywReady (withCopy tT c4) 0 0 c4 = true ∧ copywReady (tT.onTile 0 (fun t => { t with copies := [c4, c4] })) 0 1 c4 = false :=
  ⟨_, rfl, by decide, by decide, by decide, by decide, by decide +kernel, by decide +kernel, by decide +kernel, by decide +kernel⟩
theorem hyp_CopySteps_units : unitPlaces c0 0 = [0, 1, 2, 3, 4, 5, 6, 7] ∧ unitLimit (withCopy tT c0s) c0s = 1 ∧
    (match (withCopy tT c0s).moveUnit c0s 0 0 with | (_, c, none) => c == { c0s with moved := [0] } | _ => false) = true ∧
    (match (withCopy tT c9).moveUnit c9 0 0 with | (_, c, some e) => c == c9 && e.1 == .read | _ => false) = true ∧
    (match (withCopy tT c0).engineWrite { c0 with dst := 0x40000000 } 0 [(0, 1, false)] with | (_, .error _) => true | _ => false) = true := by
  decide +kernel
/-- A `copyw` of a suspended strand; one that finds another owner after its start; a unit half of whose source is on no page. -/
def c4s : CopyCmd := { c4 with sid := savedName 2 0 }
def cHalf : CopyCmd := { cmdOf 0 0x40000 0x3FFFFFFC 8 with started := true }
theorem hyp_CopySteps_suspended : ∃ r, ((withCopy tT c4s).tile 0).copies[0]? = some c4s ∧ (withCopy tT c4s).region c4s.rid = some r ∧
    c4s.op = 4 ∧ 2 ^ 32 ≤ c4s.sid ∧ ((withCopy tT c4).core (coreOf c4.sid)).owner ≠ some c4.rid ∧ startCode r { c4 with started := true } = 0 ∧
    copywReady (withCopy tT { c4 with started := true }) 0 0 { c4 with started := true } = true :=
  ⟨_, rfl, rfl, rfl, by decide, by decide, by decide, by decide +kernel⟩
theorem test_half_unit : (match (withCopy (fill tT 0x3FFFFFFC [1, 2, 3, 4]) cHalf).moveUnit cHalf 0 0 with
    | (s, c, some e) => c.half == [0, 1, 2, 3] && c.moved == [] && e.2.2 == 0x40000000 && Memory.getN s.mem 0x40000 4 == [1, 2, 3, 4]
    | _ => false) = true := by decide +kernel
theorem hyp_CopySteps_half : ∃ (u : State) (e : XErr × Nat), (withCopy tT cHalf).engineRead cHalf 0 ((unitPlaces cHalf 0).map (sourceOf cHalf)) = (u, .error e) ∧
    (unitPlaces cHalf 0).takeWhile (fun o => (sourceOf cHalf o).1 + (sourceOf cHalf o).2 != e.2) = [0, 1, 2, 3] :=
  ⟨_, _, rfl, by decide +kernel⟩
theorem hyp_CopySteps_gather : ∃ (u : State) (l : List (Byte × Bool)),
    (withCopy tT c3).engineRead c3 0 ((List.range 8).map (fun o => (0x50000, o))) = (u, .ok l) ∧ gatherCount c3 = 1 ∧ gatherSize c3 = 8 ∧
    listAddrs (c3.listed ++ l.map Prod.fst) 1 = [0] := ⟨_, _, rfl, by decide, by decide, by decide +kernel⟩
/-- A `gather` whose list goes on past a page that is mapped: it parks with the first address read. -/
def cList : CopyCmd := cmdOf 3 0x40000 0x3FFFFFF8 0x00030002
theorem hyp_CopySteps_list : ∃ r, (withCopy tT cList).region 2 = some r ∧ gatherCount cList = 2 ∧ lenCode cList = 0 ∧
    addrCode r cList.src.toNat (8 * gatherCount cList) true true false = 0 ∧
    (match (withCopy tT cList).engineRead cList 0 ((List.range 16).map (fun i => (0x3FFFFFF8, i))) with
      | (u, .error e) => e.2 == 0x40000000 && (match u.engineRead cList 0 ((List.range 8).map (fun i => (0x3FFFFFF8, i))) with
        | (_, .ok _) => true | _ => false)
      | _ => false) = true := ⟨_, rfl, by decide, by decide, by decide, by decide +kernel⟩
theorem test_gather_parks : look (exec (.copyCompletion 0 0) (withCopy tT cList)) (fun t => (t.tile 0).copies.map (fun c => (c.listed.length, c.parked))) =
    some [(8, true)] := by decide +kernel
/-- The copy engine does not own the bytes 0x40000 to 0x4003F. -/
def tWo : State := tT.onRegion 2 (fun r => { r with wo := [{ base := 0x40000, size := 64, owner := 2, phase := 0, allph := true }] })
theorem hyp_CopySteps_refused : (copyRefusal tWo c0).isSome = true ∧ copyRefusal tT c0 = none := by decide +kernel
theorem hyp_CopySteps_owner : (tT.core 0).owner = none ∧ ({ tT.core 0 with owner := some 2 } : Core).owner = some 2 := ⟨rfl, rfl⟩
theorem hyp_CopySteps_credit : handleIn (cmdOf 0 0 0 (2 ^ 63 + 8)) ≠ 0 ∧ handleIn c0 = 0 ∧
    ((withBar tT (bar 3 1 false)).barrierOf 2 (handleIn (cmdOf 0 0 0 (0x8001000000000008)))).isSome = true := by decide
theorem test_copy :
    look (exec (.copyCompletion 0 0) (withCopy (fill tT 0x50000 (words8 [0x1122334455667788])) c0))
      (fun t => (Memory.getN t.mem 0x40000 2, t.me.rd 20, (t.tile 0).copies)) = some ([0x88, 0x77], 0, []) ∧
    look (exec (.putAck 0 0) (withCopy tT c1a)) (fun t => (t.me.rd 20, (t.tile 0).copies)) = some (0, []) ∧
    valS (exec (.copyCompletion 0 0) (withCopy tT (cmdOf 0 0x40000 0x50000 0x10000008))) 20 = some 2 := ⟨rfl, rfl, rfl⟩

def encOf (desc : Word) : EncCmd :=
  { no := 50, sid := 0, taskNo := tT.me.taskNo, rid := 2, token := 20, super := false, desc := desc, acq := false, rel := false, scope := 0, parked := false
    listed := [], frame := none, rows := [], label := 0, wrote := 0 }
/-- A frame of 16 × 16 points of 8 bits at 0x42000 and 0x43000, its output at 0x44000. -/
def frame : List Byte := words8 [0x42000, 0x43000, 0x4000000040, 0x080000100010, 0x100, 0, 0x44000, 0x400] ++ List.replicate 64 0
def tE : State := (fill tT 0x41000 frame).onDie 0 (fun d => { d with encCmds := [encOf 0x41000] })
/-- Commands 5 and 6 have each written a line that is in the L1: the end of 5 drops its own only. -/
def tLines : State := { tT.onCore 0 (fun k => { k with l1 := [(0x1000, lineOne), (0x1001, lineOne)] }) with
  written := [{ rid := 2, sid := 0, cmd := 5, line := 0x1000 }, { rid := 2, sid := 0, cmd := 6, line := 0x1001 }] }
theorem hyp_CopySteps_lines : ((tLines.core 0).l1.map Prod.fst).Pairwise (· < ·) ∧
    ((tLines.dropWritten 0 5).written.map Wrote.cmd, ((tLines.dropWritten 0 5).core 0).l1.map Prod.fst) = ([6], [0x1001]) := by decide +kernel
theorem hyp_CopySteps_encoder : ∃ r, (tE.die 0).encCmds[0]? = some (encOf 0x41000) ∧ tE.region 2 = some r ∧ r.state ≠ .preempted ∧
    (encOf 0x41000).desc.toNat + 128 ≤ 2 ^ 56 ∧ (encOf 0x41000).desc.toNat % 64 = 0 ∧ (encOf 0x41020).desc.toNat % 64 ≠ 0 ∧
    (tE.die 0).streams.length < 16 := ⟨_, rfl, rfl, by decide, by decide, by decide, by decide, by decide⟩
theorem hyp_CopySteps_frame : frameOk frame = true ∧ frameOk (putField frame 24 2 8) = false := by decide +kernel
theorem hyp_CopySteps_descriptor :
    (match tE.readVirt (.enc 0) 0 (some 2) false 0x41000 128 with | (_, .ok l) => l.map Prod.fst == frame | _ => false) = true := by
  decide +kernel
theorem hyp_CopySteps_planes :
    (match tE.xlats (.enc 0) 0 (some 2) false .read (planeAddrs 0x42000 64 16 16 ++ planeAddrs 0x43000 64 16 8) [] with
      | (_, .ok _) => true | _ => false) = true ∧ woRefused tE 2 4 ((List.range 64).map (0x44000 + ·)) = none := by
  decide +kernel

/-- A command that has read its frame, for an output of no bytes; one whose output another owner holds. -/
def frame0 : List Byte := putField frame 56 4 0
def encRead : EncCmd := { encOf 0x41000 with frame := some frame0 }
theorem hyp_CopySteps_output : encRead.frame = some frame0 ∧ fieldAt frame0 56 4 = 0 ∧ woRefused tE 2 4 [] = none ∧
    (match tE.engineStore (.enc 0) encRead.issuer [] with | (_, .ok ()) => true | _ => false) = true ∧
    woRefused tWo 2 4 ((List.range 64).map (0x40000 + ·)) = some 0x40000 ∧
    (match tE.engineStore (.enc 0) encRead.issuer [(0x40000000, 1, false)] with | (_, .error _) => true | _ => false) = true := by
  decide +kernel
/-- A descriptor whose second half is away, and a plane that is. -/
def encHalf : EncCmd := encOf 0x3FFFFFC0
def encRows : EncCmd := { encOf 0x41000 with frame := some frame, rows := [0x42000, 0x40000000] }
theorem hyp_CopySteps_pages : (match tE.readVirt (.enc 0) 0 (some 2) false 0x3FFFFFC0 128 with
      | (u, .error e) => e.2 == 0x40000000 && (match u.readVirt (.enc 0) 0 (some 2) false 0x3FFFFFC0 64 with
        | (_, .ok _) => true | _ => false)
      | _ => false) = true ∧
    (match tE.xlats (.enc 0) 0 (some 2) false .read encRows.rows [] with | (_, .error e) => e.2 == 0x40000000 | _ => false) = true ∧
    (match tE.xlats (.enc 0) 0 (some 2) false .read [0x42000] [] with | (_, .ok _) => true | _ => false) = true := by decide +kernel
theorem test_encoder_parks :
    look (exec (.vencCompletion 0 0) (tE.onDie 0 (fun d => { d with encCmds := [encHalf] })))
      (fun t => (t.die 0).encCmds.map (fun c => (c.listed.length, c.parked))) = some [(64, true)] ∧
    look (exec (.vencCompletion 0 0) (tE.onDie 0 (fun d => { d with encCmds := [encRows] })))
      (fun t => (t.die 0).encCmds.map (fun c => (c.rows, c.parked))) = some [([0x40000000], true)] := by decide +kernel

/-! ### The matrix unit -/

/-- s10 addresses the scratchpad, s11 the scales, s12 the mask, s13 the weight buffer. -/
def tM : State := regs tT [(10, 0xFFFFFFF000000000), (11, 0xFFFFFFF000010000), (12, -1), (13, 0)]
def mop (fn : Nat) (addr b : Word) (scm : Nat) : MatOp :=
  { fn := fn, d := 1, addr := addr, scales := 0, mask := -1, b := b, af := 2, bf := 2, scm := scm, z := false, src := 0, srcMarks := 0 }
theorem hyp_MatrixIssue : tM.enginesOut tM.cur < 16 ∧ matFmt 0 tM.me.pfxr = some (2, 2, 0, false) ∧
    matFmt 1 tM.me.pfxr = some (4, 4, 0, false) ∧ matFmt 2 tM.me.pfxr = some (6, 6, 0, false) ∧
    matFmt 6 tM.me.pfxr = some (4, 0, 0, false) ∧ tM.acts .mode 0 [10, 12, 13] = true ∧ tM.clean [10, 12, 13] = true ∧
    tM.acts .none 0 [] = true ∧ tM.acts .none 0 [10, 11] = true ∧ tM.actsV .mode 0 [] [3, 4] [] = true := by decide
theorem hyp_MatrixIssue_check : matReady tM 0 (mop 4 0xFFFFFFF000000000 0 0) = true ∧
    matReady (withCopy tM (cmdOf 4 0 0x50000 64)) 0 (mop 0 0xFFFFFFF000000000 0 0) = false ∧
    matCheck (tM.core 0) 2 (mop 4 0xFFFFFFF000000000 0 0) = none ∧
    matCheck (tM.core 0) 2 (mop 5 0xFFFFFFF000000000 0 0) = none ∧ spadAligned 0x40000 = false ∧ spadAligned 0xFFFFFFF000000000 = true := by
  decide +kernel
theorem hyp_MatrixIssue_copyw : (withCopy tM (cmdOf 4 0 0x50000 64)).copywOut tM.cur = true ∧ tM.copywOut tM.cur = false ∧
    (withCopy tM (cmdOf 4 0 0x50000 64)).enginesOut tM.cur < 16 := by decide +kernel
theorem hyp_MatrixIssue_waits : (tM.onMe (fun t => { t with wait := .check (mop 0 0x40000 0 0) })).me.wait = .check (mop 0 0x40000 0 0) := rfl
theorem test_matrix_check :
    look (exec (.mma 0 1 10 13) tM) (fun t => match t.me.wait with | .check op => some (op.fn, op.d, op.mask) | _ => none) =
      some (some (0, 1, -1)) ∧
    look (exec (.matrixAccept 0) (tM.onMe (fun t => { t with wait := .check (mop 0 0x40000 0 0) }))) (fun t => (t.me.ecause, t.me.edetail)) =
      some (0x20, 0) ∧
    look (exec (.matrixAccept 0) (tM.onMe (fun t => { t with wait := .check (mop 0 0xFFFFFFF000000000 0 0) }))) (·.me.ecause) =
      some 0x21 := by decide +kernel

def acc (op : MatOp) : Accepted := { op := op, sid := 0, taskNo := tM.me.taskNo, table := 0 }
def tQ (op : MatOp) : State := tM.onCore 0 (fun k => { k with mq := [acc op] })
theorem hyp_MatrixResults : ((tQ (mop 3 0 0 0)).core 0).mq = [acc (mop 3 0 0 0)] ∧ (tM.core 0).mq = [] ∧
    ((tQ (mop 3 0 0 0)).strand 0).taskNo = (acc (mop 3 0 0 0)).taskNo := ⟨rfl, rfl, rfl⟩
theorem hyp_MatrixResults_errors : ((tQ (mop 0 0 0 0)).onMe (fun t => t.setErrA 1 3)).me.errA 1 ≠ 0 ∧ (tQ (mop 0 0 0 0)).me.errA 1 = 0 ∧
    ((tQ (mop 0 0 0 0)).die 0).uecount < 2 ^ 64 ∧ (mop 0 0 0 0).bf ≠ 7 ∧ (mop 0 0 0 0).af = 2 ∧ (acc (mop 4 0 0 0)).op.fn = 4 ∧
    (acc (mop 5 0 0 0)).op.fn = 5 ∧ (acc (mop 6 0 0 0)).op.fn = 6 := by decide +kernel
/-- Two FP32 products 1 and 2 on an old element 0.5; `mst` stores the low byte of the first element. -/
theorem test_matrix_out : matOut (mop 0 0 0 0) [(.fin false 1, false), (.fin false 2, true)] 0x3F000000 false = (0x40600000, true) ∧
    ((tM.onMe (fun t => t.wrA 1 7 0)).matrixDo (acc (mop 5 0xFFFFFFF000000000 0 0)) |>.tile 0).spad = [(0, 7)] := by decide +kernel
theorem test_matrix_clear : look (exec (.matrixComplete 0) ((tQ (mop 3 0 0 0)).onMe (fun t => t.wrA 1 7 0))) (fun t => t.me.rdA 1 == 0) =
    some true := by decide +kernel

/-! ### Trees -/

/-- A header of one triangle, its slot 0 CURRENT with generation 1 and root 0. -/
def treeHdr : List Byte :=
  putSlot (words8 [0x100000, 0x100000010, 0x100000001, 0x200000, 0x0100000200000001] ++ List.replicate 216 0) 0
    { gen := 1, root := 0, nodes := 1, pins := 1, state := 1 }
def bld (kind : Nat) : BuildCmd := newBuild tT kind 20 0x42000 0 0 0 0
def tB (kind : Nat) : State := (fill tT 0x42000 treeHdr).onDie 0 (fun d => { d with builds := [bld kind] })
theorem hyp_TreeCommands : tT.enginesOut tT.cur < 16 ∧ tT.me.dual = none ∧ acqReady tT 0 = true ∧ tT.acts .none 0 [20, 10, 0] = true ∧
    tT.clean [10, 11] = true ∧ tT.acts .none 0 [20, 10, 11] = true ∧ hdrAddrOk 0x42000 = true ∧ hdrAddrOk 0x42010 = false := by decide
theorem hyp_TreeCommands_header : (match (tB 3).readHeader (bld 3) 0 with | (_, .ok h) => h == treeHdr | _ => false) = true ∧
    treeHeaderOk treeHdr = true ∧ treeHeaderOk (List.replicate 256 0) = false ∧ currentSlot treeHdr = some 0 ∧
    currentSlot (List.replicate 256 0) = none ∧ fieldAt treeHdr 20 4 ≠ 0 ∧
    (match (tB 3).actHeader (bld 3) 0 treeHdr treeHdr with | (_, .ok b) => b | _ => false) = true ∧
    findAt (fun x => x.state != 0 && x.gen == 1) (slots treeHdr) = some 0 ∧ (tB 3).pinDie 2 0x42000 1 0 = none ∧
    ((tB 3).onDie 0 (fun d => { d with pins := [{ rid := 2, hdr := 0x42000, gen := 1 }] })).pinDie 2 0x42000 1 0 = some 0 := by decide +kernel
theorem hyp_TreeCommands_pin :
    (match (tB 3).pinDo (bld 3) 0 with | (_, .ok x) => some x | _ => none) = some 0x100000000 ∧
    (match (tB 3).pinDo { bld 3 with hdr := 0x40000000 } 0 with | (_, .error _) => true | _ => false) = true := by decide +kernel
theorem hyp_BuilderSteps : buildRuns (tB 0) (bld 0) = true ∧ (bld 0).phase = 0 ∧ (bld 0).kind ≤ 2 ∧ treeHdr.length = 256 ∧
    ((tB 0).die 0).builds[0]? = some (bld 0) ∧ fieldAt treeHdr 44 4 = 0 ∧
    (match (tB 0).readHeader (bld 0) 0 with | (_, .ok h) => h == treeHdr | _ => false) = true ∧
    (match (tB 0).actHeader (bld 0) 0 treeHdr (putField treeHdr 44 4 1) with | (_, .ok b) => b | _ => false) = true := by decide +kernel
theorem hyp_BuilderSteps_held : fieldAt (putField treeHdr 44 4 1) 44 4 ≠ 0 := by decide +kernel
/-- A `build` that has the lock and reads its triangle; one with its blocks planned; a failed one that still holds the lock. -/
def bScan : BuildCmd := { bld 0 with phase := 2, header := putField treeHdr 44 4 1, order := [0] }
def bWrite : BuildCmd := { bScan with phase := 3, order := [], blocks := [(0, List.replicate 64 0)] }
def tScan (c : BuildCmd) : State := (fill tT 0x42000 (putField treeHdr 44 4 1)).onDie 0 (fun d => { d with builds := [c] })
theorem hyp_BuilderSteps_scan : ((tScan bScan).die 0).builds[0]? = some bScan ∧ buildRuns (tScan bScan) bScan = true ∧ bScan.kind ≤ 2 ∧
    (match (tScan bScan).readVirt (.builder 0) 0 (some 2) false 0x200000 48 with | (_, .ok _) => true | _ => false) = true ∧
    (primOf 2 0 (List.replicate 48 0)).degenerate 2 0 = true ∧
    (primOf 2 0 (putField (putField (List.replicate 48 0) 12 4 0x3F800000) 28 4 0x3F800000)).degenerate 2 0 = false := by decide +kernel
theorem hyp_BuilderSteps_ahead : (match (tScan bScan).readVirt (.builder 0) 0 (some 2) false 0x200000 8 with | (_, .ok _) => true | _ => false) = true ∧
    (0x200000 : Nat) % 8 = 0 ∧ 0x200000 + 8 ≤ 0x200000 + primSize 2 ∧ bScan.phase = 2 ∧ (bld 0).phase ≠ 2 := by decide +kernel
theorem test_build_ahead : (((tScan bScan).buildAhead 0 0 0x200000).die 0).builds.map (fun c => c.ahead.map (·.unit)) = [[0x200000 / 8]] := by
  decide +kernel
theorem hyp_BuilderSteps_plan : planBuild { bScan with order := [] } = .error (buildStatus 6 0) ∧ startBlock (putField treeHdr 16 4 0) 2 = some 1 ∧
    startBlock treeHdr 2 = none := by decide +kernel
theorem hyp_BuilderSteps_write :
    (match (tScan bWrite).buildStore bWrite 0 ((numberedFrom 0x100000 (List.replicate 64 0)).map (fun x => (x.1, x.2, false))) with
      | (_, .ok ()) => true | _ => false) = true ∧
    (match (tScan bWrite).unlock 0 bWrite with | (_, .ok _) => true | _ => false) = true ∧
    (match (tT.unlock 0 { bWrite with hdr := 0x40000000 }) with | (_, .error _) => true | _ => false) = true ∧
    (bld 3).kind = 3 ∧ (match (tB 5).pinDo (bld 5) 0 with | (_, .ok _) => true | _ => false) = true := by decide +kernel
/-- 10 R204: four points with their masses under MEDIAN and LEAFSZ 1. -/
def pts : List Prim := [⟨0, [0x41000000, 0, 0], 0x40000000⟩, ⟨1, [0, 0, 0], 0x3F800000⟩, ⟨2, [0x41200000, 0, 0], 0x40000000⟩,
  ⟨3, [0x40000000, 0, 0], 0x3F800000⟩]
def tree4 : List NodeRec × List Prim × Option Nat := layTree (growTree 0 0 1 64 0 pts) 0 0 0 0 0xFFFFFFFF
theorem test_tree : tree4.1.map (fun n => let b := nodeBytes 0 1 1 n
      [fieldAt b 24 4, fieldAt b 36 4, fieldAt b 40 4, fieldAt b 44 4, fieldAt b 48 4, fieldAt b 52 4, fieldAt b 56 4, fieldAt b 63 1]) =
    [[0x40CAAAAB, 0x40CAAAAB, 1, 4, 0x40C00000, 4, 0xFFFFFFFF, 0], [0x3F800000, 0x3F800000, 2, 3, 0x40000000, 2, 0, 1],
     [0, 0, 0x80000000, 1, 0x3F800000, 1, 1, 2], [0x40000000, 0, 0x80000001, 1, 0x3F800000, 1, 1, 2],
     [0x41100000, 0x3F800000, 5, 6, 0x40800000, 2, 0, 1], [0x41000000, 0, 0x80000002, 1, 0x40000000, 1, 4, 2],
     [0x41200000, 0, 0x80000003, 1, 0x40000000, 1, 4, 2]] ∧ tree4.2.1.map Prim.idx = [1, 3, 0, 2] ∧ tree4.2.2 = none := by decide +kernel
theorem hyp_BuilderSteps_nodes : pts ≠ [] ∧ ∀ p ∈ pts, p.degenerate 0 1 = false ∧ ∀ x ∈ p.coords, x < 2 ^ 32 := by decide +kernel
/-- A plane between the four points, and none where all lie at one place. -/
theorem hyp_BuilderSteps_planes : (sahCandidates 0 pts).length = 15 ∧ (sahCandidates 0 [⟨0, [0, 0, 0], 0⟩, ⟨1, [0, 0, 0], 0⟩]).length = 0 := by
  decide +kernel
def bPlan : BuildCmd := { bScan with order := [], prims := [primOf 2 0 (putField (putField (List.replicate 48 0) 12 4 0x3F800000) 28 4 0x3F800000)]
                                     header := putField (putField treeHdr 16 4 0) 44 4 1 }
theorem hyp_BuilderSteps_planned : ∃ c', planBuild bPlan = .ok c' ∧ bPlan.prims.length ≤ 1 := ⟨_, rfl, by decide⟩
theorem hyp_BuilderSteps_trees : (2 : Nat) < pts.length ∧ pts.length ≤ 4 ∧ (5 : Nat) < 63 ∧
    ([(1, 2, 3)] : List (Nat × Nat × Nat))[0]? = some (1, 2, 3) := by decide
theorem hyp_BuilderSteps_topology : (match (tScan { bScan with phase := 1, kind := 1 }).readVirt (.builder 0) 0 (some 2) false 0x100000 64 with
    | (_, .ok _) => true | _ => false) = true ∧
    (match (tScan bScan).readHeader { bWrite with phase := 4 } 0 with | (_, .ok _) => true | _ => false) = true := by decide +kernel
/-- A triangle of one point is dropped and counted. -/
theorem test_builder_scan : look (exec (.builderStep 0 0) (tScan bScan)) (fun t => (t.die 0).builds.map (fun c => (c.order, c.dropped))) =
    some [([], 1)] := by decide +kernel
/-- The lock's holder code is 1 more than the die; a second generation takes the next slot. -/
theorem test_builder : look (exec (.builderLock 0 0) (tB 1)) (fun t => (Memory.get t.mem (0x42000 + 44), ((t.die 0).builds.map (·.phase)))) =
      some (1, [1]) ∧
    fieldAt (published { bld 0 with start := 1, nodes := 1 } treeHdr) 20 4 = 2 := by decide +kernel

/-! ### Relay -/

def pin : Pin := { rid := 2, hdr := 0x42000, gen := 1 }
/-- A traversal that compares the boxes of a tree with themselves. -/
def relayDesc : List Byte := words8 [0x42000, 0x100000000, 0x42000, 0x100000000, 1] ++ List.replicate 88 0
def rcmd (ray : Bool) (desc : Word) : RelayCmd :=
  { no := 51, ray := ray, super := false, sid := 0, taskNo := tT.me.taskNo, rid := 2, token := 20, desc := desc, acq := false, rel := false, scope := 0 }
def withRelay (s : State) (f : Relay → Relay) : State := s.onTile 0 (fun t => { t with relay := f t.relay })
def tY : State := withRelay ((fill (fill tT 0x41000 relayDesc) 0x42000 treeHdr).onDie 0 (fun d => { d with pins := [pin] }))
  (fun q => { q with cmds := [rcmd false 0x41000] })
theorem hyp_RelayInstructions : tT.acts .none 0 [20, 10] = true ∧ tT.clean [10, 12] = true ∧ (tT.tile 0).relay.cmds.length < 8 ∧
    tT.putsOut tT.cur = false ∧ tT.actsV .none 0 [10, 12] [5] [] = true ∧ tT.hasRoom = true ∧ tT.acts .none 0 [10, 12] = true ∧
    tT.me.task.bind Task.ticket ≠ some (tT.me.rd 10).toNat := by decide
theorem hyp_RelayInstructions_ticket :
    ((tT.onMe (fun t => { t with task := t.task.map (fun k => { k with ticket := some 0x40000 }) })).me.task.bind Task.ticket) =
      some (tT.me.rd 10).toNat ∧ tT.me.verdictGiven = false ∧ (tT.me.rd 20).toNat ≤ 2 := by decide
theorem hyp_RelayInstructions_node :
    (match tT.reading (tT.me.rd 10) (List.range 64) .vol with | .ok _ => true | .error _ => false) = true := by decide +kernel
theorem hyp_RelaySteps : (tY.tile 0).relay.trav = none ∧ (tY.tile 0).relay.cmds = [rcmd false 0x41000] ∧ (tY.tile 0).relay.parked = false ∧
    relayRuns tY 2 = true ∧ descOk false relayDesc = true ∧ descOk true relayDesc = false ∧ fieldAt relayDesc 96 8 = 0 ∧
    tY.batonSlot 2 0 0x42000 0x100000000 treeHdr = some 0 ∧ tY.batonSlot 2 0 0x42000 0x200000000 treeHdr = none ∧
    (match tY.relayHeader 0 (rcmd false 0x41000) 0x42000 with | (_, .ok (some h)) => h == treeHdr | _ => false) = true ∧
    (match tY.readVirt (.relay 0) 0 (some 2) false 0x41000 128 with | (_, .ok l) => l.map Prod.fst == relayDesc | _ => false) = true ∧
    (match tY.xlats (.relay 0) 0 (some 2) false .atomic [0x42000, 0x42000] [] with | (_, .ok _) => true | _ => false) = true := by
  decide +kernel
/-- A traversal over two trees, with a JOIN on a page or on none. -/
def pairDesc (join : Nat) : List Byte := putField (words8 [0x42000, 0x100000000, 0x43000, 0x100000000, 1] ++ List.replicate 88 0) 96 8 join
def tPair (join : Nat) : State := withRelay ((fill (fill (fill tT 0x41000 (pairDesc join)) 0x42000 treeHdr) 0x43000 treeHdr).onDie 0 (fun d =>
  { d with pins := [pin, { pin with hdr := 0x43000 }] })) (fun q => { q with cmds := [rcmd false 0x41000] })
theorem hyp_RelaySteps_pins : (selfTrav (pairDesc 0), selfTrav relayDesc, descOk false (pairDesc 0x44000)) = (false, true, true) ∧
    (tPair 0).batonSlot 2 0 0x43000 0x100000000 treeHdr = some 0 ∧
    (match (tPair 0x44000).xlats (.relay 0) 0 (some 2) false .atomic [0x42000, 0x43000, 0x44000] [] with
      | (x, .ok _) => (match (x.travPin 0 (rcmd false 0x41000) 0x42000 0 treeHdr).1.relayHeader 0 (rcmd false 0x41000) 0x43000 with
        | (_, .ok (some h)) => h == treeHdr | _ => false)
      | _ => false) = true ∧
    (match (tPair 0x40000000).xlats (.relay 0) 0 (some 2) false .atomic [0x42000, 0x43000, 0x40000000] [] with | (_, .error _) => true | _ => false) = true ∧
    treeHdr.length = 256 ∧ (slotAt treeHdr 0).pins + 1 < 2 ^ 24 := by decide +kernel
/-- Each header has its pin, and JOIN counts the traversal in. -/
theorem test_pins : look (exec (.relayCommandTake 0) (tPair 0x44000)) (fun t => ((slotAt (Memory.getN t.mem 0x42000 256) 0).pins,
    (slotAt (Memory.getN t.mem 0x43000 256) 0).pins, Memory.get t.mem 0x44000, (t.tile 0).relay.frontier)) = some (2, 2, 1, [(0, 0)]) := by
  decide +kernel
def trv (ray : Bool) : Trav :=
  { no := 51, rid := 2, super := false, sid := 0, taskNo := tT.me.taskNo, token := 20, ray := ray, rel := false, scope := 0, desc := relayDesc, tile := 0
    pins := [], poolA := 0x100000, poolB := 0x100000, primsA := 0, orderA := 0, made := 3, code := 0, detail := 0, noVerdict := 0, held := [] }
/-- A tile that works on a traversal with one pair to test, or with none. -/
def tZ (l : List (Nat × Nat)) : State := withRelay { tT with travs := [(9, trv false)] } (fun q => { q with trav := some 9, frontier := l })
theorem hyp_RelaySteps_unit : ((tZ [(0, 0)]).tile 0).relay.trav.bind (tZ [(0, 0)]).trav = some (trv false) ∧
    ((tZ [(0, 0)]).tile 0).relay.owed = [] ∧ ((tZ [(0, 0)]).tile 0).relay.ask = none ∧ ((tZ [(0, 0)]).tile 0).relay.cur = none ∧
    ((tZ []).tile 0).relay.done = true ∧ othersDone (tZ []) 0 9 = true ∧
    (match (tZ [(0, 0)]).readVirt (.relay 0) 0 (some 2) false 0x100000 64 with | (_, .ok _) => true | _ => false) = true ∧
    pairOutcome relayDesc (List.replicate 64 0) (List.replicate 64 0) ≠ 3 := by decide +kernel
theorem hyp_RelaySteps_rules : nodeLeaf (putField (List.replicate 64 0) 40 4 0x80000001) = true ∧ nodeLeaf (List.replicate 64 0) = false ∧
    (rayF (List.replicate 64 0) 36).isNan = false := by decide +kernel
/-- A traversal with a pin to leave and a JOIN, on a page or on none. -/
def trEnd (hdr join : Nat) : Trav := { trv false with pins := [(hdr, 1)], desc := putField relayDesc 96 8 join }
def tZE (hdr join : Nat) : State := withRelay { fill tT 0x42000 treeHdr with travs := [(9, trEnd hdr join)] } (fun q => { q with trav := some 9 })
theorem hyp_RelaySteps_unpins :
    (match (tZE 0x42000 0x43000).unpins (trEnd 0x42000 0x43000) [(0x42000, 1)] with | (_, l, none) => l == [] | _ => false) = true ∧
    (match (tZE 0x40000000 0).unpins (trEnd 0x40000000 0) [(0x40000000, 1)] with | (_, l, some _) => l == [(0x40000000, 1)] | _ => false) = true ∧
    (match (tZE 0x42000 0x43000).xlats (.relay 0) 0 (some 2) false .atomic [0x43000] [] with | (_, .ok _) => true | _ => false) = true ∧
    ((tZE 0x42000 0).tile 0).relay.done = true ∧ othersDone (tZE 0x42000 0) 0 9 = true := by decide +kernel
/-- A JOIN counter of 1, whose continuation lies on its page, or goes on past a page that is mapped. -/
def tLast (join : Nat) : State := fill (tZE 0x42000 join) join [1]
theorem hyp_RelaySteps_continuation : ∀ join ∈ [0x43000, 0x3FFFFFE0],
    (match (tLast join).xlats (.relay 0) 0 (some 2) false .atomic [join] [] with
      | (v, .ok m) => v.reachesZero m (join, -1) &&
        (match v.xlats (.relay 0) 0 (some 2) false .read [join + 47] [] with | (_, .ok _) => join == 0x43000 | _ => join == 0x3FFFFFE0)
      | _ => false) = true ∧
    (match (tZE 0x42000 0x43000).xlats (.relay 0) 0 (some 2) false .atomic [0x43000] [] with
      | (v, .ok m) => !v.reachesZero m (0x43000, -1) | _ => false) = true ∧
    (match (tZE 0x42000 0x40000000).xlats (.relay 0) 0 (some 2) false .atomic [0x40000000] [] with | (_, .error _) => true | _ => false) = true := by
  decide +kernel
theorem test_join_parks : look (exec (.traversalEnd 0) (tLast 0x3FFFFFE0)) (fun t => ((t.tile 0).relay.parked, Memory.get t.mem 0x3FFFFFE0)) =
    some (true, 1) := by decide +kernel
/-- The header page of a pin is away: the unit parks, the pin stays. -/
theorem test_traversal_parks : look (exec (.traversalEnd 0) (tZE 0x40000000 0)) (fun t => ((t.tile 0).relay.parked, (t.trav 9).map Trav.pins)) =
    some (true, some [(0x40000000, 1)]) := by decide +kernel
def rayAsked : Ray :=
  { idx := 0, record := List.replicate 64 0, stack := [], spilled := 0, best := none, tcur := 0, pending := [], tris := [], ask := some 4
    asked := some { t := 1, u := 2, v := 3, inst := 0, prim := 0 }, answer := some 1, ended := false, err := false }
def tRay : State := withRelay { tT with travs := [(9, trv true)] } (fun q => { q with trav := some 9, rays := [rayAsked] })
theorem hyp_RelaySteps_ray : (tRay.tile 0).relay.trav.bind tRay.trav = some (trv true) ∧ (trv true).ray = true ∧
    (tRay.tile 0).relay.owed = [] ∧ (tRay.tile 0).relay.rays[0]? = some rayAsked ∧ (tRay.tile 0).relay.parked = false ∧
    relayRuns tRay 2 = true := by decide +kernel
/-- A pair that asks its handler; the traversal of an owed task waits for a verdict given before its strand's commit. -/
def tAsk (held : List (Nat × Nat)) : State := withRelay { tT with travs := [(9, { trv false with held := held })] } (fun q =>
  { q with trav := some 9, ask := some (4, 1, 2), owed := [tT.ready (recordTask 0x30000100 1 2 3 false false false 0) 0] })
theorem hyp_RelaySteps_held : (tAsk []).tiles.find? (fun x => (x.2.relay.ask.map Prod.fst) == some 4 || x.2.relay.rays.any (fun r => r.ask == some 4)) =
      some (0, (tAsk []).tile 0) ∧ ((tAsk []).tile 0).relay.trav = some 9 ∧ ((tAsk []).tile 0).relay.queue.length < 16 ∧
    (tAsk [(0, tT.me.taskNo)]).holds (0, tT.me.taskNo) = true ∧ (tAsk []).holds (0, tT.me.taskNo + 1) = false ∧
    fieldAt (trv false).desc 96 8 = 0 ∧ (tAsk []).tiles.any (fun x => x.2.relay.ask == some (5, 1, 2)) = false := by decide +kernel
theorem test_held : look (exec (.relayQueuePlace 0) (tAsk [(0, tT.me.taskNo)])) (fun t => (t.tile 0).relay.queue.length) = some 0 ∧
    look (exec (.relayQueuePlace 0) (tAsk [])) (fun t => (t.tile 0).relay.queue.length) = some 1 := by decide +kernel
/-- Tile 0 of a region of two tiles has two pairs to test; tile 1 is idle. -/
def tTwo (ray : Bool) : State := ({ tT.onRegion 2 (fun r => { r with tiles := [0, 1] }) with travs := [(9, trv ray)] }).onTile 0 (fun t =>
  { t with relay := { t.relay with trav := some 9, frontier := [(3, 4), (5, 6)], next := 32, limit := 34 } })
theorem hyp_RelaySteps_steal : ((tTwo false).tile 1).relay.trav = none ∧ ((tTwo false).tile 1).relay.cmds = [] ∧
    (tTwo false).enabledTile 1 = true ∧ (tTwo false).regions.findSome? (stealIn (tTwo false) 1) = some (0, 9, (5, 6), false) ∧
    (tTwo true).regions.findSome? (stealIn (tTwo true) 1) = some (0, 9, (33, 0), true) ∧
    tT.regions.findSome? (stealIn tT 1) = none := by decide +kernel
/-- The oldest entry, the last of the frontier, moves to the thief. -/
theorem test_steal : look (exec (.relaySteal 1) (tTwo false)) (fun t => ((t.tile 0).relay.frontier, (t.tile 1).relay.frontier,
    (t.tile 1).relay.trav)) = some ([(3, 4)], [(5, 6)], some 9) := by decide +kernel
/-- A ray of an empty stack ends; one with a candidate before every entry runs it. -/
def rayFree : Ray := { rayAsked with ask := none, asked := none, answer := none }
def hit1 : Hit := { t := 0x3F800000, u := 0, v := 0, inst := 0, prim := 0 }
theorem hyp_RelaySteps_loop : rayFree.prune.ended = false ∧ rayFree.prune.stack = [] ∧ rayFree.prune.spilled = 0 ∧
    ({ rayFree with pending := [hit1] } : Ray).prune.pending = [hit1] ∧ ({ rayFree with pending := [hit1] } : Ray).prune.leastNear = none ∧
    (∃ m, ({ rayFree with pending := [hit1], stack := [(0, 0x40000000)] } : Ray).prune.leastNear = some m ∧ (f32Val hit1.t).less m = true) ∧
    hit1.beats none = true ∧ raySkip (List.replicate 64 0) = false ∧ rayBad (List.replicate 64 0) = true :=
  ⟨rfl, rfl, rfl, by decide +kernel, by decide +kernel, ⟨_, rfl, by decide +kernel⟩, rfl, by decide +kernel, by decide +kernel⟩
/-- At equal t the smaller instance comes first. -/
theorem hyp_RelaySteps_order : insertHit { hit1 with inst := 3 } [hit1, { hit1 with inst := 5 }] = [hit1, { hit1 with inst := 3 }, { hit1 with inst := 5 }] ∧
    ([hit1, { hit1 with inst := 5 }] : List Hit).Pairwise (fun a b => b.before a = false) ∧ (f32Val hit1.t).isNan = false := by decide +kernel
/-- The ray (0, 0, 1) downward of 11 R230's example, in its record. -/
def downRay : List Byte := natBytes 0 8 ++ natBytes 0xBF800000 4 ++ natBytes 0 12 ++ natBytes 0x3F800000 4 ++ natBytes 0x7F800000 4 ++ natBytes 0 32
def boxNode (lo hi c : Nat) : List Byte := (List.replicate 3 (natBytes lo 4)).flatten ++ (List.replicate 3 (natBytes hi 4)).flatten ++
  natBytes 0 16 ++ natBytes c 4 ++ natBytes 2 4 ++ natBytes 0 16
theorem hyp_RelaySteps_boxes :
    axisSpan (f32Val 0) (f32Val 0x3F800000) (f32Val 0xBF800000) (f32Val 0x3F800000) = .span (f32Val 0xBF800000) (f32Val 0x3F800000) ∧
    boxTest downRay (f32Val 0x7F800000) (boxNode 0xBF800000 0x3F800000 1) = .enter (.fin false 0) ∧
    boxTest downRay (f32Val 0x7F800000) (boxNode 0x3F800000 0x40000000 1) = .miss ∧ (rayDir downRay 0).isZero = true ∧
    (∀ k < 3, (rayDir downRay k).isNan = false) ∧
    boxTest downRay (f32Val 0x7F800000) (putField (boxNode 0xBF800000 0x3F800000 1) 8 4 0x7FC00000) = .unstated := by decide +kernel
/-- An inner node with two leaves, the first of them entered; their triangles in the order list. -/
def tNodes : State :=
  fill (fill (fill (fill tRay 0x100000 (boxNode 0xBF800000 0x3F800000 1)) 0x100040 (boxNode 0xBF800000 0x3F800000 0x80000000)) 0x100080
    (boxNode 0x3F800000 0x40000000 0x80000002)) 0x180000 [3, 0, 0, 0, 1, 0, 0, 0]
def trNodes : Trav := { trv true with orderA := 0x180000 }
def rayDown : Ray := { rayAsked with record := downRay, tcur := 0x7F800000, ask := none, asked := none, answer := none }
theorem hyp_RelaySteps_nodes :
    (match tNodes.relayRead 0 trNodes 0x100000 64 with
      | (u, .ok l) => !nodeLeaf l && fieldAt l 40 4 == 1 && (match u.relayRead 0 trNodes 0x100040 64 with
        | (v, .ok n0) => nodeLeaf n0 && (childNear rayDown n0 0).isSome && (match v.relayRead 0 trNodes 0x100080 64 with
          | (_, .ok n1) => nodeLeaf n1 && (childNear rayDown n1 2).isNone | _ => false)
        | _ => false)
      | _ => false) = true ∧
    (match tNodes.relayRead 0 trNodes 0x180000 8 with | (_, .ok _) => true | _ => false) = true ∧
    (match tNodes.relayRead 0 { trNodes with poolA := 0x40000000 } 0x40000000 64 with | (_, .error _) => true | _ => false) = true ∧
    (match tNodes.rayPushes 0 trNodes rayDown [(1, 0)] with | (_, .ok y) => y.stack == [(1, 0)] | _ => false) = true := by decide +kernel
/-- The entered child is on the stack; a leaf's triangles are those of the order list. -/
theorem test_ray_node : (((tNodes.rayNode 0 0 trNodes rayDown 0).tile 0).relay.rays.map (fun y => y.stack.map Prod.fst)) = [[1]] ∧
    (((tNodes.rayNode 0 0 trNodes rayDown 1).tile 0).relay.rays.map Ray.tris) = [[3, 1]] := by decide +kernel
theorem hyp_RelaySteps_spill : ∃ l m, (List.replicate 16 (1, 2) : List (Nat × Nat)) = l ++ [m] ∧ 15 ≤ l.length ∧
    (match tRay.relayStore 0 (trv true) ((numberedFrom (raySpill (putField downRay 56 8 0x43000)) (natBytes 1 4)).map (fun y => (y.1, y.2, false))) with
      | (_, .ok ()) => true | _ => false) = true := ⟨List.replicate 15 (1, 2), (1, 2), rfl, by decide, by decide +kernel⟩
theorem hyp_RelaySteps_ends : ({ rayDown with best := some hit1 } : Ray).best = some hit1 ∧ rayDown.best = none ∧
    (match tRay.writeRay 0 (trv true) 0 28 (List.replicate 28 0) with | (u, .ok ()) => (u.tile 0).relay.trav == some 9 | _ => false) = true ∧
    (match tRay.writeRay 0 { trv true with desc := putField relayDesc 16 8 0x40000000 } 0 28 (List.replicate 28 0) with
      | (_, .error _) => true | _ => false) = true := by decide +kernel
/-- A micromap entry of level 1 whose data byte is 0b11100100: triangle 3 has the state 3. -/
def tOmm : State := fill (fill tRay 0x43000 (words8 [0x44000, 1])) 0x44000 [0xE4]
def trOmm : Trav := { trv true with desc := putField relayDesc 104 8 0x43000 }
theorem hyp_RelaySteps_micromaps : (match tOmm.relayRead 0 trOmm 0x43000 16 with
      | (u, .ok l) => fieldAt l 0 8 == 0x44000 && fieldAt l 8 1 == 1 && (match u.relayRead 0 trOmm 0x44000 1 with | (_, .ok _) => true | _ => false)
      | _ => false) = true ∧
    (match tOmm.relayRead 0 trOmm 0x40000000 16 with | (_, .error _) => true | _ => false) = true ∧ 0 ≤ f32Rat 0x3E800000 := by decide +kernel
theorem test_micromap : (match tOmm.hitState 0 trOmm 0 0x3E800000 0x3F000000 with | (_, .ok x) => some x | _ => none) = some (3, false) := by
  decide +kernel
theorem hyp_RelaySteps_reads : (match tRay.relayRead 0 (trv true) 0x100000 64 with | (_, .ok _) => true | _ => false) = true ∧
    (match tRay.relayRead 0 (trv true) 0x40000000 64 with | (_, .error _) => true | _ => false) = true := by decide +kernel
/-- A verdict of 1 takes the hit that was asked about. -/
theorem test_verdict : look (exec (.rayStep 0 0) tRay) (fun t => ((t.tile 0).relay.rays[0]?).map (fun x => (x.best, x.ask))) =
    some (some (rayAsked.asked, none)) := by decide +kernel
/-- The tasks made stand in the high half of the status. -/
theorem test_traversal_end : look (exec (.traversalEnd 0) (tZ [])) (fun t => (t.me.rd 20, t.travs)) = some (0x300000000, []) := by decide +kernel
/-- A box that touches another in a point overlaps it; a self pair gives four. -/
theorem test_pair_rules : refinePair true 8 (5, 5) (List.replicate 64 0) (List.replicate 64 0) = some [(0, 0), (0, 0), (0, 0), (0, 0)] ∧
    pairOutcome relayDesc (List.replicate 64 0) (List.replicate 64 0) = 2 := by decide +kernel

/-! ### Streams -/

/-- k1 and k2 hold a stream of class 0 and one of class 1 of lap 0; k3 is empty; s11 is a control word of class 8 and lap 0. -/
def tK : State := (regs tR [(11, 8), (12, 100), (13, 0xFFFFFFF000000000), (14, 0x80), (15, 0x100)]).onMe (fun t =>
  (t.wrK 1 (some { lap := 0, bits := 5, mask := 1, phase := 0, mix := false }) false).wrK 2
    (some { lap := 0, bits := 6, mask := 2, phase := 0, mix := false }) false)
theorem hyp_Streams : tK.clean [11] = true ∧ ctlWord (tK.me.rd 11) = some (8, 0, false, 0) ∧ ctlWord (tK.me.rd 14) = none ∧
    tK.actsV .none 0 [12, 11] [] [4] = true ∧ tK.actsV .none 0 [11] [] [4, 1] = true ∧ tK.me.rdK 3 = none ∧
    tK.acts .none 0 [10, 11, 12] = true ∧ tK.actsV .none 0 [] [] [4, 1, 2, 3] = true ∧ tK.actsV .none 0 [12] [] [1] = true ∧
    tK.actsV .none 0 [10, 12] [] [1] = true ∧ tK.actsV .none 0 [13] [] [1] = true ∧ tK.clean [13] = true := by decide +kernel
theorem hyp_Streams_tags : ∃ x y, tK.me.rdK 1 = some x ∧ tK.me.rdK 2 = some y ∧ x.lap = y.lap ∧ x.mask &&& y.mask = 0 ∧
    x.bits &&& lapMask x.lap = x.bits ∧ ({ y with mask := 3 } : Stream).mask &&& x.mask ≠ 0 ∧ ({ y with lap := 1 } : Stream).lap ≠ x.lap :=
  ⟨_, _, rfl, rfl, rfl, rfl, by decide +kernel, by decide, by decide⟩
theorem hyp_Streams_images : ¬ ((tK.me.rd 13).toNat < spadBase ∨ spadBase + 2 ^ 20 ≤ (tK.me.rd 13).toNat) ∧ (tK.me.rd 13).toNat % 64 = 0 ∧
    (tK.me.rd 12).toNat < spadBase ∧ tK.hasRoom = true ∧
    (match tK.reading (tK.me.rd 13) (List.range 64) .plain with | .ok _ => true | .error _ => false) = true ∧
    (match tK.storing (tK.me.rd 13) ((List.range (streamImage (tK.me.rdK 1)).length).zip
      ((streamImage (tK.me.rdK 1)).map (fun b => (b, tK.me.markK 1)))) none with | .ok _ => true | .error _ => false) = true := by
  decide +kernel
theorem hyp_Streams_full : ∃ u : State,
    u = { tK with tiles := [(0, { tK.tile 0 with spad := [(0, 1), (3, 0x80)] })] } ∧
    (match u.reading (u.me.rd 13) (List.range 64) .plain with
      | .ok (_, h, _) => leNat ((h.take 8).map Prod.fst) == 0x80000001 | .error _ => false) = true ∧
    (match u.reading (u.me.rd 13) (List.range 96) .plain with | .ok _ => true | .error _ => false) = true :=
  ⟨_, rfl, by decide +kernel, by decide +kernel⟩
theorem test_streams :
    look (exec (.sand 0 4 1 2) tK) (fun t => (t.me.rdK 4).map (fun x => (x.bits, x.mask, x.mix))) = some (some (4, 3, true)) ∧
    look (exec (.sand 0 4 1 1) tK) (fun t => (t.me.ecause, t.me.edetail)) = some (0x32, 1) ∧
    look (exec (.snot 0 4 3) tK) (fun t => (t.me.ecause, t.me.edetail)) = some (0x30, 3) ∧
    valS (exec (.scnt 0 10 1) tK) 10 = some 2 := by decide +kernel
/-- 1,000 of 4,096 points in a lap of 256: 63 ones (12 R245). -/
theorem test_sgen : look (exec (.sgen 0 4 10 11) (regs tK [(10, 1000)])) (fun t => (t.me.rdK 4).map (fun x => popFrom x.bits 256)) =
    some (some 63) := by decide +kernel

/-! ### Prefixes, exceptions, supervisor words -/

theorem hyp_Prefixes : bitOf tR.me.pfxr 60 = false ∧ bitOf tR.me.pfxr 61 = false ∧ bitOf tR.me.pfxr 62 = false ∧
    bitOf (pfxS tR 0x7000000000000000).me.pfxr 60 = true ∧ bitOf (pfxS tR 0x7000000000000000).me.pfxr 62 = true := by decide
theorem test_prefix : look (exec (.immx 0x18) tR) (fun t => (t.me.pfxr, t.me.sts, t.me.groupPc, t.me.pc)) =
      some (0x2000000006000000, 2, 0x30000000, 0x30000004) ∧
    look (exec (.immx 0x18) (pfxS tR 0x2000000000000000)) (·.me.ecause) = some 1 := ⟨rfl, rfl⟩

/-- The default block has a handler for system calls. -/
def tW : State := tR.onRegion 1 (fun r => { r with fhandler := 0x30002000 })
theorem hyp_TrapEntry : ∃ r, tR.region (tR.strand 0).rid = some r ∧ tR.me.super = false ∧ tR.me.dual = none ∧ r.fhandler ≠ 0 ∧
    tR.acts .none 0 [] = true ∧ (superS tR).me.super = true ∧ (superS tR).me.trapped = false ∧ (trappedS tR).me.super = true ∧
    (trappedS tR).me.trapped = true ∧ tR.runtime = 0 ∧ tW.runtime ≠ 0 :=
  ⟨_, rfl, rfl, rfl, by decide, rfl, rfl, rfl, rfl, rfl, rfl, by decide⟩
theorem hyp_TrapEntry_dual : (tW.onMe (fun t => { t with dual := some 0 })).me.dual.isSome = true ∧
    (tW.onMe (fun t => { t with dual := some 0 })).runtime ≠ 0 := by decide
theorem hyp_TrapEntry_noHandler : ∃ r, (tR.onRegion 2 (fun r => { r with fhandler := 0 })).region 2 = some r ∧ r.fhandler = 0 := ⟨_, rfl, rfl⟩
theorem test_trap : look (exec (.trap 7) tR) (fun t => (t.me.epc, t.me.ecause, t.me.edetail, t.me.svsts, t.me.pc)) =
      some (0x30000000, 3, 7, 0x801, 0x30001000) ∧
    look (exec .rfe (trappedS (tR.onMe (fun t => { t with epc := 0x30000010 })))) (fun t => (t.me.pc, t.me.svsts)) =
      some (0x30000010, 0) ∧
    look (exec (.reservedEncoding 0) tR) (·.me.ecause) = some 1 ∧
    look (exec (.syscall 7) tW) (fun t => (t.me.pc, t.me.ecause, bitOf t.me.ests 0)) = some (0x30002000, 4, true) ∧
    look (exec (.syscall 7) tR) (·.me.ecause) = some 1 :=
  ⟨rfl, rfl, rfl, rfl, rfl⟩

def tU : State := superS tT
theorem hyp_SystemWords : tU.me.super = true ∧ tU.homeBusy tU.cur = false ∧ tU.acts .none 0 [10, 11] = true ∧ tU.clean [10, 11] = true ∧
    tU.putsOut tU.cur = false ∧ tU.me.dual = none ∧ fld (tU.me.rd 11) 8 56 = 0 ∧ fld (tU.me.rd 10) 8 56 ≠ 0 ∧
    (tU.irrevAct 0).slotsFree [(0, 0)] = true := by decide
/-- A parked copy, the parked unit of a traversal, a record that waits for a page. -/
def tPark : State := ((withCopy tT { c0 with parked := true }).onTile 0 (fun t => { t with relay := { t.relay with cmds := [rcmd false 0x41000], parked := true } })).onRegion
  2 (fun r => { r with requeue := [{ tT.ready (recordTask 0x30000100 1 2 3 false false false 0) 0 with page := true }] })
theorem hyp_SystemWords_replays : (tPark.tile 0).relay.trav = none ∧ ((tPark.tile 0).relay.cmds.head?).map RelayCmd.rid = some 2 ∧ (tPark.region 2).isSome = true ∧
    (let u := tPark.replayRegion 2
     ((u.tile 0).copies.map CopyCmd.parked, (u.tile 0).relay.parked, (u.region 2).map (fun r => r.requeue.map Ready.page))) =
      ([false], false, some [false]) := by decide +kernel
theorem test_opmark_waits : look (exec (.opmark 12 0) (superS tOut)) (·.me.wait) = some .stalled ∧ fld (tOut.me.rd 12) 8 56 = 0 ∧
    (superS tOut).homeBusy 0 = false := by decide +kernel
theorem hyp_SystemWords_waits : 0 < ((superS tL).storesOut (superS tL).cur) ∧ (superS tL).me.super = true ∧ tU.storesOut tU.cur = 0 ∧
    usesPage (irrevS tL) 0 (pageNamed 0 0 0) = true ∧ usesPage tU 0 (pageNamed 0 0 0) = false ∧
    ((tU.dropTlbs 0 (pageNamed 0 0 0)).dropStores 0 (pageNamed 0 0 0)).me.taskNo = tU.me.taskNo ∧
    (tL.onMe (fun t => { t with sts := 0 }) |>.dropStores 0 (pageNamed 0 0 0)).me.taskNo ≠ tL.me.taskNo := by decide +kernel
def tLease : State := { tU with config := { tU.config with sprintMax := 100, sprintSlots := 8 } }
theorem hyp_SystemWords_lease : ∃ r, (tU.onRegion 2 (fun r => { r with dual := true })).region 2 = some r ∧ r.dual = true ∧
    0 < min (7 : Nat) tLease.config.sprintMax ∧ tLease.slotsFree (coresByDie [0]) = true ∧ tLease.slotsFree [(0, 2000)] = false :=
  ⟨_, rfl, rfl, by decide, by decide +kernel, by decide +kernel⟩
theorem hyp_SystemWords_places : ∃ r, (tU.irrevAct tU.cur).region (tU.irrevAct tU.cur).me.rid = some r ∧ r.leaseActive = false ∧
    (tU.regionOfBlock 0 0x20000100).map (·.1) = some 2 ∧ tU.descends 2 2 = true ∧ tU.regionOfBlock 0 0x40 = none :=
  ⟨_, rfl, rfl, rfl, rfl, rfl⟩
def tPage : State := tT.onMe (fun t => { t with buf := [unit0] })
theorem hyp_SystemWords_named : (tPage.strand 0).task.isSome = true ∧ (tPage.strand 0).restartable = true ∧
    tPage.pidOfRegion (tPage.strand 0).rid = 0 ∧ pageNamed 1 0x40000 0 (unit0.va / 2 ^ unit0.size * 2 ^ unit0.size) unit0.size = true ∧
    (tPage.strands.map Prod.fst).Pairwise (· < ·) ∧ (tPage.strands.map Prod.fst).all (fun i => i == 0 || (tPage.strand i).buf.isEmpty) = true ∧
    (tT.strand 0).buf = [] ∧ (tT.strand 0).dual = none ∧ (tT.strand 0).wait = .no := by decide +kernel
theorem test_store_dropped : ((tPage.dropStores 0 (pageNamed 0 0 0)).strand 0).task = none ∧
    ((tPage.dropStores 0 (pageNamed 1 0 0)).strand 0).buf.length = if pageNamed 1 0 0 (unit0.va / 2 ^ unit0.size * 2 ^ unit0.size) unit0.size then 0 else 1 := by
  decide +kernel
theorem hyp_SystemWords_slots : ∃ r, tT.region 2 = some r ∧ (([(0, 4)] : List (Nat × Nat)).map Prod.fst).Nodup ∧
    (r.leaseSlots.map Prod.fst).Nodup ∧ coresByDie [0, 1] = [(0, 8)] ∧ (0, 4) ∈ [((0 : Nat), (4 : Nat))] := ⟨_, rfl, by decide, by decide, by decide, by decide⟩
theorem hyp_PrivilegedWrites : tU.me.super = true ∧ tU.acts .none 0 [10] = true ∧ tU.clean [10] = true ∧ tU.me.dual = none ∧
    fld (0x40000 : Word) 0 18 = 0 ∧ fld (0x40000 : Word) 48 16 = 0 ∧ fld (0x40005 : Word) 0 5 = 5 ∧ tU.me.task.isSome = true ∧
    (trappedS tT).me.trapped = true ∧ tU.me.trapped = false ∧ bitOf (1 <<< 63 : Word) 63 = true ∧ fld (1 <<< 63 : Word) 48 15 = 0 := by decide
theorem hyp_PrivilegedWrites_selector : (Instr.swr 0 10 0x409).wf = true ∧ (0x409 : BitVec 11) ∉ [0x400, 0x405, 0x406, 0x431] := by decide
/-- A task that took an entry from its deque, and one that made a barrier which another strand of the region waits for. -/
def tTook : State := (withDq tT [ent 2 5 9]).onMe (fun t => { t with undo := [.take 0 (ent 2 0 5)] })
def tMade : State := ((withBar tT (bar 3 1 false)).setStrand 1 { Strand.fresh with wait := .barrier 2 (handleOf 1 0 0) 6 }).onMe (fun t =>
  { t with undo := [.barrier (handleOf 1 0 0)] })
theorem hyp_PrivilegedWrites_undo : tTook.me.undo = [ent 2 0 5].map (Undo.take 0) ∧ tMade.me.undo = [.barrier (handleOf 1 0 0)] ∧
    (∃ b, tMade.barrierOf (tMade.strand 0).rid (handleOf 1 0 0) = some (0, 0, b)) ∧ ((tMade.die 0).barriers.map Prod.fst).Pairwise (· < ·) ∧
    (tMade.strand 1).wait = .barrier 2 (handleOf 1 0 0) 6 ∧ (tMade.strands.map Prod.fst).Pairwise (· < ·) ∧ tTook.me.dual = none :=
  ⟨rfl, rfl, ⟨_, rfl⟩, by decide +kernel, by decide +kernel, by decide +kernel, rfl⟩
/-- A dual pair of strands 0 and 2. -/
def pair5 : DualRun := { label := 5, rid := 2, ready := tT.ready (recordTask 0x30000100 1 2 3 false false false 0) 0, tiles := [0], cores := [0]
                         running := [0, 2], done := [] }
def tDual : State := (({ tT with duals := [(5, pair5)] } : State).setStrand 2 { tT.me with dual := some 5 }).onMe (fun t => { t with dual := some 5 })
theorem hyp_PrivilegedWrites_pair : (tDual.strand 0).dual = some 5 ∧ tDual.runsOf 5 = [0, 2] ∧ lookupKey tDual.duals 5 = some pair5 := by decide +kernel
theorem test_abort_pair : ((tDual.abort 0 none false).strand 2).task = none ∧
    ((tDual.abort 0 none false).region 2).map (fun r => r.requeue.length) = some 1 ∧ (tDual.abort 0 none false).duals = [] := by decide +kernel
theorem test_abort : ((tTook.abort 0 none false).tile 0).deque = [ent 2 0 5, ent 2 5 9] ∧ (tTook.abort 0 none false).me.task = none ∧
    ((tTook.abort 0 none false).region 2).map (fun r => r.requeue.length) = some 1 ∧
    ((tMade.discard 0).strand 1).wait = .no := by decide +kernel
theorem hyp_PrivilegedWrites_places : ∃ p r, (tU.irrevAct 0).partition 0 = some p ∧ tU.region 2 = some r ∧ r.state = .running ∧
    r.state ≠ .killed ∧ r.state ≠ .ended := ⟨_, _, rfl, rfl, rfl, by decide, by decide⟩
theorem hyp_PrivilegedWrites_found : ∃ r d, (tU.irrevAct 0).regionOfBlock 0 0x20000100 = some (2, r) ∧ (tU.irrevAct 0).descends 2 2 = true ∧
    (tU.partition 0).map (·.root) = some 1 ∧ tU.region 1 = some d ∧ d.parent = none ∧ tU.descends 1 2 = false ∧
    tU.regionOfBlock 0 0x40 = none ∧ r.resuming = false := ⟨_, _, rfl, rfl, rfl, rfl, rfl, rfl, rfl, rfl⟩
theorem hyp_PrivilegedWrites_fields : (valsOf (List.replicate 256 0)).ok = false ∧
    (valsOf (putField (putField (putField (putField (putField (List.replicate 256 0) 12 1 255) 13 1 23) 14 1 26) 15 1 8) 56 2 26)).ok = true := by
  decide +kernel
theorem hyp_PrivilegedWrites_sync :
    (match (tU.irrevAct 0).readVirt .hw 0 (some 2) true 0x20000100 256 with | (_, .ok _) => true | _ => false) = true := by decide +kernel
theorem test_swr : look (exec (.swr 0 10 0x400) tU) (·.me.epc) = some 0x40000 ∧
    look (exec (.stackbase 0 10) tU) (·.me.stackbase) = some 0x40000 ∧
    look (exec (.stackbase 0 11) tU) (fun t => (t.region 2).map (·.state)) = some (some .killed) := by decide +kernel
theorem hyp_Checks : (pfxS tR 0x7000000000000000).me.pfxr ≠ 0 ∧ tR.me.pfxr = 0 ∧ tR.me.super = false ∧ tR.me.markP (guardReg 1) = false ∧
    tR.me.guardOn 1 = false ∧ (tR.onMe (fun t => t.wrP 1 0 true)).me.markP (guardReg 1) = true := by decide
theorem hyp_Checks_all : (Instr.add 0 10 11 12).wf = true ∧ (encode (.add 0 10 11 12)).isSome = true ∧ tR.copywOut tR.cur = false ∧
    bitOf (pfxS tR 0x7000000000000000).me.pfxr 60 = true ∧ (governs (.add 0 10 11 12)).fmt = false ∧
    bitOf (pfxS tR 0x2000000000000000).me.pfxr 61 = true ∧ (governs (.fadd 0 10 11 12 0)).immx = false ∧
    bitOf (pfxS tR 0x4000000000000000).me.pfxr 62 = true ∧ fld (pfxS tR 0x4000000000000000).me.pfxr 44 4 ∉ (governs (.ldD 0 10 11 0)).hints ∧
    ofSupervisor .rfe = true ∧ byByte (.vaddInt 1 1 2 3 0) = true ∧ tR.me.guardBytes 1 = 0 ∧ tR.me.pendS = 0 ∧ tR.me.pendV = 0 := by decide +kernel

/-- s10 marked; p2 marked; 32 loads out; 16 copies out; a dual run. -/
def tMarked : State := tR.onMe (fun t => { t with sMark := 0x400, pMark := 4 })
def tLoads : State := tR.onMe (fun t => { t with loads := List.replicate 32 { writes := [] } })
def tBusy : State := tT.onTile 0 (fun t => { t with copies := List.replicate 16 c0 })
/-- An instruction without a prefix passes the checks when its other conditions hold. -/
theorem passes_plain {s : State} {i : Instr} (h0 : s.me.pfxr = 0) (h1 : s.me.super = true ∨ ofSupervisor i = false)
    (h2 : s.me.markP (guardReg i.guard) = false)
    (h3 : if byByte i then s.me.guardBytes i.guard ≠ 0 else s.me.guardOn i.guard = true)
    (h4 : s.me.pendS = 0 ∧ s.me.pendV = 0 ∧ s.me.pendK = 0 ∧ s.copywOut s.cur = false) : passes s i :=
  ⟨by simp [h0, Pfx.allows, bitOf], by simp [h0, bitOf], h1, h2, h3, h4⟩
theorem hyp_Checks_passes : passes tMarked (.ldD 0 11 10 0) ∧ passes tMarked (.sel 0 11 12 11 2) ∧ passes tLoads (.ldD 0 11 10 0) ∧
    passes tBusy (.copy 0 0 0 20 10 11 0) ∧ passes tDual (.launch 0 20 10) ∧ passes tDual (.bfree 0 23) := by
  refine ⟨?_, ?_, ?_, ?_, ?_, ?_⟩ <;> exact passes_plain (by decide) (by decide) (by decide) (by decide) (by decide +kernel)
/-- A rounding mode under which `xrnd` passes, a load under `immx` and a hint. -/
theorem hyp_Checks_prefixes : (governs (.xrnd 0 12 10 11 0 0)).allows 0x1000000000300000 = true ∧ rmOnly 0x1000000000300000 = true ∧
    (governs (.ldD 0 11 10 0)).allows 0x6000100000400000 = true := by decide
theorem hyp_Checks_consumes : (consumes (.ldD 0 11 10 0)).find? tMarked.me.markS = some 10 ∧
    notInDual (.ldD 0 11 10 0) = false ∧ (selectors (.sel 0 11 12 11 2)).find? tMarked.me.markP = some 2 ∧
    malformed (tT.me.rd 16) = false ∧ (encode (.sel 0 11 12 11 2)).isSome = true := by decide +kernel
theorem hyp_Checks_counters : tLoads.clean (consumes (.ldD 0 11 10 0)) = true ∧ accesses (.ldD 0 11 10 0) = true ∧
    tLoads.hasRoom = false ∧ commands (.copy 0 0 0 20 10 11 0) = true ∧ 16 ≤ tBusy.enginesOut tBusy.cur ∧
    tK.me.rd 13 = 0xFFFFFFF000000000 ∧ tV.me.markV 1 = 0 ∧ (encode (.copy 0 0 0 20 10 11 0)).isSome = true := by decide +kernel
theorem hyp_Checks_dual : actsAtIssue (.launch 0 20 10) = true ∧ notInDual (.bfree 0 23) = true ∧
    tDual.me.dual.isSome = true ∧ tDual.enginesOut 0 = 0 ∧ tDual.loadsOut 0 + tDual.storesOut 0 + tDual.copiesOut 0 + tDual.matrixOut 0 = 0 ∧
    tDual.writesOut 0 = false ∧ (tDual.tile 0).copies.length < 64 ∧ (encode (.launch 0 20 10)).isSome = true := by decide +kernel
theorem hyp_Checks_overflow :
    (match (tDual.onMe (fun t => { t with buf := fullBuf })).xlatMine .write [0x40000] with
      | (u, .ok x) => u.me.dual.isSome && !u.me.super && !u.me.irrev && (woRefused u u.me.rid 0 [0x40000]).isNone &&
        decide (512 < (heldUnits (mergeUnits u.me.closed (u.storeUnits 0x40000 [(0, 7, false)] x none 1) u.me.buf)).length)
      | _ => false) = true := by decide +kernel

/-! ### The scheduler and regions -/

/-- Strand 1 of the same tile is idle; lane 0 of region 2 holds a record. -/
def work : Ready := tT.ready (recordTask 0x30000100 1 2 3 false false false 0) 0
def tD : State := tT.onRegion 2 (fun r => { r with lanes := setAt r.lanes 0 { disabled := false, c := 10, o := 0, queue := [work], reserved := 0, chain := [] } })
theorem hyp_SchedulerSteps_start : (recordTask 0x30000100 1 2 3 false false false 0).regs.length = 9 := by decide
theorem hyp_SchedulerSteps_dispatch : (tD.strand 1).task = none ∧ tD.enabledTile 0 = true ∧ (tD.tile 0).idle = 0 ∧ tD.savedFor 0 = none ∧
    (chooseWork tD 1).2.map (fun c => (c.rid, c.w)) = some (2, work) ∧ (chooseWork tT 1).2 = none ∧
    (tD.region 2).map (·.dual) = some false ∧ (tT.strand 0).task ≠ none := by decide +kernel
/-- Lane 0 holds two records of one level; a relay task of that level stands beside them. -/
def cand (src : Src) (level t0 : Nat) : Cand := { rid := 2, src := src, level := level, w := { work with t0 := t0, level := level } }
def reg2 : Region := (tD.region 2).getD (defaultBlock 0 0 0 0 0 0 [] 1)
theorem hyp_SchedulerSteps_kinds :
    choiceIn reg2 [cand (.lane 0 0) 5 1, cand (.lane 0 1) 5 9] = some (cand (.lane 0 0) 5 1) ∧
    choiceIn reg2 [cand (.lane 0 1) 5 1, cand (.relay 0) 5 9] = some (cand (.relay 0) 5 9) ∧
    agedChoice [cand (.mail 0) 2 8, cand (.mail 1) 3 4] = some (cand (.mail 1) 3 4) ∧
    drainRule reg2 [cand (.lane 0 1) 5 9] = some (cand (.lane 0 1) 5 9) := by decide +kernel
/-- The dispenser gives strand 1 the one record, whose level no other ready work exceeds; work below level 7 has aged to it. -/
theorem hyp_SchedulerSteps_choice : (tD.regions.map Prod.fst).Pairwise (· < ·) ∧ (chooseWork tD 1).2.isSome = true ∧
    (tD.regions.flatMap (fun x => if x.2.serves 0 then candidates tD 1 x.1 x.2 else [])).length = 1 ∧
    (cand (.mail 0) 7 0).level = 7 ∧ ({ work with level := 2 } : Ready).level < 7 := by decide +kernel
theorem hyp_SchedulerSteps_aging : work.t0 ≤ 5 ∧ work.level ≤ 7 ∧ work.t0 + 7 * 2 ^ 20 ≤ 2 ^ 23 := by decide
theorem hyp_SchedulerSteps_credit : (chooseRegion tT 0 0 [2]).2 = some 2 ∧ tT.credit 0 2 0 = 0 ∧ ([2] : List Nat).Nodup ∧
    (tT.die 0).credits = [] := by decide +kernel
theorem hyp_SchedulerSteps_saved :
    (tT.onRegion 2 (fun r => { r with strandsSaved := [(1, Strand.fresh)] })).savedFor 0 = some (2, 1, Strand.fresh) := by decide +kernel
theorem hyp_SchedulerSteps_pauses : (tT.onMe (fun t => { t with wait := .paused 65 })).me.wait = .paused 65 ∧ ¬ (65 ≤ 64) ∧
    (∀ n, tT.me.wait ≠ .paused n) ∧ ¬ ((tT.strand 0).task = none) := by
  refine ⟨by decide, by decide, fun n => ?_, by decide⟩
  show Wait.no ≠ Wait.paused n
  exact fun h => nomatch h
theorem hyp_SchedulerSteps_counts : (tT.onMe (fun t => { t with counts := List.replicate 12 17 })).me.counts.sum = 204 ∧
    (tT.onMe (fun t => { t with counts := List.replicate 12 17 })).me.counts[0]? = some 17 ∧ tT.quotaEnd ≤ 2 ^ 20 := by decide
theorem hyp_SchedulerSteps_resume : ∃ r, (tT.onRegion 2 (fun r => { r with state := .preempted, resuming := true })).region 2 = some r ∧
    r.state = .preempted ∧ r.resuming = true ∧ r.saveParked = false ∧ r.tiles.length = 1 ∧ tT.relaysFree r [0] = true :=
  ⟨_, rfl, rfl, rfl, rfl, rfl, by decide +kernel⟩
theorem hyp_SchedulerSteps_preempting : ∃ r, (tT.onRegion 2 (fun r => { r with state := .preempting })).region 2 = some r ∧
    r.state = .preempting ∧ r.preemptAt + 2 ^ r.drainlim ≤ 2 ^ 32 := ⟨_, rfl, rfl, by decide⟩
theorem hyp_SchedulerSteps_timed : (tT.strand 0).wait ≠ .paused 0 ∧
    (tT.onMe (fun t => { t with wait := .paused 0 })).me.wait = .paused 0 ∧ tT.quotaEnd ≤ 2 ^ 20 ∧
    2 ^ 26 < (tT.onMe (fun t => { t with cycles := 2 ^ 26 + 1 })).me.cycles ∧ (tT.region 2).map (·.runlim) = some 26 := by decide
theorem hyp_SchedulerSteps_moves : ∃ k r, tT.me.task = some k ∧ tT.region 2 = some r ∧ k.islocal = false ∧ k.nomig = false ∧ k.kind = 0 ∧
    r.rhome = 255 ∧ ({ r with rhome := 1 } : Region).rhome ≠ 255 := ⟨_, _, rfl, rfl, rfl, rfl, rfl, rfl, by decide⟩
theorem hyp_SchedulerSteps_regions : ∃ r, tT.region 2 = some r ∧ r.state = .running ∧ tT.placement 2 r [0] = some [(0, 0)] ∧
    r.leaseActive = false ∧ quiescent tT 2 r = false := ⟨_, rfl, rfl, by decide +kernel, rfl, by decide +kernel⟩
theorem hyp_SchedulerSteps_end : (match (tT.setStrand 0 Strand.fresh).region 2 with
    | some r => quiescent (tT.setStrand 0 Strand.fresh) 2 r | none => false) = true := by decide +kernel
theorem hyp_SchedulerSteps_reads : ({ tT with agenda := [.readAhead 0 0x40000 false] } : State).agenda = .readAhead 0 0x40000 false :: [] ∧
    ({ tT with agenda := [.buildAhead 0 0 0x40000] } : State).agenda = .buildAhead 0 0 0x40000 :: [] ∧
    ({ tT with agenda := [.spadStore 0 0] } : State).agenda = .spadStore 0 0 :: [] := ⟨rfl, rfl, rfl⟩
theorem hyp_SchedulerSteps_agenda : isStep (.storeDrain 0) = true ∧ (Instr.storeDrain 0).wf = true ∧ isStep (.add 0 1 2 3) = false ∧
    tT.agenda = [] := by decide +kernel
theorem test_dispatch : look (exec (.dispatch 1) tD) (fun t => ((t.strand 1).pc, (t.strand 1).rd 3, (t.strand 1).rd 4, (t.strand 1).rd 5)) =
      some (0x30000100, 1, 3, 2) ∧
    look (exec (.pauseEnd 0) (tT.onMe (fun t => { t with wait := .paused 0 }))) (·.me.wait) = some .no := by decide +kernel
theorem test_watchdog : look (exec (.runWatchdog 0) (tT.onMe (fun t => { t with cycles := 2 ^ 26 + 1 }))) (fun t => (t.me.ecause, t.me.edetail)) =
    some (0x17, 0x4000001) := by decide +kernel

/-! ### Host link, management, power -/

def tH : State := { tT with linkUp := true }
theorem hyp_HostLinkSteps : ∃ p, tH.linkUp = true ∧ tH.partition 0 = some p ∧ p.dies.length = 1 ∧ tT.linkUp = false :=
  ⟨_, rfl, rfl, rfl, rfl⟩
theorem hyp_HostLinkSteps_fields : ∀ p ∈ tH.partition 0, hostBad p 4 8 0x40000 ∧ hostBad p 0 12 0x40000 := by
  intro p hp
  cases hp
  exact ⟨.inl (by decide), .inr (.inr (.inr (.inl (by decide))))⟩
theorem hyp_HostLinkSteps_good : ∀ p ∈ tH.partition 0, ¬ hostBad p 3 8 0x40000 := by
  intro p hp
  cases hp
  rintro (h | h | h | h | h | h) <;> revert h <;> decide
theorem hyp_HostLinkSteps_reach : (match tH.xlat .hw 0 none true .write 0x40000 with | (_, .ok _) => true | _ => false) = true ∧
    (match tH.xlat .hw 0 none true .read 0x40000000 with | (_, .error _) => true | _ => false) = true := by decide +kernel
/-- A launch whose packet stands at 0x40000 and its status word at 0x41000. -/
def note (kind : Nat) : List Byte := words8 [kind, 0x40000, 0x41000, 0, 0, 0]
theorem hyp_HostLinkSteps_launch : notifyOk 0 (note 0) = true ∧ notifyOk 0 (note 1) = false ∧ notifyOk 1 (note 1) = true ∧
    (match tH.hostPacket 0 1 (note 0) with | (_, .ok (some _)) => true | _ => false) = true ∧
    (match tH.hostPacket 0 1 (words8 [0, 0x40001, 0x41000, 0, 0, 0]) with | (_, .ok none) => true | _ => false) = true ∧
    (match tH.hostPacket 0 1 (words8 [0, 0x40000, 0x40000000, 0, 0, 0]) with | (_, .error c) => c == 2 | _ => false) = true ∧
    (tH.launchRegion .hw true 1 (List.replicate 128 0) .no none).2 = .placing 4 ∧
    (tH.launchRegion .hw true 1 (putField (List.replicate 128 0) 60 1 16) .no none).2 = .refused 1 := by decide +kernel
/-- A NOTIFY of queue 0 whose launch is still placed, one of a fabric launch that waits for its start. -/
def tWait : State := tH.onRegion 2 (fun r => { r with origin := .host 0 (some (0, 9)) 0x41000 0 })
theorem hyp_HostLinkSteps_busy : tWait.queueBusy 0 0 = true ∧ tWait.queueBusy 0 1 = false ∧ tH.queueBusy 0 0 = false ∧ tWait.linkUp = true ∧
    (tWait.partition 0).isSome = true := by decide +kernel
/-- A FENCE behind it waits, and is handled when the launch has its status. -/
theorem test_queue : look (exec (.fence 0 0 7) tWait) (fun t => (t.waiting, t.hostOut)) = some ([(0, 0, .fence 7)], []) ∧
    (let t := ({ tWait with waiting := [(0, 0, .fence 7)] } : State).endLaunch (.host 0 (some (0, 9)) 0x41000 0) 0
     (t.waiting, t.agenda.take 1, t.hostOut)) = ([], [.request 0 0 (.fence 7)], [.completion 9 0 [] []]) := by decide +kernel
theorem hyp_HostLinkSteps_list : packageList (words8 [0]) 0 = none ∧
    (match tH.readVirt .hw 0 none true 0 8 with | (_, .ok _) => true | _ => false) = true := by decide +kernel
/-- A page at the top of the window, and a package list in its last 64 bytes: with 7 entries it fits, with 8 it does not. -/
def tTop (n : Nat) : State :=
  let s := tH.onRegion 2 (fun r => r)
  match s.partition 0 with
  | some p => fill (fill (s.setPartition 0 { p with ptroot := p.ptroot + 25 }) (p.ptroot.toNat / 64 * 64 + 8 * (2 ^ 26 - 1)) (natBytes 0x7F 8)) (2 ^ 30 - 64) (natBytes n 8)
  | none => s
theorem hyp_HostLinkSteps_top : ∀ n ∈ [7, 8], notifyOk 1 (words8 [1, 0x40000, 0x41000, 0, 0xFFFFFFFFFFFFC0, 0]) = true ∧
    (match (tTop n).hostPacket 0 1 (words8 [1, 0x40000, 0x41000, 0, 0xFFFFFFFFFFFFC0, 0]) with
      | (u, .ok (some _)) => (match u.readVirt .hw 0 none true 0xFFFFFFFFFFFFC0 8 with
        | (v, .ok l) => fieldAt (l.map Prod.fst) 0 8 == n && (match v.readVirt .hw 0 none true 0xFFFFFFFFFFFFC0 64 with | (_, .ok _) => true | _ => false)
        | _ => false)
      | _ => false) = true ∧ (0xFFFFFFFFFFFFC0 + (8 + 8 * 7) ≤ 2 ^ 56 ∧ 2 ^ 56 < 0xFFFFFFFFFFFFC0 + (8 + 8 * 8)) := by decide +kernel
def fid : LaunchId := { origin := none, gen := 3 }
def fab (place : Nat) (started : Bool) : Fabric :=
  { id := fid, pid := 0, rid := some 2, place := place, packages := [(0, 0), (9, 0)], dies := [(0, [0]), (1, [0])], key := 0
    started := started, status := none, vector := 0, notify := none }
def tFab : State := { tH with fabrics := [fab 0 false] }
theorem hyp_HostLinkSteps_fabric : ∃ r, tFab.fabric fid = some (fab 0 false) ∧ tH.fabric fid = none ∧ (fab 0 false).rid = some 2 ∧
    tFab.region 2 = some r ∧ r.state = .running ∧ r.live = true ∧
    (∀ i, i < (fab 0 false).packages.length → (lookupKey (fab 0 false).dies i).isSome = true) ∧ (fab 1 true).started = true ∧
    (fab 1 true).place ≠ 0 := ⟨_, rfl, rfl, rfl, rfl, rfl, rfl, by decide, rfl, by decide⟩
theorem hyp_HostLinkSteps_notify : ∃ f, ({ tH with fabrics := [{ fab 0 false with status := some 0x41000, notify := some (0, 9) }] } : State).fabric fid =
    some f ∧ f.status = some 0x41000 ∧ f.notify = some (0, 9) := ⟨_, rfl, rfl, rfl⟩
/-- A leaf for the byte 0x5000 of die 0 of a place of the launch's packages. -/
def leafTo (place : Nat) : BitVec 64 := BitVec.ofNat 64 (2 ^ 47 + place * 2 ^ 40) &&& 0xFFFFFFFF0000 ||| 2
def tMem : State := { (tFab.onRegion 2 (fun r => { r with generation := some fid })) with fabrics := [fab 0 true] }
theorem hyp_HostLinkSteps_memory : ∃ p, tMem.partition 0 = some p ∧ isFabric (fld (leafTo 1) 16 32 * 2 ^ 16 + 0 % 2 ^ 16) = true ∧
    bitOf (leafTo 1) 7 = false ∧ (tMem.fabricOf (some 2)).map (·.packages) = some [(0, 0), (9, 0)] ∧ tMem.fabricOf none = none ∧
    (∃ dies, lookupKey (fab 0 true).dies 1 = some dies ∧ homeDie (fld (leafTo 1) 16 32 * 2 ^ 16) ∈ dies) ∧ fld (leafTo 1) 48 9 = 0 ∧
    p.hasKey 400 = false := ⟨_, rfl, by decide +kernel, by decide +kernel, by decide +kernel, rfl, ⟨_, rfl, by decide +kernel⟩, by decide +kernel, by decide +kernel⟩
/-- Place 1 of this launch is package 9, place 2 is none of its packages, place 0 is this package. -/
theorem test_fabric_memory : ∀ p ∈ tMem.partition 0,
    (match leafTarget tMem p (some 2) (leafTo 1) 16 0x10 with | .ok x => x.key == 2 ^ 50 + 9 * 2 ^ 40 + 0x10 | _ => false) = true ∧
    (match leafTarget tMem p (some 2) (leafTo 2) 16 0x10 with | .error e => e == .cls 1 | _ => false) = true ∧
    (match leafTarget tMem p (some 2) (leafTo 0) 16 0x10 with | .ok x => x.key == 0x10 | _ => false) = true := by
  intro p hp
  cases hp
  decide +kernel
theorem hyp_HostLinkSteps_killed : ∃ r, (tFab.onRegion 2 (fun r => { r with generation := some fid })).region 2 = some r ∧ r.live = true ∧
    r.generation = some fid := ⟨_, rfl, rfl, rfl⟩
/-- A partition with port 1, after the boot. -/
def tPort : State := { (tH.setPartition 0 { dies := [0], ports := 2, kbase := 1, kcount := 1, ptroot := 0, prqbase := 0, root := 1
                                            tolerance := none }) with bootStage := 6 }
theorem hyp_HostLinkSteps_ports : ∃ p, tPort.partition 0 = some p ∧ p.ports.getLsbD 1 = true ∧ p.ports.getLsbD 0 = false ∧ p.reaches 0x40000 = true ∧
    p.reaches (3 * 2 ^ 36) = false ∧ tPort.bootStage = 6 ∧ tPort.recovery = false ∧ tH.bootStage < 6 ∧ tH.partition 9 = none ∧
    (match tPort.launchRegion .hw true p.root (ownPacket (List.replicate 128 0) 1 2 3) (.fabric ⟨some 7, 3⟩) (some ⟨some 7, 3⟩) with
      | (_, .placing _) => true | _ => false) = true := ⟨_, rfl, rfl, rfl, by decide, by decide, rfl, rfl, by decide, rfl, by decide +kernel⟩
theorem hyp_HostLinkSteps_second : ∃ p, tPort.partition 0 = some p ∧ p.reaches 0x40000 = true ∧
    p.reaches ((FabricOp.home (.xmerge (3 * 2 ^ 36) none) 0 false).last 0x40000) = false ∧ p.reaches (0x40000 + (8 - 1)) = true :=
  ⟨_, rfl, by decide, by decide, by decide⟩
/-- A FENCE with a LENGTH is answered with status 1; another package's store under a port that the partition does not have is dropped. -/
theorem test_headers : (tH.request 0 0 (.header 2 8 9 0)).hostOut = [.completion 9 1 [] []] ∧
    (tPort.fabricRequest 0 0 0x40000 (.write [7])).portDropped = 1 ∧
    (match (tPort.fabricRequest 0 1 0x40000 (.write [7])).hostOut with | [.fabricReply [] []] => true | _ => false) = true := by decide +kernel
theorem test_mwr : look (exec (.mwr 0 0 9 0x40000 [1, 2, 3, 4, 5, 6, 7, 8]) tH) (fun t => (Memory.getN t.mem 0x40006 2, t.hostOut)) =
      some ([7, 8], [.completion 9 0 [] []]) ∧
    look (exec (.mrd 0 4 8 9 0x40000) tH) (·.hostOut) = some [.completion 9 1 [] []] ∧
    look (exec (.mrd 0 0 8 9 0x40000000) tH) (·.hostOut) = some [.completion 9 2 [] []] := by decide +kernel

def partCfg : PartCfg := { pid := 0, dies := [0], ports := 0, kbase := 1, kcount := 4, block := 0x1000 }
theorem hyp_ManagementSteps : ∃ p r, tT.partition 0 = some p ∧ tT.partition 5 = none ∧ p.kbase = 1 ∧ p.kcount = 1 ∧ tT.region p.root = some r ∧
    (List.replicate 32 (0 : Byte)).length = 32 ∧ rcbFits .debug 1 = true ∧ rcbFits .debug 2 = false ∧ (r.vals.put .debug 1).ok = true ∧
    partsOk 0 [partCfg] = true ∧ partsOk 0 [{ partCfg with ports := 1 }] = false :=
  ⟨_, _, rfl, rfl, rfl, rfl, rfl, by decide, by decide, by decide, by decide +kernel, by decide +kernel, by decide +kernel⟩
/-- A partition of two key slots. -/
def twoKeys : Partition := { dies := [0], ports := 0, kbase := 1, kcount := 2, ptroot := 0, prqbase := 0, root := 1, tolerance := none }
theorem hyp_ManagementSteps_keys : (tT.setPartition 0 twoKeys).partition 0 = some twoKeys ∧ twoKeys.kbase ≤ 2 ∧
    2 < twoKeys.kbase + twoKeys.kcount ∧ 2 ≠ twoKeys.kbase := by decide
theorem test_keygen : look (exec (.keygen 0 2) tT) (·.hostOut) = some [.managed false] ∧
    look (exec (.keygen 0 1) tT) (·.hostOut) = some [.managed true] := by decide +kernel

theorem fold_zero (l : List (Nat × Nat)) (h : ∀ x ∈ l, x.2 = 0) : l.foldl (fun n x => n + x.2) 0 = 0 := by
  induction l with
  | nil => rfl
  | cons y r ih =>
    rw [List.foldl_cons, h y (.head r)]
    exact ih fun x hx => h x (.tail y hx)
/-- Shares of nothing fit every die. -/
theorem shares_of (s : State) (l : List Nat) (d : Nat) : shareOk s (l.zip (List.replicate l.length 0)) d = true := by
  have zero := fold_zero ((l.zip (List.replicate l.length 0)).filter (fun x => dieOfTile x.1 == d)) fun x hx =>
    List.eq_of_mem_replicate (List.of_mem_zip (a := x.1) (b := x.2) (List.mem_filter.1 hx).1).2
  simp [shareOk, zero]
theorem hyp_PowerSteps : ∃ shares : List Nat, shares.length = tT.enabledTiles.length ∧
    ∀ d, d < 12 → shareOk tT (tT.enabledTiles.zip shares) d = true :=
  ⟨_, List.length_replicate, fun d _ => shares_of tT tT.enabledTiles d⟩
theorem hyp_PowerSteps_points : 400 ≤ 1800 ∧ 1800 ≤ tT.config.coreLimit ∧ 1800 % 25 = 0 ∧ tT.enabledTile 0 = true ∧
    tT.sprinting 0 = false := by decide +kernel
/-- A region's measured points, and the phase that enters the best of them. -/
def tPts : State := tT.onRegion 2 (fun r => { r with points := [(1200, 0, 9), (1000, -20, 4), (1100, 5, 4)] })
theorem hyp_PowerSteps_measured_points : ∃ r, tPts.region 2 = some r ∧ r.points ≠ [] ∧ (∃ e, ((1200 : Nat), (0 : Int), e) ∈ r.points) ∧
    (∀ e, ((1300 : Nat), (0 : Int), e) ∉ r.points) ∧ tT.region 2 ≠ none :=
  ⟨_, rfl, by decide, ⟨9, by decide⟩, by simp, by decide⟩
theorem test_phase_end : (tPts.phaseEnd 2).ops.map (fun o => (o.freq, o.offset, o.energy)) = [(1000, -20, 4)] ∧
    ((tPts.phaseEnd 2).region 2).map Region.points = some [] := by decide +kernel
/-- 2,100 MHz is not for a core without a lease. -/
theorem test_points : ((tT.setPoint 0 1200 400).core 0).freq = 1200 ∧ ((tT.setPoint 0 1200 400).core 0).volt = 400 ∧
    ((tT.setPoint 0 2100 400).core 0).freq = (tT.core 0).freq := by decide +kernel
theorem hyp_PowerSteps_idle : tileIsIdle tT 0 = false ∧ tileIsIdle (tT.setStrand 0 Strand.fresh) 0 = true ∧ workReady tT 0 = false ∧
    workReady tD 0 = true := by decide +kernel
/-- One tile of the die is enabled: its idle state takes the die to K4, but not under a tolerance of 1 ms. -/
def tSleep (tol : Option Nat) : State :=
  { (tT.setStrand 0 Strand.fresh).onRegion 2 (fun r => { r with tolerance := tol }) with disabled := (tilesOfDie 0).filter (· != 0) }
theorem test_idle : look (exec (.tileIdle 0) (tSleep none)) (fun t => ((t.die 0).idle, (t.tile 0).idle)) = some (4, 3) ∧
    look (exec (.tileIdle 0) ((tSleep (some 1000000)).onDie 0 (fun d => { d with idle := 4 }))) (fun t => ((t.die 0).idle, (t.tile 0).idle)) =
      some (0, 3) := by decide +kernel
theorem hyp_PowerSteps_asleep : ((tilesOfDie 0).filter (tSleep none).enabledTile) = [0] ∧ tileIsIdle (tSleep none) 0 = true ∧
    meets 2000000 ((tSleep none).toleranceOf 0) = true ∧ meets 2000000 ((tSleep (some 1000000)).toleranceOf 0) = false := by decide +kernel
theorem hyp_PowerSteps_deepest : deepest (tT.toleranceOf 0) = 3 ∧ deepest (some 100) = 1 ∧ (tM.onMe (fun t => t.setErrA 1 3)).me.errA 1 = 3 := by
  decide +kernel
theorem hyp_PowerSteps_errors : (tT.strand 0).task.isSome = true ∧ (tT.strand 0).restartable = true ∧ (irrevS tT).me.restartable = false ∧
    (tT.strand 1).task = none ∧ bitOf (tT.die 0).lastue 63 = false ∧ (∃ g, tT.region 2 = some g ∧ g.tiles = [0]) := ⟨rfl, rfl, rfl, rfl, rfl, ⟨_, rfl, rfl⟩⟩
/-- A record that turns off the tiles of column 15 of each die. -/
def okRecord : ConfigRecord := { ConfigRecord.fresh with disabled := defaultDisabled }
theorem okRecord_column : ∀ d < 12, ((tilesOfDie d).filter (fun t => t % 16 == 15)).countP okRecord.disabled.contains = 16 := by
  decide +kernel
theorem hyp_PowerSteps_record : recordOk okRecord = true := by
  have h : ((List.range Config.dieCount).all (fun d => decide (16 ≤ (tilesOfDie d).countP okRecord.disabled.contains))) = true := by
    refine List.all_eq_true.2 fun d hd => decide_eq_true ?_
    rw [← okRecord_column d (List.mem_range.1 hd)]
    exact List.filter_sublist.countP_le
  unfold recordOk
  rw [h]
  decide +kernel
/-- A record that boot stage 2 has measured. -/
def tBoot : State := { tT with bootStage := 2, bootHash := shake256 okRecord.image 64 }
theorem hyp_PowerSteps_measured : tBoot.recovery = false ∧ 2 ≤ tBoot.bootStage ∧ shake256 okRecord.image 64 = tBoot.bootHash ∧
    tBoot.minVersion ≤ okRecord.version := ⟨rfl, by decide, rfl, by decide⟩
theorem hyp_PowerSteps_boot : tT.recovery = false ∧ tT.bootStage < 6 ∧ tT.minVersion ≤ okRecord.version ∧
    recordOk { okRecord with power := 2001 } = false := by decide +kernel
/-- A clamped reading, a neighbourhood's median, and a reading that stands. -/
theorem test_sensors : correct (List.replicate 256 200) (List.replicate 256 0) 0 = (300, true) ∧
    correct (List.replicate 256 50) (List.replicate 256 0) 0 = (100, false) ∧
    correct (90 :: List.replicate 255 50) (List.replicate 256 0) 0 = (100, true) := by decide +kernel
theorem test_soft_error : look (exec (.softError (.sReg 0 11)) (irrevS tT)) (fun t => (t.me.markS 11, (t.die 0).uecount)) = some (true, 1) ∧
    look (exec (.softError (.memUnit 0x40000)) tT) (fun t => (t.poisoned 0x40003, fld (t.die 0).lastue 0 48)) = some (true, 0x40000) := by decide +kernel

/-! ### Frames, steps, the invariant -/

theorem hyp_Frames : ∃ t, exec (.add 0 10 11 12) tR = .next t ∧ tR.acts .none 0 [10, 11, 12] = true := ⟨_, rfl, rfl⟩
theorem hyp_Frames_others : tV.acts .imm 0 [10, 11] = true ∧ tV.acts .mode 0 [10, 11, 12] = true ∧ rmOnly tV.me.pfxr = true ∧
    tV.acts .none 0 [] = true ∧ tV.actsB .none 0 [] [3, 1, 2] = true := by decide
theorem hyp_Frames_vector : tV.actsB .mode 0 [] [3, 1] = true ∧ tV.actsB .none 0 [] [3, 1, 2] = true ∧ tV.cleanP [1] = true ∧
    tV.actsB .none 0 [11] [3] = true ∧ tV.actsB .none 0 [12] [3, 1] = true ∧ tV.clean [12] = true ∧ tV.actsB .none 0 [11, 12] [3] = true ∧
    tV.actsV .none 0 [11, 12] [1] [] = true ∧ tV.actsV .none 0 [11] [1] [] = true ∧ tV.actsB .none 0 [] [1, 2] = true ∧
    tV.actsB .mode 0 [] [1, 2] = true ∧ tV.me.markV 1 = 0 ∧ tV.me.markV 2 = 0 ∧ elemFmt 1 ≠ .c4 ∧ tV.acts .none 0 [11] = true ∧
    tV.acts .mode 0 [11, 12] = true := by decide +kernel
/-- The guard's disabled bytes stay, of a register and of a predicate. -/
theorem test_frame : (valV (exec (.vbcast 1 1 11 0) (tV.onMe (fun t => t.wrP 1 1 false))) 1).map (fun x => (byteAt x 0, byteAt x 4)) = some (7, 2) ∧
    valP (exec (.vcmpInt 1 2 1 1 0 0) (tV.onMe (fun t => (t.wrP 1 1 false).wrP 2 2 false))) 2 = some 3 := by decide +kernel
theorem hyp_DecodeEncode : (Instr.add 0 10 11 12).wf = true ∧ encode (.add 0 10 11 12) = some 0x0414B600 := ⟨rfl, rfl⟩
theorem hyp_EncodeDecode : decode 0x0414B600 = .ok (.add 0 10 11 12) := rfl

/-- The state in which core 0 fetches the word of add 10 11 12. -/
def tF : State := State.reset.withFetchWord 32 0x0414B600
theorem hyp_StepRunsDecoded : ∃ u, tF.agenda = [.issue 0] ∧ ({ tF with agenda := [], curCore := 0 } : State).issueOrder 0 = [0] ∧
    watchdogDue { tF with agenda := [], curCore := 0 } 0 = false ∧
    (({ tF with agenda := [], curCore := 0 } : State).takeUp 0).fetch = .word u 0x0414B600 :=
  ⟨_, by decide +kernel, by decide +kernel, by decide +kernel, rfl⟩
theorem test_step : look (step tF) (fun t => (t.me.pc, t.me.cycles)) = some (0x30000004, 1) := by decide +kernel
theorem hyp_StepKeepsInv : tF.Inv = true ∧ (look (step tF) (fun _ => true)) = some true := by decide +kernel
end Sys2Proof.Tests
end

section
/-! PROOF. The conditions of 05 R86 and the integer compares of 06 R111 and R112. -/

namespace Sys2Proof

/-! ### Reserved codes (05 R86) -/

/-- An instruction whose field limit is `n < k` is ill-formed when its field reaches the limit. -/
theorem Instr.wf_eq_false_of_limit {i : Instr} {n k : Nat} (hlimit : i.fieldsOk = decide (n < k)) (hn : k ≤ n) :
    i.wf = false := by
  have hfields : i.fieldsOk = false := by rw [hlimit, decide_eq_false (by omega)]
  simp only [Instr.wf, hfields, Bool.and_false]

end Sys2Proof

namespace Sys2Proof.Machine

/-! ### The table of conditions (05 R86), at every width -/

section
variable {w : Nat} (x y : BitVec w)

@[simp] theorem condHolds_eq : condHolds 0 x y = decide (x = y) := beq_eq_decide x y
@[simp] theorem condHolds_ne : condHolds 1 x y = decide (x ≠ y) :=
  (congrArg not (beq_eq_decide x y)).trans decide_not.symm
@[simp] theorem condHolds_lt : condHolds 2 x y = decide (x.toInt < y.toInt) := BitVec.slt_eq_decide
@[simp] theorem condHolds_ge : condHolds 3 x y = decide (x.toInt ≥ y.toInt) := BitVec.sle_eq_decide
@[simp] theorem condHolds_le : condHolds 4 x y = decide (x.toInt ≤ y.toInt) := BitVec.sle_eq_decide
@[simp] theorem condHolds_gt : condHolds 5 x y = decide (x.toInt > y.toInt) := BitVec.slt_eq_decide
@[simp] theorem condHolds_ltz : condHolds 6 x y = decide (x.toNat < y.toNat) := BitVec.ult_eq_decide
@[simp] theorem condHolds_gez : condHolds 7 x y = decide (x.toNat ≥ y.toNat) := BitVec.ule_eq_decide
@[simp] theorem condHolds_lez : condHolds 8 x y = decide (x.toNat ≤ y.toNat) := BitVec.ule_eq_decide
@[simp] theorem condHolds_gtz : condHolds 9 x y = decide (x.toNat > y.toNat) := BitVec.ult_eq_decide

end

/-! ### Compares (06 R109 to R112) -/

/-- A compare that acts on unmarked sources writes P[d] by its condition, read before the write, and goes on. -/
theorem run_setCond {s : State} {px : Pfx} {g : Guard} {ss : List SReg} (hacts : s.acts px g ss = true)
    (hclean : s.clean ss = true) (d : PReg) (holds : Strand → Bool) :
    run s { px := px, g := g, ss := ss } (poisonS s ss (.done (s.onMe (fun t => t.setCond d (holds t))))) =
      .next (s.resultP d (if holds s.me then BitVec.allOnes 64 else 0) false) := by
  rw [run_acts hacts, poisonS_clean hclean, finish_done]
  rfl

theorem exec_cmp {s : State} {g : Guard} {a b : SReg} (hacts : s.acts .none g [a, b] = true)
    (hclean : s.clean [a, b] = true) (d : PReg) (cc : BitVec 4) :
    exec (.cmp g d a b cc) s =
      .next (s.resultP d (if condHolds cc.toNat (s.me.rd a) (s.me.rd b) then BitVec.allOnes 64 else 0) false) :=
  run_setCond hacts hclean d (fun t => condHolds cc.toNat (t.rd a) (t.rd b))

theorem exec_cmpi {s : State} {g : Guard} {a : SReg} (hacts : s.acts .imm g [a] = true)
    (hclean : s.clean [a] = true) (d : PReg) (cc : BitVec 4) (imm : BitVec 10) :
    exec (.cmpi g d cc a imm) s =
      .next (s.resultP d (if condHolds cc.toNat (s.me.rd a) (s.me.imm imm) then BitVec.allOnes 64 else 0) false) :=
  run_setCond hacts hclean d (fun t => condHolds cc.toNat (t.rd a) (t.imm imm))

/-! ### The obligation -/

/-- 05 R86: integer compares and branches take codes below 10, floating-point compares codes below 6; the ten codes mean
what the table says. -/
theorem conditions : Says.Conditions := by
  refine ⟨fun g pd a b va vb w q i5 i10 i12 cc fc t => ⟨fun hcc => ?_, fun hfc => ?_⟩, fun x y => ?_⟩
  · exact ⟨Instr.wf_eq_false_of_limit rfl hcc, Instr.wf_eq_false_of_limit rfl hcc, Instr.wf_eq_false_of_limit rfl hcc,
      Instr.wf_eq_false_of_limit rfl hcc, Instr.wf_eq_false_of_limit rfl hcc⟩
  · exact ⟨Instr.wf_eq_false_of_limit rfl hfc, Instr.wf_eq_false_of_limit rfl hfc⟩
  · exact ⟨condHolds_eq x y, condHolds_ne x y, condHolds_lt x y, condHolds_ge x y, condHolds_le x y, condHolds_gt x y,
      condHolds_ltz x y, condHolds_gez x y, condHolds_lez x y, condHolds_gtz x y⟩

theorem compares : Says.Compares := fun _ _ d _ _ cc imm =>
  ⟨fun hacts hclean => exec_cmp hacts hclean d cc, fun hacts hclean => exec_cmpi hacts hclean d cc imm⟩

/-- Settles O3: the condition table and the reserved codes hold by the codes' limits, and cmp and cmpi share one rule for
an instruction that writes a condition to P[d]. -/
theorem integerCompares : Obligations.IntegerCompares := ⟨conditions, compares⟩

end Sys2Proof.Machine
end

section
/-! PROOF. Immediates (05 R83, R104) and the immediate forms, `lui` and `addpc` (06 R112, R113). -/

namespace Sys2Proof.Machine

/-! ### The value of an immediate field (05 R83, R104) -/

section
variable {w : Nat} {t : Strand} (f : BitVec w)

theorem imm_of_no_immx (h : t.pfxr.getLsbD 61 = false) : t.imm f = f.signExtend 64 :=
  if_neg (Bool.eq_false_iff.1 h)

theorem imm_of_immx (h : t.pfxr.getLsbD 61 = true) :
    t.imm f = (t.pfxr.extractLsb' 22 22 ++ f).signExtend 64 := if_pos h

end

/-! ### Shifts and rotations by six bits (01 R9), the upper immediate -/

section
variable (x : Word) (n : BitVec 6)

/-- A count of six bits is below 64: it shifts by its own value. -/
theorem shiftCount_zeroExtend : (n.zeroExtend 64).toNat % 64 = n.toNat := by
  rw [BitVec.zeroExtend, BitVec.toNat_setWidth_of_le (by omega), Nat.mod_eq_of_lt n.isLt]

theorem shiftL_zeroExtend : shiftL x (n.zeroExtend 64) = x <<< n.toNat :=
  congrArg (x <<< ·) (shiftCount_zeroExtend n)

theorem shiftR_zeroExtend : shiftR x (n.zeroExtend 64) = x >>> n.toNat :=
  congrArg (x >>> ·) (shiftCount_zeroExtend n)

theorem shiftA_zeroExtend : shiftA x (n.zeroExtend 64) = x.sshiftRight n.toNat :=
  congrArg x.sshiftRight (shiftCount_zeroExtend n)

theorem rotL_zeroExtend : rotL x (n.zeroExtend 64) = x <<< n.toNat ||| x >>> (64 - n.toNat) := by
  rw [rotL, shiftCount_zeroExtend, BitVec.rotateLeft_def, Nat.mod_eq_of_lt n.isLt]

theorem shiftLeft_twelve : x <<< 12 = x * 2 ^ 12 := BitVec.shiftLeft_eq_mul_twoPow x 12

end

/-! ### Instructions that write S[d] (06 R109, R112, R113) -/

section
variable {s : State} {g : Guard} {d a : SReg}

/-- An instruction that acts writes its value and its mark, both read before the write, and goes on. -/
theorem run_write {px : Pfx} {ss : List SReg} (hacts : s.acts px g ss = true) (value : Strand → Word)
    (mark : Strand → Bool) :
    run s { px := px, g := g, ss := ss } (.done (s.onMe (fun t => t.wr d (value t) (mark t)))) =
      .next (s.result d (value s.me) (mark s.me)) := run_acts hacts

theorem alu1_acts (hacts : s.acts .none g [d, a] = true) (f : Word → Word) :
    alu1 s g d a f = .next (s.result d (f (s.me.rd a)) (s.me.markS a)) :=
  run_write hacts (fun t => f (t.rd a)) (fun t => t.markS a)

theorem aluImm_acts {w : Nat} (hacts : s.acts .imm g [d, a] = true) (imm : BitVec w) (f : Word → Word → Word) :
    aluImm s g d a imm f = .next (s.result d (f (s.me.rd a) (s.me.imm imm)) (s.me.markS a)) :=
  run_write hacts (fun t => f (t.rd a) (t.imm imm)) (fun t => t.markS a)

theorem exec_lui (hacts : s.acts .imm 0 [d] = true) (u : BitVec 21) :
    exec (.lui d u) s = .next (s.result d (s.me.imm u * 2 ^ 12) false) := by
  rw [← shiftLeft_twelve]
  exact run_write hacts (fun t => t.imm u <<< 12) (fun _ => false)

theorem exec_addpc (hacts : s.acts .imm 0 [d] = true) (u : BitVec 21) :
    exec (.addpc d u) s = .next (s.result d (s.me.pc + s.me.imm u * 4) false) :=
  run_write hacts (fun t => t.pc + t.imm u * 4) (fun _ => false)

end

/-! ### The obligation -/

theorem immediateValues : Says.ImmediateValues := fun _ f12 f21 f10 =>
  ⟨fun h => ⟨imm_of_no_immx f12 h, imm_of_no_immx f21 h, imm_of_no_immx f10 h⟩,
    fun h => ⟨imm_of_immx f12 h, imm_of_immx f21 h, imm_of_immx f10 h⟩⟩

theorem immediates : Says.Immediates := by
  intro s g d a imm n u x m
  refine ⟨fun hacts => ?_, fun hacts => ?_, fun hacts => ⟨exec_lui hacts u, exec_addpc hacts u⟩⟩
  · exact ⟨aluImm_acts hacts imm (· + ·), aluImm_acts hacts imm (· &&& ·), aluImm_acts hacts imm (· ||| ·),
      aluImm_acts hacts imm (· ^^^ ·)⟩
  · rw [← rotL_zeroExtend, ← shiftL_zeroExtend, ← shiftR_zeroExtend, ← shiftA_zeroExtend]
    exact ⟨alu1_acts hacts (shiftL · (n.zeroExtend 64)), alu1_acts hacts (shiftR · (n.zeroExtend 64)),
      alu1_acts hacts (shiftA · (n.zeroExtend 64)), alu1_acts hacts (rotL · (n.zeroExtend 64))⟩

/-- Settles O4: a pending `immx` or none gives the value of a field, and every form is a case of one rule for an
instruction that writes S[d], its shift counts and its `lui` shift brought to the statement's words. -/
theorem immediateForms : Obligations.ImmediateForms := ⟨immediateValues, immediates⟩

end Sys2Proof.Machine
end

section
/-! PROOF. Compare and branch, `j`, `jal` and `jalr` (06 R115 to R117). -/

namespace Sys2Proof.Machine

/-! ### The rule of a jump and of a branch (06 R115, R116) -/

section
variable {s : State} {px : Pfx} {g : Guard} {ss : List SReg}

/-- A jump that acts goes to its target; u is the state in which its link is written. -/
theorem run_jump (hacts : s.acts px g ss = true) (u : State) (pc : Word) :
    run s { px := px, g := g, ss := ss } (.jump u pc) = .next (jumps u pc) := run_acts hacts

/-- A branch on unmarked sources jumps or goes on to the next word. -/
theorem run_branch (hacts : s.acts px g ss = true) (hclean : s.clean ss = true) (taken : Bool) (pc : Word) :
    run s { px := px, g := g, ss := ss } (poisonS s ss (if taken then .jump s pc else .done s)) =
      .next (if taken then jumps s pc else s.retire) := by
  rw [run_acts hacts, poisonS_clean hclean]
  cases taken with
  | true => exact finish_jump s pc
  | false => exact finish_done s

end

/-! ### The indirect jump (06 R117) -/

/-- Bits [1:0] are the remainder by 4. -/
theorem fld_low_two (x : Word) : fld x 0 2 = x.toNat % 4 := BitVec.extractLsb'_toNat ..

section
variable {s : State} {g : Guard} {d a : SReg} {off : BitVec 12} {target : Word}

/-- On an unmarked S[a], read before the link is written, the alignment of the target decides. -/
theorem exec_jalr (hacts : s.acts .imm g [d, a] = true) (hclean : s.clean [a] = true)
    (htarget : s.me.rd a + s.me.imm off * 4 = target) :
    exec (.jalr g d a off) s =
      finish (if target.toNat % 4 ≠ 0 then .trap s 7 target
        else .jump (s.onMe (fun t => t.wr d (t.pc + 4) false)) target) := by
  subst htarget
  rw [← fld_low_two]
  exact (run_acts hacts).trans (congrArg finish (poisonS_clean hclean))

theorem exec_jalr_of_aligned (hacts : s.acts .imm g [d, a] = true) (hclean : s.clean [a] = true)
    (htarget : s.me.rd a + s.me.imm off * 4 = target) (haligned : target.toNat % 4 = 0) :
    exec (.jalr g d a off) s = .next (jumps (s.onMe (fun t => t.wr d (s.me.pc + 4) false)) target) := by
  rw [exec_jalr hacts hclean htarget, if_neg (not_not.2 haligned)]
  rfl

theorem traps_jalr_of_misaligned (hacts : s.acts .imm g [d, a] = true) (hclean : s.clean [a] = true)
    (htarget : s.me.rd a + s.me.imm off * 4 = target) (hmisaligned : target.toNat % 4 ≠ 0) :
    Traps (.jalr g d a off) s 7 target := by
  rw [Traps, exec_jalr hacts hclean htarget, if_pos hmisaligned, finish_trap]

end

/-- The return, `jalr s0, s1, 0`, and the word that the rule gives for it. -/
theorem decode_return : decode 0x68001000 = .ok (.jalr 0 0 1 0) := rfl

/-! ### The obligation -/

/-- Settles O7: the two branches share one rule, the jumps another, and the alignment of the target splits `jalr`. -/
theorem branchesAndJumps : Obligations.BranchesAndJumps := by
  intro s g d a b cc i5 off imm
  refine ⟨fun hacts hclean => ?bCc, fun hacts hclean => ?biCc, fun hacts => ?j, fun hacts => ?jal, fun hacts hclean => ?jalr,
    decode_return⟩
  case bCc => exact run_branch hacts hclean (condHolds cc.toNat (s.me.rd a) (s.me.rd b)) _
  case biCc => exact run_branch hacts hclean (condHolds cc.toNat (s.me.rd a) (i5.signExtend 64)) _
  case j => exact run_jump hacts s _
  case jal => exact run_jump hacts (s.onMe (fun t => t.wr d (t.pc + 4) false)) _
  case jalr => exact ⟨exec_jalr_of_aligned hacts hclean rfl, traps_jalr_of_misaligned hacts hclean rfl⟩

end Sys2Proof.Machine
end
